-- ==== Sys2Proof/Word.lean ====
section
/-! DEFINITION. The word types of the Dormen 7408 and the table type every sparse piece of state uses. -/
namespace Sys2Proof

/-- A 64-bit scalar word (spec 01 R41). -/
abbrev Word := BitVec 64

/-- One byte of memory. -/
abbrev Byte := BitVec 8

/-- A predicate register: 1,024 bits (spec 01 R41). -/
abbrev PredReg := BitVec 1024

/-- A vector register or a stairwell entry: 4,096 bits (spec 01 R16, R41). -/
abbrev VecReg := BitVec 4096

/-- A sparse table: entries by key, keys strictly rising. -/
abbrev Tbl (α : Type) := List (Nat × α)

end Sys2Proof
end

