-- ==== Sys2Proof/Syntax.lean ====
section
/-! DEFINITION. The syntax of the Dormen 7408: every row of the opcode table as one constructor of `Instr`, with the
structures its fields are made of. Meaning stands in Machine/. -/
namespace Sys2Proof

/-- The four engines of a core that run a code stream (spec 01 R43, 12 R324: the ENG code). -/
inductive Engine where
  | control | vector | matrix | transfer
deriving DecidableEq, Repr

/-- An agent that executes words or commands. A `slot` is a slot-table entry counted over the package:
48 × die + entry (spec 01 R13). A `core` is 2 × pair + (1 on a loft core). -/
inductive Agent where
  | idle
  | scalar (slot : Nat)
  | firmware (core : Nat)
  | vector (slot : Nat)
  | matrix (slot : Nat)
  | transfer (slot : Nat)
  | queue (q : Nat)
  | host (fn : Nat)
deriving DecidableEq, Repr

/-- The token fields of an engine word: one produced token and up to three consumed (spec 03 R103; 63 is none). -/
structure TokenFields where
  prod : BitVec 6
  c1 : BitVec 6
  c2 : BitVec 6
  c3 : BitVec 6
deriving DecidableEq, Repr

/-- The operand fields of a T-form instruction, two words (spec 03 R82). -/
structure TWord where
  tok : TokenFields
  a : BitVec 5
  b : BitVec 5
  par : BitVec 16
deriving DecidableEq, Repr

/-- The fields of a vector word beside its opcode (spec 03 R94). -/
structure VWord where
  stall : BitVec 3
  fmt : BitVec 4
  mask : BitVec 4
  tok : TokenFields
  d : BitVec 18
  a : BitVec 18
  b : BitVec 18
deriving DecidableEq, Repr

/-- The fields of a matrix word beside its opcode and its reserved bits (spec 03 R98). -/
structure MWord where
  stall : BitVec 3
  tok : TokenFields
  guard : BitVec 4
  afmt : BitVec 4
  agen : BitVec 3
  aoff : BitVec 16
  rows : BitVec 10
  start : BitVec 10
  wgen : BitVec 3
  woff : BitVec 16
  wfmt : BitVec 4
  kb : BitVec 8
  adp : BitVec 12
  rank : BitVec 6
  flags : BitVec 8
  ogen : BitVec 3
  ooff : BitVec 16
  ofmt : BitVec 4
  rnd : BitVec 2
  epi : BitVec 4
deriving DecidableEq, Repr

/-- The fields of a command word beside its opcode (spec 03 R104). -/
structure CWord where
  d : BitVec 4
  a : BitVec 4
  b : BitVec 4
  cond : BitVec 3
  aux : BitVec 8
  imm : BitVec 32
deriving DecidableEq, Repr

/-- What every host message carries beside its payload (spec 20 R471): the function whose ring held it, its tag,
whether it arrived as a secured message of the open session, and the result buffer of bytes 56–63. -/
structure MsgHdr where
  fn : Nat
  tag : BitVec 32
  sec : Bool
  buf : Word
deriving DecidableEq, Repr

/-- Queue attributes, as QUEUE_CREATE carries them (spec 15 R373, 20 R474). -/
structure QueueAttr where
  ctx : Nat
  prio : Nat
  rbase : Nat
  rsize : Nat
  nh : Nat
  hlist : Nat
  ibase : Nat
deriving DecidableEq, Repr

/-- The payload of ADP_INSTALL (spec 16 R420, 20 R474). -/
structure AdpInstall where
  kind : Nat
  rankm1 : Nat
  bver : Nat
  eidx : Nat
  parent : Nat
  aidx : Nat
  bidx : Nat
  ridx : Nat
deriving DecidableEq, Repr

/-- The payload of MODEL_LOAD (spec 18 R448, 20 R474). -/
structure ModelImage where
  vid : Nat
  svn : Nat
  addr : Nat
  len : Nat
  entry : Nat
  wobj : Nat
  nwobj : Nat
deriving DecidableEq, Repr

/-- A range of tasks of one launch assigned to a die (spec 15 R408). -/
structure DieRange where
  die : Nat
  lo : Nat
  hi : Nat
deriving DecidableEq, Repr

/-- A bind record the management core writes at a slot-table entry (spec 15 R409). -/
structure BindRecord where
  task : Nat
  lnum : Nat
  ctx : Nat
  valid : Bool
  matrix : Bool
  resume : Bool
deriving DecidableEq, Repr

/-- One write of a bind record. -/
structure BindWrite where
  slot : Nat
  record : BindRecord
deriving DecidableEq, Repr

/-- A message channel: one class from one sending die to one home die (spec 09 R314). Dies 0–7 are compute dies. -/
structure Channel where
  cls : Nat
  src : Nat
  dst : Nat
deriving DecidableEq, Repr

/-- The units of the start-up sequence (spec 21 R487). -/
inductive StartUnit where
  | security
  | managementIod (k : Nat)
  | frontEnd
  | loader
  | hostLink
  | die (d : Nat)
  | channel (d c : Nat)
  | podPort (k : Nat)
deriving DecidableEq, Repr

/-- Where an ECC error is found (spec 21 R490, 12 R346, R347). -/
inductive ErrUnit where
  | memory (key : Nat)
  | register (slot file num : Nat)
  | accRow (pair row : Nat)
  | weightRow (bank row : Nat)
  | llc (die line : Nat)
deriving DecidableEq, Repr

/-- What moves a locked interface to ERROR (spec 20 R478). -/
inductive IfaceError where
  | ringWrite | configChange | strayTlp | sessionLoss
deriving DecidableEq, Repr

/-- A register reached by a plain write (spec 20 R470, 18 R439, 01 R51–R53): BAR 0 of a function, a die's WPCFG, a
core's firmware-written registers as the management core writes them. -/
inductive HostReg where
  | mrbase (fn : Nat) | mrsize (fn : Nat) | mrtail (fn : Nat)
  | crbase (fn : Nat) | crsize (fn : Nat) | crhead (fn : Nat) | crtail (fn : Nat) | fstat (fn : Nat)
  | wpcfg (die : Nat) | wtbank (idx : Nat)
deriving DecidableEq, Repr

/-- The steps of the part: one constructor per row of the opcode table. Each docstring is the row's rule and what
it does. Words that a decoder builds come first. -/
inductive Instr where
  -- Scalar-stream words: arithmetic, control, address formation, tokens, tasks (spec 04).
  /-- 04 R122. Adds two scalar registers into rd, modulo 2^64. -/
  | add (rd a b : BitVec 5) (g : BitVec 4)
  /-- 04 R122. Subtracts s[b] from s[a] into rd. -/
  | sub (rd a b : BitVec 5) (g : BitVec 4)
  /-- 04 R122. Bitwise AND of two scalar registers. -/
  | and (rd a b : BitVec 5) (g : BitVec 4)
  /-- 04 R122. Bitwise OR of two scalar registers. -/
  | or (rd a b : BitVec 5) (g : BitVec 4)
  /-- 04 R122. Bitwise XOR of two scalar registers. -/
  | xor (rd a b : BitVec 5) (g : BitVec 4)
  /-- 04 R122. Shifts s[a] left by s[b][5:0]. -/
  | shl (rd a b : BitVec 5) (g : BitVec 4)
  /-- 04 R122. Logical right shift of s[a] by s[b][5:0]. -/
  | shr (rd a b : BitVec 5) (g : BitVec 4)
  /-- 04 R122. Arithmetic right shift of s[a] by s[b][5:0]. -/
  | sra (rd a b : BitVec 5) (g : BitVec 4)
  /-- 04 R122. Adds a sign-extended immediate to s[a]. -/
  | addi (rd a : BitVec 5) (imm : BitVec 12)
  /-- 04 R122. Bitwise AND with an immediate. -/
  | andi (rd a : BitVec 5) (imm : BitVec 12)
  /-- 04 R122. Bitwise OR with an immediate. -/
  | ori (rd a : BitVec 5) (imm : BitVec 12)
  /-- 04 R122. Bitwise XOR with an immediate. -/
  | xori (rd a : BitVec 5) (imm : BitVec 12)
  /-- 04 R122. Shifts left by an immediate amount 0-63. -/
  | shli (rd a : BitVec 5) (n : BitVec 6)
  /-- 04 R122. Logical right shift by an immediate amount. -/
  | shri (rd a : BitVec 5) (n : BitVec 6)
  /-- 04 R122. Arithmetic right shift by an immediate amount. -/
  | srai (rd a : BitVec 5) (n : BitVec 6)
  /-- 04 R123. Supplies bits [33:12] of the next word's immediate in the same bundle. -/
  | limm (k : BitVec 22)
  /-- 04 R124. Low 64 bits of the product of two registers. -/
  | mul (rd a b : BitVec 5) (g : BitVec 4)
  /-- 04 R124. High 64 bits of the signed 128-bit product. -/
  | mulh (rd a b : BitVec 5) (g : BitVec 4)
  /-- 04 R124. High 64 bits of the unsigned 128-bit product. -/
  | mulhu (rd a b : BitVec 5) (g : BitVec 4)
  /-- 04 R124. Signed minimum of two registers. -/
  | min (rd a b : BitVec 5) (g : BitVec 4)
  /-- 04 R124. Signed maximum of two registers. -/
  | max (rd a b : BitVec 5) (g : BitVec 4)
  /-- 04 R124. Unsigned minimum of two registers. -/
  | minu (rd a b : BitVec 5) (g : BitVec 4)
  /-- 04 R124. Unsigned maximum of two registers. -/
  | maxu (rd a b : BitVec 5) (g : BitVec 4)
  /-- 04 R129. Selects s[a] or s[b] by bit 0 of the predicate named in the guard field. -/
  | sel (rd a b : BitVec 5) (n : BitVec 4)
  /-- 04 R125. Signed interlocked division truncating toward zero. -/
  | div (rd a b : BitVec 5) (g : BitVec 4)
  /-- 04 R125. Unsigned interlocked division. -/
  | divu (rd a b : BitVec 5) (g : BitVec 4)
  /-- 04 R125. Signed remainder with the sign of the dividend. -/
  | rem (rd a b : BitVec 5) (g : BitVec 4)
  /-- 04 R125. Unsigned remainder. -/
  | remu (rd a b : BitVec 5) (g : BitVec 4)
  /-- 04 R125. Counts leading zero bits of s[a]. -/
  | clz (rd a : BitVec 5) (g : BitVec 4)
  /-- 04 R125. Counts one bits of s[a]. -/
  | popc (rd a : BitVec 5) (g : BitVec 4)
  /-- 04 R126. Extracts a zero-extended bit field. -/
  | ext (rd a : BitVec 5) (p n : BitVec 6)
  /-- 04 R126. Inserts the low bits of s[a] into a field of s[rd]. -/
  | ins (rd a : BitVec 5) (p n : BitVec 6)
  /-- 04 R127. Writes a whole predicate with s[a] = s[b]. -/
  | cmpEq (pd : BitVec 4) (a b : BitVec 5) (g : BitVec 4)
  /-- 04 R127. Writes a whole predicate with s[a] != s[b]. -/
  | cmpNe (pd : BitVec 4) (a b : BitVec 5) (g : BitVec 4)
  /-- 04 R127. Writes a whole predicate with signed s[a] < s[b]. -/
  | cmpLt (pd : BitVec 4) (a b : BitVec 5) (g : BitVec 4)
  /-- 04 R127. Writes a whole predicate with unsigned s[a] < s[b]. -/
  | cmpLtu (pd : BitVec 4) (a b : BitVec 5) (g : BitVec 4)
  /-- 04 R127. Writes a whole predicate with signed s[a] >= s[b]. -/
  | cmpGe (pd : BitVec 4) (a b : BitVec 5) (g : BitVec 4)
  /-- 04 R127. Writes a whole predicate with unsigned s[a] >= s[b]. -/
  | cmpGeu (pd : BitVec 4) (a b : BitVec 5) (g : BitVec 4)
  /-- 04 R127. Compares s[a] with a 9-bit signed immediate under a coded condition and fills a predicate. -/
  | cmpi (pd : BitVec 4) (a : BitVec 5) (c : BitVec 3) (imm : BitVec 9)
  /-- 04 R128. ANDs two predicates. -/
  | pand (pd pa pb g : BitVec 4)
  /-- 04 R128. ORs two predicates. -/
  | por (pd pa pb g : BitVec 4)
  /-- 04 R128. XORs two predicates. -/
  | pxor (pd pa pb g : BitVec 4)
  /-- 04 R128. Inverts a predicate. -/
  | pnot (pd pa g : BitVec 4)
  /-- 04 R128. Copies a predicate. -/
  | pmov (pd pa g : BitVec 4)
  /-- 04 R130. Guarded relative branch. -/
  | br (g : BitVec 4) (disp : BitVec 17)
  /-- 04 R130. Guarded relative branch that links the address after the bundle in s31. -/
  | call (g : BitVec 4) (disp : BitVec 17)
  /-- 04 R131. Jumps to the address in s[a], optionally linking into rd. -/
  | jr (rd a : BitVec 5) (g : BitVec 4)
  /-- 04 R132. Decrements a count register and branches back while it is nonzero. -/
  | loop (rd : BitVec 5) (imm : BitVec 12)
  /-- 04 R133. Raises a precise BREAK trap with a 10-bit code. -/
  | brk (code : BitVec 10) (g : BitVec 4)
  /-- 04 R134. Forms a private, scratchpad or quad-shared generic address from an offset. -/
  | gaddr (rd a w : BitVec 5) (g : BitVec 4)
  /-- 04 R135. Fills a predicate with whether an address's window is in a class mask. -/
  | sptest (pd : BitVec 4) (a classes : BitVec 5) (g : BitVec 4)
  /-- 04 R136. Converts between scratchpad and quad-shared address forms. -/
  | spcast (rd a dir : BitVec 5) (g : BitVec 4)
  /-- 04 R137. Returns the size of the object or weight object an address names. -/
  | objsz (rd a : BitVec 5) (g : BitVec 4)
  /-- 04 R138. Waits for the task's writes to an object, advances its write version and resets its claims. -/
  | objver (rd a : BitVec 5) (g : BitVec 4)
  /-- 04 R139. Reads a CSR into a scalar register. -/
  | csrr (rd : BitVec 5) (csr : BitVec 12)
  /-- 04 R139. Writes the writable fields of a CSR from s[a]. -/
  | csrw (a : BitVec 5) (csr : BitVec 12)
  /-- 04 R140. Queues a vector block with a register snapshot, repeat count and token edges. -/
  | vexec (w : TWord)
  /-- 04 R140. Queues a matrix block run over the nest points. -/
  | mexec (w : TWord)
  /-- 04 R140. Queues a transfer-sequencer block with x1 and x2 parameters. -/
  | xexec (w : TWord)
  /-- 06 R207. Queues a read of a 256-byte nest record into the shadow nest table. -/
  | mnest (w : TWord)
  /-- 04 R148. Captures a token's issued generation and holds the slot until it completes. -/
  | twait (tk : BitVec 6)
  /-- 04 R149. Waits until a token is idle and resets both its generations to 0. -/
  | tclr (tk : BitVec 6)
  /-- 04 R150. Lends a vector bank to the matrix engine as source or target. -/
  | vlend (bank : BitVec 2) (role : BitVec 1) (g : BitVec 4)
  /-- 04 R150. Returns a lent bank once the matrix engine's accesses to it complete. -/
  | vrecl (bank : BitVec 2) (g : BitVec 4)
  /-- 04 R152. Starts a move of the pair's local-store cache size to a target in MiB. -/
  | phase (a : BitVec 5) (g : BitVec 4)
  /-- 04 R154. Blocks the slot until every producer task has triggered or exited. -/
  | waitdep (g : BitVec 4)
  /-- 04 R154. Marks the task triggered once its earlier work completes. -/
  | trig (g : BitVec 4)
  /-- 04 R155. Releases at .pkg and hands a launch record to the die's dispatcher. -/
  | launch (a : BitVec 5) (g : BitVec 4)
  /-- 04 R156. Issues and holds until the task's work is done, then frees the slot. -/
  | exit (g : BitVec 4)
  /-- 04 R157. Sets a skip mark so the slot is passed over once in arbitration. -/
  | yield (g : BitVec 4)
  -- Scalar-stream words: memory and synchronisation (spec 07).
  /-- 07 R237. Loads a sign-extended byte. -/
  | ldB (rd a : BitVec 5) (imm : BitVec 12)
  /-- 07 R237. Loads a zero-extended byte. -/
  | ldBu (rd a : BitVec 5) (imm : BitVec 12)
  /-- 07 R237. Loads a sign-extended halfword. -/
  | ldH (rd a : BitVec 5) (imm : BitVec 12)
  /-- 07 R237. Loads a zero-extended halfword. -/
  | ldHu (rd a : BitVec 5) (imm : BitVec 12)
  /-- 07 R237. Loads a sign-extended word. -/
  | ldW (rd a : BitVec 5) (imm : BitVec 12)
  /-- 07 R237. Loads a zero-extended word. -/
  | ldWu (rd a : BitVec 5) (imm : BitVec 12)
  /-- 07 R237. Loads a doubleword. -/
  | ldD (rd a : BitVec 5) (imm : BitVec 12)
  /-- 07 R237. Stores a byte. -/
  | stB (rd a : BitVec 5) (imm : BitVec 12)
  /-- 07 R237. Stores a halfword. -/
  | stH (rd a : BitVec 5) (imm : BitVec 12)
  /-- 07 R237. Stores a word. -/
  | stW (rd a : BitVec 5) (imm : BitVec 12)
  /-- 07 R237. Stores a doubleword. -/
  | stD (rd a : BitVec 5) (imm : BitVec 12)
  /-- 07 R238. Atomic 32-bit swap at the home, returning the old value. -/
  | amoSwapW (rd a b : BitVec 5) (sc : BitVec 4)
  /-- 07 R238. Atomic 32-bit add. -/
  | amoAddW (rd a b : BitVec 5) (sc : BitVec 4)
  /-- 07 R238. Atomic 32-bit AND. -/
  | amoAndW (rd a b : BitVec 5) (sc : BitVec 4)
  /-- 07 R238. Atomic 32-bit OR. -/
  | amoOrW (rd a b : BitVec 5) (sc : BitVec 4)
  /-- 07 R238. Atomic 32-bit XOR. -/
  | amoXorW (rd a b : BitVec 5) (sc : BitVec 4)
  /-- 07 R238. Atomic 32-bit signed minimum. -/
  | amoMinW (rd a b : BitVec 5) (sc : BitVec 4)
  /-- 07 R238. Atomic 32-bit signed maximum. -/
  | amoMaxW (rd a b : BitVec 5) (sc : BitVec 4)
  /-- 07 R238. Atomic 64-bit swap. -/
  | amoSwapD (rd a b : BitVec 5) (sc : BitVec 4)
  /-- 07 R238. Atomic 64-bit add. -/
  | amoAddD (rd a b : BitVec 5) (sc : BitVec 4)
  /-- 07 R238. Atomic 64-bit AND. -/
  | amoAndD (rd a b : BitVec 5) (sc : BitVec 4)
  /-- 07 R238. Atomic 64-bit OR. -/
  | amoOrD (rd a b : BitVec 5) (sc : BitVec 4)
  /-- 07 R238. Atomic 64-bit XOR. -/
  | amoXorD (rd a b : BitVec 5) (sc : BitVec 4)
  /-- 07 R238. Atomic 64-bit signed minimum. -/
  | amoMinD (rd a b : BitVec 5) (sc : BitVec 4)
  /-- 07 R238. Atomic 64-bit signed maximum. -/
  | amoMaxD (rd a b : BitVec 5) (sc : BitVec 4)
  /-- 07 R238. Atomic 32-bit unsigned minimum. -/
  | amoMinuW (rd a b : BitVec 5) (sc : BitVec 4)
  /-- 07 R238. Atomic 32-bit unsigned maximum. -/
  | amoMaxuW (rd a b : BitVec 5) (sc : BitVec 4)
  /-- 07 R238. Atomic 64-bit unsigned minimum. -/
  | amoMinuD (rd a b : BitVec 5) (sc : BitVec 4)
  /-- 07 R238. Atomic 64-bit unsigned maximum. -/
  | amoMaxuD (rd a b : BitVec 5) (sc : BitVec 4)
  /-- 07 R239. 32-bit compare-and-swap with comparand and result in rd. -/
  | casW (rd a b : BitVec 5) (sc : BitVec 4)
  /-- 07 R239. 64-bit compare-and-swap. -/
  | casD (rd a b : BitVec 5) (sc : BitVec 4)
  /-- 07 R241. Sign-extended 32-bit load-acquire at a scope. -/
  | ldacqW (rd a : BitVec 5) (sc : BitVec 4)
  /-- 07 R241. 64-bit load-acquire at a scope. -/
  | ldacqD (rd a : BitVec 5) (sc : BitVec 4)
  /-- 07 R242. 32-bit store-release at a scope. -/
  | strelW (a b : BitVec 5) (sc : BitVec 4)
  /-- 07 R242. 64-bit store-release at a scope. -/
  | strelD (a b : BitVec 5) (sc : BitVec 4)
  /-- 07 R243. Full fence: a release followed by an acquire at a scope, including .persist. -/
  | fence (sc : BitVec 4)
  /-- 07 R242. Release-only fence at a scope. -/
  | fenceRel (sc : BitVec 4)
  /-- 07 R243. Acquire-only fence at a scope. -/
  | fenceAcq (sc : BitVec 4)
  /-- 07 R247. Arrives at a barrier-network channel as a release and waits for the episode to complete. -/
  | bar (a : BitVec 5) (sc : BitVec 4)
  /-- 07 R251. Releases at .quad and arrives at a transaction barrier with expected bytes. -/
  | txarr (a b : BitVec 5) (g : BitVec 4)
  /-- 07 R252. Waits until a transaction barrier's phase differs from the reference, then acquires at .quad. -/
  | txwait (rd a : BitVec 5) (g : BitVec 4)
  -- Transfer-stream T-form words (spec 07).
  /-- 07 R260. Transfer of a length of bytes between generic addresses with optional barrier. -/
  | copy (w : TWord)
  /-- 07 R261. Tensor copy described by a 64-byte tensor map. -/
  | copyt (w : TWord)
  /-- 07 R262. Tensor copy with one side addressed as a wrapping ring. -/
  | copyr (w : TWord)
  /-- 07 R263. Gathers rows by an index list into a contiguous destination. -/
  | gath (w : TWord)
  /-- 07 R263. Scatters contiguous rows to indexed destination rows. -/
  | scat (w : TWord)
  /-- 07 R264. Combines source elements into destination elements at their home by add, max or min. -/
  | redc (w : TWord)
  /-- 07 R265. Remote atomic operation that releases at its scope and returns the old value on completion. -/
  | ratom (w : TWord)
  /-- 07 R266. Prefetches global lines into their home dies' LLC. -/
  | bpref (w : TWord)
  /-- 07 R267. Captures 64 source bytes and requests programming of one weight row. -/
  | wprog (w : TWord)
  -- System words (spec 07).
  /-- 07 R269. Raises a precise SYSCALL trap with a code. -/
  | trap (code : BitVec 10) (g : BitVec 4)
  /-- 07 R270. Waits for the handler's matrix blocks, restores set-aside state and continues at TEPC. -/
  | eret (g : BitVec 4)
  /-- 07 R271. Stops the firmware context until its management core restarts it. -/
  | halt (g : BitVec 4)
  /-- 07 R272. Sets this core's stairwell EN and may make the context owner. -/
  | vfcfgEnable (g : BitVec 4)
  /-- 07 R272. Clears this core's stairwell EN, ending ownership when both are clear. -/
  | vfcfgDisable (g : BitVec 4)
  /-- 07 R272. Firmware moves the stairwell from open to closing. -/
  | vfcfgGate (g : BitVec 4)
  /-- 07 R272. Firmware moves the stairwell from closed to open. -/
  | vfcfgReopen (g : BitVec 4)
  -- Vector words (spec 05).
  /-- 05 R173. Lane-wise add. -/
  | vadd (w : VWord)
  /-- 05 R173. Lane-wise subtract. -/
  | vsub (w : VWord)
  /-- 05 R173. Lane-wise multiply. -/
  | vmul (w : VWord)
  /-- 05 R174. Lane-wise fused multiply-add into D. -/
  | vfma (w : VWord)
  /-- 05 R174. Lane-wise fused multiply-subtract from D. -/
  | vfms (w : VWord)
  /-- 05 R175. Lane-wise minimum. -/
  | vmin (w : VWord)
  /-- 05 R175. Lane-wise maximum. -/
  | vmax (w : VWord)
  /-- 05 R176. Lane-wise absolute value. -/
  | vabs (w : VWord)
  /-- 05 R176. Lane-wise negation. -/
  | vneg (w : VWord)
  /-- 05 R177. Lane-wise reciprocal approximation. -/
  | vrcp (w : VWord)
  /-- 05 R177. Lane-wise reciprocal square root approximation. -/
  | vrsq (w : VWord)
  /-- 05 R177. Lane-wise base-2 exponential approximation. -/
  | vexp2 (w : VWord)
  /-- 05 R177. Lane-wise base-2 logarithm approximation. -/
  | vlog2 (w : VWord)
  /-- 05 R177. Lane-wise hyperbolic tangent approximation. -/
  | vtanh (w : VWord)
  /-- 05 R184. Copies lanes; the vector load, store, push and pop. -/
  | vmov (w : VWord)
  /-- 05 R185. Broadcasts one lane of A to every enabled lane. -/
  | vbcast (w : VWord)
  /-- 05 R186. Permutes lanes of A by indices in B. -/
  | vperm (w : VWord)
  /-- 05 R181. Selects lanes of A or B by the mask predicate. -/
  | vsel (w : VWord)
  /-- 05 R179. Writes predicate bits with lane equality. -/
  | vcmpEq (w : VWord)
  /-- 05 R179. Writes predicate bits with lane inequality. -/
  | vcmpNe (w : VWord)
  /-- 05 R179. Writes predicate bits with lane less-than. -/
  | vcmpLt (w : VWord)
  /-- 05 R179. Writes predicate bits with lane greater-or-equal. -/
  | vcmpGe (w : VWord)
  /-- 05 R182. Lane-wise bitwise AND. -/
  | vand (w : VWord)
  /-- 05 R182. Lane-wise bitwise OR. -/
  | vor (w : VWord)
  /-- 05 R182. Lane-wise bitwise XOR. -/
  | vxor (w : VWord)
  /-- 05 R183. Lane-wise left shift. -/
  | vshl (w : VWord)
  /-- 05 R183. Lane-wise logical right shift. -/
  | vshr (w : VWord)
  /-- 05 R183. Lane-wise arithmetic right shift. -/
  | vsra (w : VWord)
  /-- 05 R189. Converts elements between plain formats or TERN by part. -/
  | vcvt (w : VWord)
  /-- 05 R191. Quantises a float register into block-scaled elements and companion scales. -/
  | vquant (w : VWord)
  /-- 05 R192. Expands block-scaled elements back to a plain float format. -/
  | vdequant (w : VWord)
  /-- 05 R193. Tree-sums the lanes of A. -/
  | vsum (w : VWord)
  /-- 05 R193. Tree-reduces the lanes of A to their maximum. -/
  | vmaxr (w : VWord)
  /-- 05 R194. Inclusive scan by addition or maximum in lane order. -/
  | vscan (w : VWord)
  /-- 05 R180. Writes predicate bits for a lane window. -/
  | vmaskw (w : VWord)
  /-- 05 R187. Writes a + i × b into each lane. -/
  | viota (w : VWord)
  /-- 05 R188. Extracts one lane into a scalar register. -/
  | vext (w : VWord)
  /-- 05 R188. Inserts a scalar into one lane. -/
  | vins (w : VWord)
  /-- 05 R195. Gathers up to 128 elements by INT32 indices. -/
  | vgath (w : VWord)
  /-- 05 R196. Scatters up to 128 elements by INT32 indices in lane order. -/
  | vscat (w : VWord)
  /-- 05 R200. Vector queue marker whose token completes when earlier vector accesses are performed. -/
  | vsync (w : VWord)
  /-- 05 R199. Reads stairwell state and FIFO counts into a scalar. -/
  | vfcnt (w : VWord)
  -- Matrix words (spec 06).
  /-- 06 R215. Fills the idle weight buffer with a tile and latches it. -/
  | wld (w : MWord)
  /-- 06 R216. Tile step multiplying activation rows by latched weights into accumulator rows. -/
  | astep (w : MWord)
  /-- 06 R217. Tile step with the adapter rank-path correction. -/
  | astepa (w : MWord)
  /-- 06 R218. Clears accumulator rows and their kind, closed and poison state. -/
  | aclr (w : MWord)
  /-- 06 R219. Adds or writes a 192-element row into accumulator rows. -/
  | aadd (w : MWord)
  /-- 06 R220. Multiplies accumulator rows by a row of 192 scales. -/
  | ascl (w : MWord)
  /-- 06 R221. Drains accumulator rows through scales, epilogue and conversion to memory or a bank. -/
  | ard (w : MWord)
  /-- 06 R223. Matrix queue marker completing after earlier matrix words. -/
  | mnop (w : MWord)
  /-- 06 R224. Reads a continuation block, reloads weights and runs the recorded remainder. -/
  | mcont (w : MWord)
  -- Command words (spec 15).
  /-- 15 R385. Loads an immediate or extension word into a command register. -/
  | cmdLdi (w : CWord) (ext : List Word)
  /-- 15 R385. Adds into a command register. -/
  | cmdAdd (w : CWord)
  /-- 15 R385. Subtracts into a command register. -/
  | cmdSub (w : CWord)
  /-- 15 R385. ANDs into a command register. -/
  | cmdAnd (w : CWord)
  /-- 15 R385. ORs into a command register. -/
  | cmdOr (w : CWord)
  /-- 15 R385. Shifts a command register left. -/
  | cmdShl (w : CWord)
  /-- 15 R385. Writes 1 or 0 by a coded comparison. -/
  | cmdCmp (w : CWord)
  /-- 15 R386. Forward branch in a ring, or any branch in a subprogram. -/
  | cmdBr (w : CWord)
  /-- 15 R386. Conditional branch on two command registers. -/
  | cmdBrc (w : CWord)
  /-- 15 R386. Pushes a return location and enters a subprogram. -/
  | cmdCall (w : CWord)
  /-- 15 R387. Opens a counted loop entry or skips the body. -/
  | cmdLoop (w : CWord)
  /-- 15 R390. Acquire load at .sys into a command register. -/
  | cmdLoad (w : CWord)
  /-- 15 R390. Release store at .sys from a command register. -/
  | cmdStore (w : CWord)
  /-- 15 R392. Holds the queue until a location satisfies a condition or a time-out passes. -/
  | cmdWait (w : CWord)
  /-- 15 R391. Indivisible release write of a value. -/
  | cmdSignalSet (w : CWord)
  /-- 15 R391. Indivisible release addition. -/
  | cmdSignalAdd (w : CWord)
  /-- 15 R402. Checks residency, fills an invocation block and launches a model's entry record. -/
  | invoke (w : CWord) (ext : List Word)
  /-- 15 R401. Submits a launch record and waits for admission or refusal. -/
  | cmdLaunch (w : CWord)
  /-- 15 R403. Holds the queue until earlier launches complete and applies pending pre-emption or gang stops. -/
  | graph (w : CWord)
  /-- 15 R405. Compare-and-claim of an adapter slot at the adapter home. -/
  | bind (w : CWord)
  /-- 15 R405. Starts a normal eviction of an owned adapter slot. -/
  | evict (w : CWord)
  /-- 15 R394. Holds the queue until PTIME reaches a value. -/
  | timeat (w : CWord)
  /-- 15 R413. Reads a gang descriptor and waits for the start time of a gang slice. -/
  | gang (w : CWord)
  /-- 15 R395. Raises a host event with a code and a register value. -/
  | report (w : CWord)
  /-- 15 R416. Writes a 16 KiB state summary as a release at .sys. -/
  | summary (w : CWord)
  -- Host messages that may travel plain (spec 20 R474).
  /-- 20 R474. Creates a context, optionally protected. -/
  | ctxCreate (ctx : Nat) (prot : Bool) (fn entries : Nat)
  /-- 20 R474. Destroys an unbound context and erases its key slots. -/
  | ctxDestroy (ctx : Nat)
  /-- 20 R469. Assigns a context to a function. -/
  | fnAssign (ctx fn : Nat)
  /-- 20 R474. Writes an object-table entry and assigns its GID. -/
  | objWrite (ctx idx : Nat) (ent : List Byte)
  /-- 08 R284. Removes an extent from extent caches and waits for old accesses. -/
  | extentInvalidate (ctx idx ext : Nat)
  /-- 08 R284. Releases held reads and side-log entries of a remapped extent. -/
  | extentMap (ctx idx ext : Nat)
  /-- 08 R288. Declares an extent unresolvable, ending its accesses in PAGE_FATAL. -/
  | extentFatal (ctx idx ext : Nat)
  /-- 15 R373. Creates a queue with its attributes. -/
  | queueCreate (q : Nat) (attr : QueueAttr)
  /-- 15 R373. Changes a created or stopped queue's attributes. -/
  | queueConfig (q : Nat) (attr : QueueAttr)
  /-- 15 R376. Sets a queue's HEAD. -/
  | queueDoorbell (q head : Nat)
  /-- 15 R375. Restarts a stopped queue at a given location. -/
  | queueRestart (q : Nat) (loc : Word)
  /-- 20 R474. Destroys a queue and releases its holds. -/
  | queueDestroy (q : Nat)
  /-- 20 R474. Returns a queue record. -/
  | queueRead (q : Nat)
  /-- 14 R367. Loads, translates, relocates and places a code object. -/
  | codeLoad (ctx : Nat) (addr len : Nat)
  /-- 14 R367. Withdraws a descriptor, freeing it after its last task. -/
  | codeUnload (desc : Nat)
  /-- 16 R420. Installs a claimed adapter slot, making it live. -/
  | adpInstall (slot : Nat) (attr : AdpInstall)
  /-- 16 R419. Releases a claimed slot back to free. -/
  | adpRelease (slot : Nat)
  /-- 16 R424. Forces an adapter slot to gone. -/
  | adpForceEvict (slot : Nat)
  /-- 20 R474. Returns an adapter slot record. -/
  | adpRead (slot : Nat)
  /-- 18 R448. Loads and measures a base-model version. -/
  | modelLoad (model ent : Nat) (attr : ModelImage)
  /-- 16 R427. Makes the other present version current. -/
  | modelSwitch (model : Nat)
  /-- 16 R427. Retires a non-current version. -/
  | modelRetire (model ent : Nat)
  /-- 20 R474. Returns a model-slot record. -/
  | modelRead (model : Nat)
  /-- 18 R435. Writes a weight-object table entry. -/
  | wobjWrite (id : Nat) (lo hi : List Byte)
  /-- 19 R466. Clears a die's readiness bit so no further work is placed there. -/
  | readyClear (die : Nat)
  /-- 19 R467. Starts a warm reset of an emptied die. -/
  | warmReset (die : Nat)
  /-- 19 R457. Retrains a UCIe module or the I/O-die link. -/
  | moduleRetrain (die module : Nat)
  /-- 18 R445. Requests re-calibration of a weight-tier bank. -/
  | recal (column bank : Nat)
  /-- 21 R489. Retrains an LPDDR channel while its accesses stall. -/
  | retrain (die channel : Nat)
  /-- 21 R489. Writes, checks and measures a firmware image into the inactive slot. -/
  | fwWrite (cls die svn addr len : Nat)
  /-- 21 R489. Switches service to the inactive firmware slot. -/
  | fwSwitch (cls die : Nat)
  /-- 20 R474. Returns WPCFG and WTBANK values. -/
  | wtRead (die first count : Nat)
  /-- 19 R451. Forms or leaves a pod and names the pod time master. -/
  | podForm (self master : Nat) (form : Bool)
  /-- 19 R462. Sets pod route-table entries. -/
  | podRoute (first : Nat) (ports : List (Nat × Nat))
  /-- 21 R488. Adds sections to the cellar pool, all or none. -/
  | cellarPool (ents : List (Nat × Nat))
  /-- 12 R330. Requests cooperative pre-emption of a context. -/
  | preemptCoop (ctx : Nat)
  /-- 12 R332. Checks and accepts or refuses a forced pre-emption, raising the halt line. -/
  | preemptForce (ctx gang : Nat)
  /-- 12 R336. Accepts a resume and reserves the context's pairs and entries. -/
  | resume (ctx : Nat)
  /-- 21 R488. Removes an unused section from the cellar pool. -/
  | cellarWithdraw (die addr : Nat)
  -- Host messages that are always secured (spec 20 R474).
  /-- 20 R479. Loads a key into an empty slot. -/
  | keySet (slot : Nat) (key : BitVec 256)
  /-- 20 R479. Assigns a loaded key slot to a context. -/
  | keyAssign (slot ctx : Nat)
  /-- 20 R480. Empties a key slot after earlier accesses are performed. -/
  | keyErase (slot : Nat)
  /-- 14 R372. Advances a monotonic fuse counter. -/
  | counterAdvance (ctr val : Nat)
  /-- 20 R482. Applies a signed debug unlock, full or non-protected only. -/
  | debugUnlock (token : List Byte)
  /-- 20 R481. Returns a signed attestation report. -/
  | attest (ctx : Nat) (nonce : List Byte)
  -- SPDM messages and the requests they carry (spec 20 R476, R478).
  /-- 20 R478. Freezes ring registers and the IDE stream, entering CONFIG_LOCKED. -/
  | lockInterface
  /-- 20 R478. Moves a locked interface to RUN. -/
  | startInterface
  /-- 20 R478. Returns the interface to CONFIG_UNLOCKED via the reset sequence. -/
  | stopInterface
  /-- 20 R478. Returns the interface report. -/
  | getDeviceInterfaceReport
  /-- 20 R476. Ends the function's secured session. -/
  | endSession
  /-- 20 R476. Carries one SPDM or secured message to the security controller. -/
  | spdm (addr len : Nat)
  -- Words, commands and messages without a field.
  /-- 04 R145. Ends the current transfer block. -/
  | xend
  /-- 07 R245. Queue marker ordering the engine's earlier and later accesses. -/
  | qmark
  /-- 15 R395. Command with no effect. -/
  | cmdNop
  /-- 15 R386. Pops loop entries of its depth and returns. -/
  | cmdRet
  /-- 15 R387. Decrements the top loop count and repeats or pops. -/
  | cmdEndl
  /-- 15 R393. Holds the queue until earlier stores and signals are performed at .sys. -/
  | cmdFence
  /-- 15 R395. Stops the queue with HALTED. -/
  | cmdHalt
  /-- 20 R473. Returns PTIME, host time and their bound. -/
  | timeQuery
  /-- 15 R416. Writes the state summary into host memory. -/
  | summaryMsg
  /-- 21 R484. Returns the readiness map and the model map. -/
  | readyQuery
  -- Internal steps and events.
  /-- 15 R392. The front end re-reads a WAIT location on a write at its home or each microsecond. -/
  | waitReread (q : Nat)
  /-- 15 R392. The WAIT deadline passes, writing TIMEOUT and letting the queue go on. -/
  | waitTimeout (q : Nat)
  /-- 15 R394. The front end's PTIME reaches the TIMEAT value and the queue continues. -/
  | timeatReached (q : Nat)
  /-- 15 R413. At T0, a ready package opens the gang slice and the queue goes on. -/
  | gangStart (q : Nat)
  /-- 15 R414. An unready member at T0 plus guard sends GANG_LATE and reports it. -/
  | gangGuardExpiry (q : Nat)
  /-- 15 R415. Passing T0 plus the late limit stops queues with GANG_LATE. -/
  | gangLateLimit (q : Nat)
  /-- 15 R415. A member records a GANG_LATE message from another member. -/
  | gangLateReceive (gang sender : Nat)
  /-- 15 R414. A late member becomes ready, sends GANG_ARRIVED and starts. -/
  | gangArrived (q : Nat)
  /-- 15 R415. A member records GANG_ARRIVED from a late sender. -/
  | gangArrivedReceive (gang sender : Nat)
  /-- 15 R402. An invocation block's previous invocation completes and a waiting INVOKE proceeds. -/
  | invokeBlockFree (q : Nat)
  /-- 15 R407. When room frees, the highest-priority fitting waiting launch is admitted and numbered. -/
  | launchAdmit
  /-- 15 R408. Management cores divide an admitted launch among dies and write bind records. -/
  | placement (lnum : Nat) (ranges : List DieRange) (recs : List BindWrite)
  /-- 15 R409. The dispatcher binds a valid bind record into an empty slot, or refuses it. -/
  | bindRecordBind (slot : Nat)
  /-- 15 R410. An early dependent launch binds once its producers have been admitted and dispatched a task. -/
  | earlyBind (slot : Nat)
  /-- 15 R412. An idle dispatcher asks another die for half of its largest stealable range. -/
  | stealRequest (thief : Nat) (loft : Bool)
  /-- 15 R397. When all tasks and attached launches finish, accesses are released at .sys and DONE is increased. -/
  | launchComplete (lnum : Nat)
  /-- 01 R30. After the bound task exits and its last matrix work completes, the accumulator store begins clearing. -/
  | matrixBindingEnd (pair : Nat)
  /-- 01 R30. Clearing ends after 64 cycles and the binding passes to a waiting slot. -/
  | accClearEnd (pair : Nat)
  /-- 04 R141. An engine begins a queued block once its captured generations complete. -/
  | engineBlockBegin (slot : Nat) (eng : Engine)
  /-- 01 R26. A production completes and the token's completed generation advances in issue order. -/
  | tokenComplete (slot : Nat) (tk : BitVec 6) (gen : BitVec 16)
  /-- 04 R148. The awaited generation completes and the held slot issues again. -/
  | twaitRelease (slot : Nat)
  /-- 01 R39. Every producer task has triggered and the WAITDEP bundle issues. -/
  | waitdepRelease (slot : Nat)
  /-- 04 R154. A TRIG's signal is sent once the task's earlier work has completed. -/
  | trigSignal (slot : Nat)
  /-- 04 R156. EXIT retires when the task's work is done, freeing the slot. -/
  | exitRetire (slot : Nat)
  /-- 07 R252. A barrier phase completes and a waiting TXWAIT returns. -/
  | txwaitRelease (a : Agent)
  /-- 04 R152. After 2,048 cycles per MiB the move ends and CMIB takes the target. -/
  | phaseMoveEnd (pair : Nat)
  /-- 01 R21. A held bundle or word becomes ready when its stall, queue or interlock clears. -/
  | stallResume (a : Agent)
  /-- 12 R322. A load, atomic or return value arrives and is written to its register or saved image. -/
  | accessResponse (id : Nat)
  /-- 07 R257. Bytes of a transfer land, counting barrier bytes and setting a line's full/empty bit. -/
  | transferLanding (id piece : Nat)
  /-- 07 R258. A transfer retires, completing its token and releasing its scoreboard entries. -/
  | transferRetire (id : Nat)
  /-- 08 R283. The extent walker reads an extent entry and fills the extent cache or ends in PAGE_FATAL. -/
  | extentWalk (core ctx obj ext : Nat)
  /-- 08 R286. After an extent is mapped the memory unit replays its side-log entries in age order. -/
  | sideLogReplay (core : Nat)
  /-- 08 R295. A dirty local-store cache line is written back to its home. -/
  | cacheWriteback (pair line : Nat)
  /-- 09 R314. A home applies a sequenced cross-die message in channel order and acknowledges it. -/
  | homeMessageApply (ch : Channel)
  /-- 19 R458. An acknowledgement from a home reaches the sender. -/
  | messageAck (ch : Channel)
  /-- 09 R314. After a link failure unacknowledged messages are re-sent on another path with original numbers. -/
  | linkResend (ch : Channel)
  /-- 19 R460. A receiver frees a buffer and returns a permit to the sender. -/
  | permitReturn (die module cls : Nat)
  /-- 06 R230. Each 32-cycle window the governor moves its budget and sets the beat ceiling and floor. -/
  | governorWindow (pair : Nat)
  /-- 01 R20. Each 64-cycle window resets the firmware context's issue count. -/
  | fwshareWindow (core : Nat)
  /-- 12 R322. An engine reached by the halt line stops at its boundary and writes its stop record. -/
  | engineStop (slot : Nat) (eng : Engine)
  /-- 06 R227. 1,024 cycles after the halt no further row begins and the matrix stop is recorded. -/
  | matrixHaltSkidEnd (pair rows : Nat)
  /-- 12 R325. After the context's engines stop, the trap is delivered to the task's handler. -/
  | trapDelivery (ctx : Nat)
  /-- 07 R273. With both FIFOs empty and no loft task bound, closing becomes closed and the loft is gated. -/
  | stairwellClosed (pair : Nat)
  /-- 07 R273. 10 µs after a gate with entries left, the device requests forced pre-emption of the owner. -/
  | stairwellDrainTimeout (pair : Nat)
  /-- 12 R332. After the halt, diversion entries are armed and state is saved to cellar sections. -/
  | preemptArm (ctx : Nat)
  /-- 12 R332. After the save, the context's tasks are unbound, ownership ends and completion is reported. -/
  | preemptFree (ctx : Nat)
  /-- 12 R337. Traffic of a diverted epoch is logged or applied to the cellar images. -/
  | divertedRequest (id piece : Nat)
  /-- 12 R337. The diversion unit folds oldest log entries into a saved line's image. -/
  | diversionFold (pair ctx : Nat)
  /-- 12 R336. Once reserved pairs and entries are free, the context retakes ownership and its tasks bind. -/
  | resumeBind (ctx : Nat)
  /-- 12 R330. Every queue of the context reaches its boundary and completion is reported. -/
  | coopPreemptComplete (ctx : Nat)
  /-- 07 R271. The management core restarts a halted firmware context. -/
  | firmwareContextRestart (core : Nat) (pc : Word)
  /-- 18 R440. The weight programming engine begins the next request and takes a target row. -/
  | wpRequestBegin (die : Nat)
  /-- 18 R441. A pulse-and-check iteration ends, passing, retrying or spoiling the target. -/
  | wpIterationEnd (die : Nat)
  /-- 18 R441. The new indirection entry becomes durable, the row is performed at .persist and the token completes. -/
  | wpFlip (die : Nat)
  /-- 18 R441. The hash-tree path is updated and the engine may begin its next request. -/
  | wpTreeUpdateEnd (die : Nat)
  /-- 18 R437. The last read through a draining row ends and it joins the free pool or the spoil list. -/
  | drainingRowFree (bank row : Nat)
  /-- 18 R445. After the current request, a requested bank begins re-calibration. -/
  | recalStart (bank : Nat)
  /-- 18 R445. After 65,536 cycles re-calibration ends and the bank serves again. -/
  | recalEnd (bank : Nat)
  /-- 16 R419. A draining or gone slot's last reference is released and it becomes free. -/
  | adapterRefsZero (slot : Nat)
  /-- 16 R427. A retiring version's last reference is released and it becomes absent. -/
  | versionRefsZero (model ent : Nat)
  /-- 16 R424. A core acknowledges an adapter state change from the home. -/
  | adapterStateAck (core slot : Nat)
  /-- 14 R369. A code-object load ends, is measured and extends the attestation register. -/
  | loadComplete (desc : Nat)
  /-- 21 R487. A unit finishes its start-up step and sets its readiness bit, or reports failure. -/
  | startupStepEnd (u : StartUnit) (ok : Bool) (reason : Nat)
  /-- 18 R447. A model version's rows are read and its root compared at start-up. -/
  | modelStartupMeasure (model ent : Nat)
  /-- 19 R467. A step of a die's warm reset ends and the next begins, raising an event. -/
  | warmResetStepEnd (die : Nat)
  /-- 19 R451. A two-way timestamp exchange updates a die's path delay and slews its counter. -/
  | timeExchange (die : Nat) (delay : Nat) (offset : Int)
  /-- 19 R454. 4 µs without an exchange puts a die in holdover with a growing bound. -/
  | holdoverEnter (die : Nat)
  /-- 19 R454. A holdover bound passing its limit sets TERR.UNLK. -/
  | timeUnlock (die : Nat)
  /-- 19 R452. A die acquires lock, stepping forward or running at half rate. -/
  | timeLockAcquire (die : Nat)
  /-- 21 R491. Every 10 µs the management core reads rails and sets MGOV budgets. -/
  | railTelemetry (die : Nat) (budgets : List Nat)
  /-- 21 R492. At 105 °C an event is raised and the die's budgets are lowered. -/
  | junctionOvertemp (die : Nat) (budgets : List Nat)
  /-- 21 R492. At 115 °C hardware removes power from the package. -/
  | thermalTrip
  /-- 21 R487. A cold reset starts the package's start-up sequence. -/
  | coldReset
  /-- 18 R444. Power fails; durable weight mapping stays and cut-off requests leave old data. -/
  | powerLoss
  /-- 19 R457. A UCIe module loses training and routes are recomputed. -/
  | ucieModuleDown (die module : Nat)
  /-- 19 R457. A flit failing its CRC is replayed and counted. -/
  | flitCrcReplay (die module : Nat)
  /-- 19 R462. A pod-link port fails and traffic uses the alternate port. -/
  | podLinkDown (port : Nat)
  /-- 12 R348. A compute die is lost and affected contexts are halted and informed. -/
  | dieLost (die : Nat)
  /-- 19 R465. An I/O die fails and every context traps DIE_LOST. -/
  | ioDieFailure (k : Nat)
  /-- 21 R490. An uncorrectable error poisons its data and raises event 0x8011. -/
  | uncorrectableError (u : ErrUnit)
  /-- 21 R490. A corrected error increments its unit counter, raising an event past threshold. -/
  | correctedError (u : ErrUnit)
  /-- 20 R483. A function-level reset halts, aborts, erases and zeroes the function's contexts. -/
  | functionLevelReset (fn : Nat)
  /-- 20 R478. A locked interface sees a ring-register write, config change, stray TLP or session loss and enters ERROR. -/
  | interfaceError (fn : Nat) (why : IfaceError)
  /-- 20 R472. A doorbell write makes the device read message entries in ring order. -/
  | mrhead (fn idx : Nat)
  /-- 00 R9. A write to a register with no behaviour of its own, under its access codes. -/
  | registerWrite (r : HostReg) (val : Word)
  /-- 19 R462. A pod-link port comes up again, its POD readiness bit becomes 1, and traffic returns to the primary port. -/
  | podLinkUp (port : Nat)
  /-- 19 R457. A UCIe module finishes retraining, is marked up, and routes are recomputed under R456. -/
  | ucieModuleRetrainEnd (die module : Nat)
  /-- 21 R489. An LPDDR channel finishes retraining within 2 ms, and the accesses that stalled on it proceed. -/
  | lpddrRetrainEnd (die channel : Nat)
  /-- 21 R486. An LPDDR channel fails in service, its readiness bit becomes 0, and accesses to its range get error replies. -/
  | lpddrChannelFailure (die channel : Nat)
  /-- 21 R489. The A/B firmware or microcode switch completes, and bind-record writing or command execution resumes. -/
  | firmwareSwitchEnd (cls die : Nat)
  /-- 20 R483. A step of a function-level reset ends, its event is raised, and the next step begins, until the interface reaches CONFIG_UNLOCKED. -/
  | flrStepEnd (fn : Nat)
deriving DecidableEq, Repr

end Sys2Proof
end

