-- ==== Sys2Proof/Config.lean ====
section
/-! DEFINITION. What an implementation fixes and the values the spec leaves open: opaque functions, which no proof can
evaluate. Each is named in the assumption log. -/
namespace Sys2Proof

/-- The SLH-DSA-SHA2-128s signature of a report, 7,856 bytes (spec 20 R475). Log 9. -/
opaque Config.sign : List Byte → Nat → Byte

/-- The device serial, 16 bytes (spec 20 R475). Log 9. -/
opaque Config.serial : BitVec 128

/-- The SPDM responder's answer to one message, by the free-value counter (spec 20 R476). Log 9. -/
opaque Config.spdmResponse : List Byte → Nat → List Byte

/-- What one SPDM message asks for, by the free-value counter: 1 opens a session, 2 locks the interface, 3 starts it, 4 stops it, 5
asks for its report, 6 ends the session, 7 fails authentication, anything else none of these (spec 20 R474, R476, R478). Log 9. -/
opaque Config.spdmKind : List Byte → Nat → Nat

/-- The message that a secured entry with its external payload holds, by the free-value counter; none where it fails
authentication (spec 20 R471, R476). Log 9. -/
opaque Config.secured : List Byte → List Byte → Nat → Option Instr

/-- The interface report of a function (spec 20 R478). Log 9. -/
opaque Config.interfaceReport : Nat → Nat → List Byte

/-- Security version and measurement of the security controller's firmware (spec 14 R371, 20 R475, 21 R487). Log 14. -/
opaque Config.securitySvn : BitVec 32
opaque Config.securityMeasure : BitVec 256

/-- Security version and measurement of the image that a part is made with, by firmware class (spec 14 R371, 21 R487). Log 14. -/
opaque Config.madeSvn : Nat → BitVec 32
opaque Config.madeMeasure : Nat → BitVec 256

/-- Whether a signed unlock token is accepted (spec 20 R482). Log 9. -/
opaque Config.tokenValid : List Byte → Bool

/-- The unconstrained FP32 approximations of the special functions (spec 05 R177). Log 10. -/
opaque Config.rcpRaw : BitVec 32 → BitVec 32
opaque Config.rsqRaw : BitVec 32 → BitVec 32
opaque Config.exp2Raw : BitVec 32 → BitVec 32
opaque Config.log2Raw : BitVec 32 → BitVec 32
opaque Config.tanhRaw : BitVec 32 → BitVec 32

/-- Whether a pulsed row's check passes, by the free-value counter (spec 18 R440). Log 12. -/
opaque Config.checkPasses : Nat → Bool

/-- Row `i` of a model image, and its signed root where the signature holds (spec 18 R448). Log 31. -/
opaque Config.imageRow : List Byte → Nat → List Byte
opaque Config.imageRoot : List Byte → Option (BitVec 256)

/-- A die's live bound in picoseconds before its limit, by the free-value counter (spec 19 R453). Log 19. -/
opaque Config.timeBound : Nat → Nat

/-- The thresholds that firmware sets: corrected errors of a unit, and link replays (spec 19 R457, 21 R490). Log 14. -/
opaque Config.errorLimit : Nat
opaque Config.replayLimit : Nat

/-- The event code, and the event data as a completion entry holds them, of an event for which the spec names none. Log 21. -/
opaque Config.eventCode : Nat → BitVec 16
opaque Config.eventData : Nat → List Nat → BitVec 192

/-- What a Slamos module translates to (spec 14 R353, R364, R365): the four streams, and the entries of the two side tables that
only a translator produces. -/
structure Translated where
  scalar : List Byte
  vector : List Byte
  matrix : List Byte
  transfer : List Byte
  safe : List Byte
  masks : List Byte
deriving DecidableEq, Repr, Inhabited

/-- The translation of a module's bytes, or the reason code of its refusal (spec 14 R364, R365). Log 13. -/
opaque Config.translate : List Byte → Except Nat Translated

/-- Entries that a pair's range scoreboard holds beyond the two of one transfer within the pair (spec 07 R255). Log 41. -/
opaque Config.scoreboardExtra : Nat

/-- Where the loader places a data section: the device address of its extent list, and the frame of each extent as its die
and 2 MiB frame number; and whether it finds room for a load, by the free-value counter (spec 14 R355, R367). Log 13. -/
opaque Config.dataList : Nat → BitVec 36
opaque Config.dataFrame : Nat → Nat → BitVec 18
opaque Config.hasRoom : Nat → Bool

/-- The loader's version, as the attestation register sees it (spec 14 R369). Log 13. -/
opaque Config.loaderVersion : BitVec 32

/-- The host's time base for one instant, in ns, by the free-value counter (spec 19 R451, 20 R473). Log 18. -/
opaque Config.hostTime : Nat → Word

/-- A free 64-bit value by the free-value counter, where the spec names no value. Log 19. -/
opaque Config.freeWord : Nat → Word

end Sys2Proof
end

