-- ==== Sys2Proof/Machine/Tbl.lean ====
section
/-! DEFINITION. The operations of a sparse table: read with a default, write, remove, and the canonical form. -/
namespace Sys2Proof

/-- The entry at `i`, if the table lists one. -/
def tfind {α : Type} : Tbl α → Nat → Option α
  | [], _ => none
  | (k, v) :: t, i => if k = i then some v else tfind t i

/-- The entry at `i`, or `d` where the table lists none. -/
def tget {α : Type} (d : α) (t : Tbl α) (i : Nat) : α :=
  (tfind t i).getD d

/-- The table with entry `i` set to `x`; keys stay strictly rising. -/
def tput {α : Type} : Tbl α → Nat → α → Tbl α
  | [], i, x => [(i, x)]
  | (k, v) :: t, i, x =>
    if i < k then (i, x) :: (k, v) :: t
    else if i = k then (i, x) :: t
    else (k, v) :: tput t i x

/-- The table without entry `i`. -/
def terase {α : Type} : Tbl α → Nat → Tbl α
  | [], _ => []
  | (k, v) :: t, i => if k = i then t else (k, v) :: terase t i

/-- Write with a default: an entry equal to the default is not listed. -/
def tset {α : Type} [DecidableEq α] (d : α) (t : Tbl α) (i : Nat) (x : α) : Tbl α :=
  if x = d then terase t i else tput t i x

/-- Every key of `t` lies above `lo`, and the keys rise strictly. -/
def tsortedFrom {α : Type} (lo : Nat) : Tbl α → Bool
  | [] => true
  | (k, _) :: t => decide (lo ≤ k) && tsortedFrom (k + 1) t

/-- The keys of `t` rise strictly. -/
def tsorted {α : Type} (t : Tbl α) : Bool := tsortedFrom 0 t

/-- No listed entry equals the default. -/
def tnodefault {α : Type} [DecidableEq α] (d : α) (t : Tbl α) : Bool :=
  t.all fun e => !decide (e.2 = d)

end Sys2Proof
end

