-- ==== Sys2Proof/Machine/Bits.lean ====
section
/-! DEFINITION. Bit-field, extension and byte-order helpers (spec 00 R6, 02 R58). -/
namespace Sys2Proof

/-- Bits [hi:lo] of a natural number, as a natural number (spec 00 R6). -/
def bits (x hi lo : Nat) : Nat := (x >>> lo) % 2 ^ (hi + 1 - lo)

/-- Bit `i` of a natural number. -/
def bitOf (x i : Nat) : Bool := x.testBit i

/-- Sign-extension of the low `n` bits to 64 bits (spec 01 R55, `SExt`). -/
def sext64 {n : Nat} (x : BitVec n) : Word := x.signExtend 64

/-- Zero-extension to 64 bits (spec 01 R55, `ZExt`). -/
def zext64 {n : Nat} (x : BitVec n) : Word := x.setWidth 64

/-- The `n` low bytes of `x`, least significant first (spec 02 R58). -/
def bytesOf : Nat → Nat → List Byte
  | 0, _ => []
  | n + 1, x => BitVec.ofNat 8 x :: bytesOf n (x / 256)

/-- The number whose bytes, least significant first, are given (spec 02 R58). -/
def ofBytes : List Byte → Nat
  | [] => 0
  | b :: t => b.toNat + 256 * ofBytes t

/-- The signed value of the low `w` bits of `x`. -/
def signedOf (w x : Nat) : Int :=
  let y := x % 2 ^ w
  if y < 2 ^ (w - 1) then (y : Int) else (y : Int) - 2 ^ w

/-- The low `w` bits of an integer, two's complement. -/
def unsignedOf (w : Nat) (x : Int) : Nat := (x % (2 ^ w : Int)).toNat

/-- `x` rounded up to a multiple of `m`. -/
def roundUp (x m : Nat) : Nat := (x + m - 1) / m * m

/-- Ceiling of the quotient. -/
def cdiv (x m : Nat) : Nat := (x + m - 1) / m

/-- The list lo, lo+1, …, of `n` numbers. -/
def rangeFrom (lo n : Nat) : List Nat := (List.range n).map (lo + ·)

end Sys2Proof
end

