-- ==== Sys2Proof/Machine/NumFmt.lean ====
section
/-! DEFINITION. Number formats: values, exact arithmetic, rounding, conversion and the sticky flags (spec 02). -/
namespace Sys2Proof

/-- The sticky flags of FCSR[4:0] as a set: SAT 16, NX 8, UF 4, OF 2, NV 1 (spec 01 R46). -/
abbrev Flags := BitVec 5

def fNone : Flags := 0
def fNV : Flags := 1
def fOF : Flags := 2
def fUF : Flags := 4
def fNX : Flags := 8
def fSAT : Flags := 16

/-- A value of any format: a NaN, an infinity, or ± man × 2^exp with a signed zero (spec 02 R60–R62). -/
inductive Num where
  | nan
  | inf (neg : Bool)
  | fin (neg : Bool) (man : Nat) (exp : Int)
deriving DecidableEq, Repr

/-- The layout of a floating-point format (spec 02 R60). `top` is the largest significand of the top binade. -/
structure FltLayout where
  ebits : Nat
  mbits : Nat
  bias : Nat
  hasInf : Bool
  hasNan : Bool
  nan : Nat
deriving DecidableEq, Repr

def fp32 : FltLayout := ⟨8, 23, 127, true, true, 0x7FC00000⟩
def bf16 : FltLayout := ⟨8, 7, 127, true, true, 0x7FC0⟩
def fp16 : FltLayout := ⟨5, 10, 15, true, true, 0x7E00⟩
def e4m3 : FltLayout := ⟨4, 3, 7, false, true, 0x7F⟩
def e5m2 : FltLayout := ⟨5, 2, 15, true, true, 0x7E⟩
def e2m1 : FltLayout := ⟨2, 1, 1, false, false, 0⟩

/-- The floating-point layout of a format code; a scaled code has its element's layout (spec 02 R57, R70). -/
def fltOf : Nat → Option FltLayout
  | 0 => some fp32 | 1 => some bf16 | 2 => some fp16 | 3 => some e4m3 | 4 => some e5m2 | 5 => some e2m1
  | 12 => some e4m3 | 13 => some e2m1 | _ => none

/-- Element bits of a format in a register (spec 02 R57, R59). -/
def fmtWidth : Nat → Nat
  | 0 => 32 | 1 => 16 | 2 => 16 | 3 => 8 | 4 => 8 | 5 => 4 | 6 => 8 | 7 => 8 | 8 => 4 | 9 => 2
  | 10 => 16 | 11 => 32 | 12 => 8 | 13 => 4 | 14 => 8 | _ => 32

/-- UINT8 is the only unsigned integer format (spec 02 R63). -/
def fmtUnsigned (f : Nat) : Bool := f == 7

def fmtIsFloat (f : Nat) : Bool := (fltOf f).isSome

def fmtIsScaled (f : Nat) : Bool := f == 12 || f == 13 || f == 14

/-- The least and greatest value of an integer format (spec 02 R63). -/
def intRange (f : Nat) : Int × Int :=
  match f with
  | 6 => (-128, 127) | 7 => (0, 255) | 8 => (-8, 7) | 9 => (-1, 1)
  | 10 => (-32768, 32767) | 14 => (-128, 127) | _ => (-2147483648, 2147483647)

/-- The largest significand of the top binade: all ones, but 0b1110 in E4M3 (spec 02 R60). -/
def topSig (L : FltLayout) : Nat := if L.hasNan && !L.hasInf then 2 ^ (L.mbits + 1) - 2 else 2 ^ (L.mbits + 1) - 1

/-- The greatest biased exponent of a normal value. -/
def topExp (L : FltLayout) : Nat := if L.hasInf then 2 ^ L.ebits - 2 else 2 ^ L.ebits - 1

/-- The exponent of the unit in the last place of the top binade. -/
def topQuantum (L : FltLayout) : Int := (topExp L : Int) - L.bias - L.mbits

/-- The bits of the largest finite value of a sign. -/
def maxFinite (L : FltLayout) (neg : Bool) : Nat :=
  (if neg then 2 ^ (L.ebits + L.mbits) else 0) + topExp L * 2 ^ L.mbits + (topSig L - 2 ^ L.mbits)

/-- The bits of an infinity. -/
def infBits (L : FltLayout) (neg : Bool) : Nat :=
  (if neg then 2 ^ (L.ebits + L.mbits) else 0) + (2 ^ L.ebits - 1) * 2 ^ L.mbits

/-- The value of a floating-point code (spec 02 R60). -/
def fltValue (L : FltLayout) (x : Nat) : Num :=
  let neg := x.testBit (L.ebits + L.mbits)
  let e := (x >>> L.mbits) % 2 ^ L.ebits
  let f := x % 2 ^ L.mbits
  if L.hasInf && e == 2 ^ L.ebits - 1 then
    if f == 0 then .inf neg else .nan
  else if L.hasNan && !L.hasInf && e == 2 ^ L.ebits - 1 && f == 2 ^ L.mbits - 1 then .nan
  else if e == 0 then .fin neg f (1 - (L.bias : Int) - L.mbits)
  else .fin neg (2 ^ L.mbits + f) ((e : Int) - L.bias - L.mbits)

/-- An integer as a value. -/
def numOfInt (i : Int) : Num := .fin (decide (i < 0)) i.natAbs 0

/-- The value of a register-form ternary code, and NV for the code 10 (spec 02 R59). -/
def ternValue (x : Nat) : Int × Flags :=
  match x % 4 with
  | 1 => (1, fNone) | 3 => (-1, fNone) | 2 => (0, fNV) | _ => (0, fNone)

/-- The value of an element of a format, scales apart, and the flags its decoding raises (spec 02 R57–R63). -/
def elemValue (f x : Nat) : Num × Flags :=
  match fltOf f with
  | some L => (fltValue L x, fNone)
  | none =>
    if f == 9 then ((numOfInt (ternValue x).1), (ternValue x).2)
    else if fmtUnsigned f then (numOfInt (x % 256 : Nat), fNone)
    else (numOfInt (signedOf (fmtWidth f) x), fNone)

/-- Rounds man × 2^(-k) to an integer in a mode of R66 (00 even, 01 zero, 10 up, 11 down); the sign is apart. -/
def roundShift (rm : BitVec 2) (neg : Bool) (man k : Nat) : Nat × Bool :=
  let n := man >>> k
  let r := man % 2 ^ k
  if r == 0 then (n, false)
  else
    let up : Bool :=
      match rm.toNat with
      | 0 => decide (2 ^ k < 2 * r) || (decide (2 * r = 2 ^ k) && n % 2 == 1)
      | 1 => false
      | 2 => !neg
      | _ => neg
    (if up then n + 1 else n, true)

/-- The bits and flags delivered for a finite value beyond the largest finite one (spec 02 R65, R66, R69). -/
def overflowBits (L : FltLayout) (rm : BitVec 2) (neg sat : Bool) : Nat × Flags :=
  if sat || !L.hasInf then (maxFinite L neg, fSAT ||| fNX)
  else
    let toInf : Bool := match rm.toNat with | 0 => true | 1 => false | 2 => !neg | _ => neg
    (if toInf then infBits L neg else maxFinite L neg, fOF ||| fNX)

/-- `Round(x, f, m)` of a finite value, with saturation requested or not (spec 02 R65, R66). Out of range is decided after rounding,
which R69 leaves open. Log 93. -/
def roundFin (L : FltLayout) (rm : BitVec 2) (sat neg : Bool) (man : Nat) (exp : Int) : Nat × Flags :=
  let sign := if neg then 2 ^ (L.ebits + L.mbits) else 0
  if man == 0 then (sign, fNone)
  else
    let e : Int := (Nat.log2 man : Int) + exp
    let emin : Int := 1 - (L.bias : Int)
    let q : Int := max e emin - L.mbits
    let (n, inexact) : Nat × Bool :=
      if q ≤ exp then (man * 2 ^ (exp - q).toNat, false)
      else roundShift rm neg man (q - exp).toNat
    let tq := topQuantum L
    let past : Bool :=
      decide (tq < q) || decide (q = tq ∧ topSig L < n)
    if past then overflowBits L rm neg sat
    else
      let flags := (if inexact then fNX else fNone) ||| (if inexact && decide (e < emin) then fUF else fNone)
      -- q + mbits - emin is the number of binades above the smallest normal
      let biased := (q + L.mbits - emin).toNat
      if n < 2 ^ L.mbits then (sign + n, flags)
      else (sign + biased * 2 ^ L.mbits + n, flags)

/-- `Round` of any value; an infinity or a NaN passes through (spec 02 R61, R66, R69). -/
def roundNum (L : FltLayout) (rm : BitVec 2) (sat : Bool) : Num → Nat × Flags
  | .nan => if L.hasNan then (L.nan, fNone) else (0, fNV)
  | .inf neg =>
    if sat || !L.hasInf then (maxFinite L neg, fSAT) else (infBits L neg, fNone)
  | .fin neg man exp => roundFin L rm sat neg man exp

/-- A finite value rounded to an integer (spec 02 R66), and whether it was inexact. -/
def roundToInt (rm : BitVec 2) (neg : Bool) (man : Nat) (exp : Int) : Int × Bool :=
  let (n, inexact) : Nat × Bool :=
    if 0 ≤ exp then (man * 2 ^ exp.toNat, false) else roundShift rm neg man (-exp).toNat
  (if neg then -(n : Int) else n, inexact)

/-- `Sat` of an integer to a range; a clamp sets SAT and NX (spec 02 R65). -/
def satInt (lo hi i : Int) : Int × Flags :=
  if i < lo then (lo, fSAT ||| fNX) else if hi < i then (hi, fSAT ||| fNX) else (i, fNone)

/-- The bits of an integer in an integer or ternary format. -/
def intBits (f : Nat) (i : Int) : Nat := unsignedOf (fmtWidth f) i

/-- Conversion of a value to an integer format or TERN (spec 02 R69). An integer source that R69's table gives no out-of-range effect,
a negative INT4 to UINT8 and INT8 to or from UINT8, is clamped as the others are. Log 93. -/
def convertToInt (f : Nat) (rm : BitVec 2) : Num → Nat × Flags
  | .nan => (0, fNV)
  | .inf neg => (intBits f (if neg then (intRange f).1 else (intRange f).2), fSAT)
  | .fin neg man exp =>
    let (i, inexact) := roundToInt rm neg man exp
    let (j, fl) := satInt (intRange f).1 (intRange f).2 i
    (intBits f j, fl ||| (if inexact then fNX else fNone))

/-- `Convert(x, f, m, sat)`: the conversion of R69. -/
def convertNum (f : Nat) (rm : BitVec 2) (sat : Bool) (x : Num) : Nat × Flags :=
  match fltOf f with
  | some L => roundNum L rm sat x
  | none => convertToInt f rm x

/-- Exact product of two values; 0 × ∞ gives NaN and NV (spec 02 R65). -/
def mulNum : Num → Num → Num × Flags
  | .nan, _ => (.nan, fNone)
  | _, .nan => (.nan, fNone)
  | .inf s, .inf t => (.inf (s != t), fNone)
  | .inf s, .fin t m _ => if m == 0 then (.nan, fNV) else (.inf (s != t), fNone)
  | .fin s m _, .inf t => if m == 0 then (.nan, fNV) else (.inf (s != t), fNone)
  | .fin s m e, .fin t n f => (.fin (s != t) (m * n) (e + f), fNone)

/-- Signed integer of a significand. -/
def sgn (neg : Bool) (m : Nat) : Int := if neg then -(m : Int) else m

/-- Exact sum of two finite values; an exact zero takes the sign of R62 in mode `rm`. -/
def addFin (rm : BitVec 2) (s : Bool) (m : Nat) (e : Int) (t : Bool) (n : Nat) (f : Int) : Num :=
  if m == 0 && n == 0 then .fin (if s == t then s else rm == 3) 0 0
  else
    let g := min e f
    let x := sgn s (m * 2 ^ (e - g).toNat) + sgn t (n * 2 ^ (f - g).toNat)
    if x = 0 then .fin (rm == 3) 0 0 else .fin (decide (x < 0)) x.natAbs g

/-- Exact sum of two values; ∞ − ∞ gives NaN and NV (spec 02 R62, R65). -/
def addNum (rm : BitVec 2) : Num → Num → Num × Flags
  | .nan, _ => (.nan, fNone)
  | _, .nan => (.nan, fNone)
  | .inf s, .inf t => if s == t then (.inf s, fNone) else (.nan, fNV)
  | .inf s, .fin _ _ _ => (.inf s, fNone)
  | .fin _ _ _, .inf t => (.inf t, fNone)
  | .fin s m e, .fin t n f => (addFin rm s m e t n f, fNone)

/-- The opposite value. -/
def negNum : Num → Num
  | .nan => .nan
  | .inf s => .inf (!s)
  | .fin s m e => .fin (!s) m e

/-- Exact order of two values that are not NaN; −0 and +0 compare equal (spec 02 R62). -/
def ltNum : Num → Num → Bool
  | .nan, _ => false
  | _, .nan => false
  | .inf s, .inf t => s && !t
  | .inf s, .fin _ _ _ => s
  | .fin _ _ _, .inf t => !t
  | .fin s m e, .fin t n f =>
    let g := min e f
    decide (sgn s (m * 2 ^ (e - g).toNat) < sgn t (n * 2 ^ (f - g).toNat))

/-- Equality of two values that are not NaN; −0 and +0 compare equal (spec 02 R62). -/
def eqNum (x y : Num) : Bool :=
  match x, y with
  | .nan, _ => false
  | _, .nan => false
  | _, _ => !ltNum x y && !ltNum y x

def isNan : Num → Bool
  | .nan => true
  | _ => false

def isZero : Num → Bool
  | .fin _ 0 _ => true
  | _ => false

def isNeg : Num → Bool
  | .nan => false
  | .inf s => s
  | .fin s _ _ => s

/-- The greater of two values: −0 is less than +0, a NaN gives NaN (spec 02 R62, 05 R175). -/
def maxNum (x y : Num) : Num :=
  if isNan x || isNan y then .nan
  else if ltNum x y then y
  else if ltNum y x then x
  else if isNeg x then y else x

/-- The lesser of two values (spec 02 R62, 05 R175). -/
def minNum (x y : Num) : Num :=
  if isNan x || isNan y then .nan
  else if ltNum x y then x
  else if ltNum y x then y
  else if isNeg x then x else y

/-- x × 2^k, exact. -/
def scaleNum (x : Num) (k : Int) : Num :=
  match x with
  | .fin s m e => .fin s m (e + k)
  | y => y

/-- A T5 byte as five ternary values, and NV for a byte from 243 to 255 (spec 02 R64). -/
def t5Decode (b : Nat) : List Int × Flags :=
  if 243 ≤ b then ([0, 0, 0, 0, 0], fNV)
  else
    let dig (n : Nat) : Int := match n % 3 with | 0 => 0 | 1 => 1 | _ => -1
    ([dig b, dig (b / 3), dig (b / 9), dig (b / 27), dig (b / 81)], fNone)

/-- The value of FP32 bits. -/
def fp32Num (x : Nat) : Num := fltValue fp32 x

/-- `RoundM(x, sat)`: FP32 in mode 00; with `sat` a value beyond the largest finite FP32 clamps (spec 02 R74). -/
def roundM (sat : Bool) : Num → Nat × Flags
  | .fin neg man exp =>
    let top := Num.fin false (topSig fp32) (topQuantum fp32)
    if sat && ltNum top (.fin false man exp) then (maxFinite fp32 neg, fSAT ||| fNX)
    else roundFin fp32 0 false neg man exp
  | x => roundNum fp32 0 sat x

end Sys2Proof
end

