-- ==== Sys2Proof/Machine/Special.lean ====
section
/-! DEFINITION. The special functions: a free FP32 approximation held to the spec's error bound, with the exact cases and
flags (spec 05 R177, R178; log 10). -/
namespace Sys2Proof

/-! ## References to compare an approximation with, in fixed point -/

/-- Fractional bits of the fixed-point references. -/
def fixBits : Nat := 128

/-- ⌊ln 2 × 2^128⌋. -/
def fixLn2 : Nat := 235865763225513294137944142764154484399

/-- ⌊log₂ e × 2^128⌋. -/
def fixLog2e : Nat := 490923683258796565746369346286093237521

/-- 2^f for a fixed-point f in [0, 1), as fixed point: the exponential series of f × ln 2, `n` terms to come. -/
def expSeries (t : Nat) : Nat → Nat → Nat → Nat → Nat
  | 0, _, _, acc => acc
  | n + 1, k, term, acc =>
    let next := term * t / (2 ^ fixBits * k)
    expSeries t n (k + 1) next (acc + next)

def fixExp2 (f : Nat) : Nat := expSeries (f * fixLn2 / 2 ^ fixBits) 40 1 (2 ^ fixBits) (2 ^ fixBits)

/-- The next `n` bits of log₂ y for a fixed-point y in [1, 2). -/
def fixLog2 : Nat → Nat → Nat → Nat
  | 0, _, acc => acc
  | n + 1, y, acc =>
    let q := y * y / 2 ^ (2 * fixBits)
    if 2 ^ (2 * fixBits + 1) ≤ q then fixLog2 n (q / 2) (2 * acc + 1) else fixLog2 n q (2 * acc)

/-- The integer square root of `x`, bit by bit from bit `n` - 1 down. -/
def sqrtBits (x : Nat) : Nat → Nat → Nat
  | 0, r => r
  | n + 1, r => let c := r + 2 ^ n; if c * c ≤ x then sqrtBits x n c else sqrtBits x n r

/-- A finite value as a fixed-point integer with 128 fractional bits, rounded down. -/
def fixOf (neg : Bool) (man : Nat) (exp : Int) : Int :=
  let k := exp + fixBits
  let v : Nat := if 0 ≤ k then man * 2 ^ k.toNat else man / 2 ^ (-k).toNat
  if neg then
    (if 0 ≤ k ∨ man % 2 ^ (-k).toNat = 0 then -(v : Int) else -(v : Int) - 1)
  else v

/-- 2^x for fixed-point x. -/
def refExp2Fix (x : Int) : Num :=
  .fin false (fixExp2 (x % (2 ^ fixBits : Int)).toNat) (x / (2 ^ fixBits : Int) - fixBits)

def refRcp (neg : Bool) (man : Nat) (exp : Int) : Num :=
  .fin neg (2 ^ (Nat.log2 man + 128) / man) (-exp - (Nat.log2 man : Int) - 128)

def refRsq (man : Nat) (exp : Int) : Num :=
  let q : Int := exp / 2
  let odd := exp % 2 ≠ 0
  let m := if odd then 2 * man else man
  -- 1/√(m × 4^q) = 2^-q × √(2^256 / m) / 2^128
  let n := 2 ^ 512 / m
  .fin false (sqrtBits n 258 0) (-q - 256)

def refExp2 (neg : Bool) (man : Nat) (exp : Int) : Num :=
  if decide (9 < (Nat.log2 man : Int) + exp) then
    (if neg then .fin false 1 (-600) else .fin false 1 600)
  else refExp2Fix (fixOf neg man exp)

def refLog2 (man : Nat) (exp : Int) : Num :=
  let l := Nat.log2 man
  -- y = man / 2^l with twice the fractional bits
  let y := man * 2 ^ (2 * fixBits - l)
  let f := fixLog2 fixBits y 0
  let v : Int := ((l : Int) + exp) * 2 ^ fixBits + f
  .fin (decide (v < 0)) v.natAbs (-fixBits)

def refTanh (neg : Bool) (man : Nat) (exp : Int) : Num :=
  let e := (Nat.log2 man : Int) + exp
  if e < -20 then .fin neg (man * 2 ^ 60 - 1) (exp - 60)
  else if 5 < e then .fin neg (2 ^ 60 - 1) (-60)
  else
    let x := (fixOf false man exp).toNat * 2 * fixLog2e / 2 ^ fixBits
    let p := fixExp2 (x % 2 ^ fixBits) * 2 ^ (x / 2 ^ fixBits)
    .fin neg ((p - 2 ^ fixBits) * 2 ^ fixBits / (p + 2 ^ fixBits)) (-fixBits)

/-! ## The bounds -/

/-- The unit in the last place of FP32 at a value. -/
def ulpAt (x : Num) : Num :=
  match x with
  | .fin _ man exp => .fin false 1 (max ((Nat.log2 man : Int) + exp) (-126) - 23)
  | _ => .fin false 1 (-149)

/-- |a − y| ≤ tol, with a margin of 2^-40 of the tolerance for the reference's own error. -/
def withinTol (a y tol : Num) : Bool :=
  match (addNum 0 a (negNum y)).1, tol with
  | .fin _ m e, .fin _ n f => !ltNum (.fin false (n * (2 ^ 40 + 1)) (f - 40)) (.fin false m e)
  | _, _ => false

/-- The free approximation where it keeps the bound, and otherwise the reference rounded. -/
def heldTo (raw : BitVec 32) (y tol : Num) : Num :=
  let a := fltValue fp32 raw.toNat
  if withinTol a y tol then a else fltValue fp32 (roundFin fp32 0 true (isNeg y) (match y with | .fin _ m _ => m | _ => 0)
    (match y with | .fin _ _ e => e | _ => 0)).1

/-- Twice a tolerance. -/
def twice (x : Num) : Num := scaleNum x 1

/-! ## The five functions -/

inductive SpecialFn where
  | rcp | rsq | exp2 | log2 | tanh
deriving DecidableEq, Repr

/-- k with |x| = 2^k, if there is one. -/
def pow2Of (man : Nat) (exp : Int) : Option Int :=
  if man = 2 ^ Nat.log2 man then some ((Nat.log2 man : Int) + exp) else none

/-- An integer a finite value equals, if its magnitude is below 2^12. -/
def intOf (neg : Bool) (man : Nat) (exp : Int) : Option Int :=
  let e := (Nat.log2 man : Int) + exp
  if 12 < e then none
  else if 0 ≤ exp then some (sgn neg (man * 2 ^ exp.toNat))
  else if man % 2 ^ (-exp).toNat = 0 then some (sgn neg (man / 2 ^ (-exp).toNat)) else none

/-- Exact results of special inputs (05 R177). -/
def specialExact (f : SpecialFn) (x : Num) : Option (Num × Flags) :=
  match f, x with
  | _, .nan => some (.nan, fNone)
  | .rcp, .inf s => some (.fin s 0 0, fNone)
  | .rcp, .fin s m e => if m = 0 then some (.inf s, fNone) else (pow2Of m e).map fun k => (.fin s 1 (-k), fNone)
  | .rsq, .inf s => some (if s then (.nan, fNV) else (.fin false 0 0, fNone))
  | .rsq, .fin s m e =>
    if m = 0 then some (.inf s, fNone)
    else if s then some (.nan, fNV)
    else match pow2Of m e with
      | some k => if k % 2 = 0 then some (.fin false 1 (-(k / 2)), fNone) else none
      | none => none
  | .exp2, .inf s => some (if s then .fin false 0 0 else .inf false, fNone)
  | .exp2, .fin s m e => if m = 0 then some (.fin false 1 0, fNone) else (intOf s m e).map fun k => (.fin false 1 k, fNone)
  | .log2, .inf s => some (if s then (.nan, fNV) else (.inf false, fNone))
  | .log2, .fin s m e =>
    if m = 0 then some (.inf true, fNone)
    else if s then some (.nan, fNV)
    else (pow2Of m e).map fun k => (numOfInt k, fNone)
  | .tanh, .inf s => some (.fin s 1 0, fNone)
  | .tanh, .fin s m _ => if m = 0 then some (.fin s 0 0, fNone) else none

/-- The exact value, to far beyond FP32, of an input that is no exact case. -/
def specialRef (f : SpecialFn) (neg : Bool) (m : Nat) (e : Int) : Num :=
  match f with
  | .rcp => refRcp neg m e
  | .rsq => refRsq m e
  | .exp2 => refExp2 neg m e
  | .log2 => refLog2 m e
  | .tanh => refTanh neg m e

/-- The tolerance of R177 at an input of magnitude man × 2^exp and a reference value. -/
def specialTol (f : SpecialFn) (m : Nat) (e : Int) (y : Num) : Num :=
  let x := Num.fin false m e
  match f with
  | .rcp => ulpAt y
  | .rsq => ulpAt y
  | .exp2 => twice (ulpAt y)
  | .log2 => if !ltNum x (.fin false 1 (-1)) && !ltNum (.fin false 2 0) x then .fin false 1 (-22) else twice (ulpAt y)
  | .tanh => if ltNum x (.fin false 1 (-1)) then .fin false 1 (-23) else twice (ulpAt y)

def specialRaw (f : SpecialFn) (x : BitVec 32) : BitVec 32 :=
  match f with
  | .rcp => Config.rcpRaw x
  | .rsq => Config.rsqRaw x
  | .exp2 => Config.exp2Raw x
  | .log2 => Config.log2Raw x
  | .tanh => Config.tanhRaw x

/-- The result as FP32 and its flags: exact cases and results `Round` decides outright are rounded; the rest is free within
its bound, and inexact (05 R177, R178). `x` is the input's FP32 bits. -/
def specialFp32 (f : SpecialFn) (rm : BitVec 2) (x : BitVec 32) : Num × Flags :=
  let v := fp32Num x.toNat
  match specialExact f v, v with
  | some r, _ =>
    let p := roundNum fp32 rm false r.1
    (fltValue fp32 p.1, r.2 ||| p.2)
  | none, .fin s m e =>
    let y := specialRef f s m e
    let p := match y with | .fin t n k => roundFin fp32 rm false t n k | _ => (0, fNone)
    let tiny := ltNum (match y with | .fin _ n k => .fin false n k | z => z) (.fin false 1 (-149))
    let past := p.2.getLsbD 1
    if past || (tiny && f == .exp2) then (fltValue fp32 p.1, p.2 ||| fNX)
    else (heldTo (specialRaw f x) y (specialTol f m e y), fNX ||| (p.2 &&& fUF))
  | none, _ => (.nan, fNone)

/-- One lane: the input converted exactly to FP32, the result rounded to the lane's format. -/
def specialLane (f : SpecialFn) (L : FltLayout) (rm : BitVec 2) (x : Nat) : Nat × Flags :=
  let i := (roundNum fp32 0 false (fltValue L x)).1
  let a := specialFp32 f rm (BitVec.ofNat 32 i)
  let r := roundNum L rm false a.1
  (r.1, a.2 ||| r.2)

end Sys2Proof
end

