-- ==== Sys2Proof/Machine/MatrixMath.lean ====
section
/-! DEFINITION. The arithmetic of the matrix engine: weight and activation layouts, the sum of a k-block on both paths, the
rank path and the epilogue (spec 02 R70–R76, 06 R203–R205, R217, R222). -/
namespace Sys2Proof

/-! ## Elements of a run of bytes -/

/-- `n` elements of `w` bits of a little-endian number. -/
def elemsOf (w n x : Nat) : List Nat := (List.range n).map fun i => bits x (w * i + w - 1) (w * i)

/-- 256 ternary values of a column in T5 form, and NV for a byte above 242 (02 R64). -/
def t5Column (x : Nat) : List Int × Flags :=
  let l := (List.range 52).map fun i => t5Decode (bits x (8 * i + 7) (8 * i))
  ((l.flatMap (·.1)).take 256, l.foldl (fun f d => f ||| d.2) fNone)

/-- Bytes of one column or row of 256 elements (06 R203, R204). -/
def rowBytes (f : Nat) : Nat := if f = 9 then 64 else fmtWidth f * 32

/-- Bytes of a scaled tile (02 R71). -/
def scaledTile (f : Nat) : Nat := 64 + 8 * rowBytes f

/-- Byte offset of column or row `n` from the operand's address. -/
def rowOffset (f n : Nat) : Nat :=
  if fmtIsScaled f then n / 8 * scaledTile f + 64 + n % 8 * rowBytes f else n * rowBytes f

/-- Byte offset of the scales of column or row `n` of a scaled operand. -/
def scaleOffset (f n : Nat) : Nat := n / 8 * scaledTile f + 8 * (n % 8)

/-- Bytes of a weight tile (06 R203). -/
def tileBytes (f : Nat) : Nat := if fmtIsScaled f then 24 * scaledTile f else 192 * rowBytes f

/-- Bytes of `rows` activation rows. -/
def operandBytes (f rows : Nat) : Nat := if rows = 0 then 0 else rowOffset f (rows - 1) + rowBytes f

/-- 256 elements along K with the scales of their eight blocks. -/
structure KRow where
  vals : List Num
  scales : List Nat
deriving DecidableEq, Repr

/-- A scale byte that changes nothing. -/
def unitScale : Nat := 0x7F

def KRow.zero : KRow := ⟨List.replicate 256 (.fin false 0 0), List.replicate 8 unitScale⟩

/-- A row or column from its bytes and, for a scaled format, its scale bytes. -/
def kRowOf (f data scales : Nat) : KRow :=
  { vals := if f = 9 then (t5Column data).1.map numOfInt else (elemsOf (fmtWidth f) 256 data).map fun x => (elemValue f x).1,
    scales := if fmtIsScaled f then elemsOf 8 8 scales else List.replicate 8 unitScale }

/-- A weight negated: float signs flip with NaNs unchanged, integers change sign exactly (06 R215). -/
def KRow.negated (r : KRow) (neg : Bool) : KRow :=
  if neg then { r with vals := r.vals.map negNum } else r

/-- Column `n` of a tile held as one number. -/
def weightColumn (f data : Nat) (neg : Bool) (n : Nat) : KRow :=
  let o := rowOffset f n
  let sc := scaleOffset f n
  (kRowOf f (bits data (8 * (o + rowBytes f) - 1) (8 * o)) (bits data (8 * (sc + 8) - 1) (8 * sc))).negated neg

/-! ## Sums (02 R74, R75) -/

/-- The integer a value is; the integer path has no other. -/
def intVal (x : Num) : Int :=
  match x with
  | .fin s m e => sgn s (m * 2 ^ e.toNat)
  | _ => 0

/-- Formats of the integer path. -/
def isIntFmt (f : Nat) : Bool := f == 6 || f == 7 || f == 8 || f == 9

/-- Largest e with 2^e ≤ |p| over the nonzero products. -/
def maxExp (l : List Num) : Option Int :=
  l.foldl (fun (acc : Option Int) p => match p with
    | .fin _ 0 _ => acc
    | .fin _ m e => let k := (Nat.log2 m : Int) + e
                    match acc with | none => some k | some j => some (max j k)
    | _ => acc) none

/-- sign(p) × ⌊|p| / q⌋ for q = 2^k. -/
def truncated (k : Int) (p : Num) : Int :=
  match p with
  | .fin s m e => sgn s (if k ≤ e then m * 2 ^ (e - k).toNat else m / 2 ^ (k - e).toNat)
  | _ => 0

/-- The sum G of one group of products, with the block scales' exponent, or a NaN where a scale is NaN (02 R74). -/
def groupSum (sat nanScale : Bool) (se : Int) (ps : List (Num × Num)) : Num × Flags :=
  let prods := ps.map fun p => mulNum p.1 p.2
  if nanScale || ps.any (fun p => isNan p.1 || isNan p.2) then (.nan, fNone)
  else if prods.any fun p => isNan p.1 then (.nan, fNV)
  else
    let plus := prods.any fun p => p.1 == .inf false
    let minus := prods.any fun p => p.1 == .inf true
    if plus && minus then (.nan, fNV)
    else if plus then (.inf false, fNone)
    else if minus then (.inf true, fNone)
    else
      match maxExp (prods.map (·.1)) with
      | none => (.fin false 0 0, fNone)
      | some e =>
        let k := e - 40
        let t : Int := (prods.map fun p => truncated k p.1).foldl (· + ·) 0
        let r := roundM sat (.fin (decide (t < 0)) t.natAbs (k + se))
        (fp32Num r.1, r.2)

/-- s := RoundM(s + G), group by group. -/
def chain (sat : Bool) (s : Num) (gs : List (Num × Flags)) : Num × Flags :=
  gs.foldl (fun acc g =>
    let z := addNum 0 acc.1 g.1
    let r := roundM sat z.1
    (fp32Num r.1, acc.2 ||| g.2 ||| z.2 ||| r.2)) (s, fNone)

/-- Consecutive pieces of 32. -/
def groupsOf (n : Nat) (l : List (Num × Num)) : List (List (Num × Num)) :=
  (List.range n).map fun g => (l.drop (32 * g)).take 32

/-- The eight group sums of a k-block. -/
def kGroups (sat scaled : Bool) (a w : KRow) : List (Num × Flags) :=
  ((groupsOf 8 (a.vals.zip w.vals)).zip (a.scales.zip w.scales)).map fun x =>
    groupSum sat (scaled && (x.2.1 == 0xFF || x.2.2 == 0xFF))
      (if scaled then (x.2.1 : Int) - 127 + ((x.2.2 : Int) - 127) else 0) x.1

/-- `Sat` or wrap of an exact total to INT32 (02 R75). -/
def int32Of (sat : Bool) (t : Int) : Nat × Flags :=
  if sat then let r := satInt (-2147483648) 2147483647 t; (unsignedOf 32 r.1, r.2) else (unsignedOf 32 t, fNone)

/-! ## The rank path (02 R76) -/

/-- An element with its block scale, in BF16; the word's saturate flag clamps it (02 R69). -/
def rankInput (sat : Bool) (r : KRow) (k : Nat) : Num × Flags :=
  let sc := r.scales.getD (k / 32) unitScale
  let x := if sc = 0xFF then .nan else scaleNum (r.vals.getD k .nan) ((sc : Int) - 127)
  let c := roundNum bf16 0 sat x
  (fltValue bf16 c.1, c.2)

/-- T for one rank index: the sum over K of X × A's column, in BF16. -/
def rankT (sat : Bool) (x : List Num) (aCol : List Num) : Num × Flags :=
  let s := chain sat (.fin false 0 0) ((groupsOf 8 (x.zip aCol)).map (groupSum sat false 0))
  let c := roundNum bf16 0 sat s.1
  (fltValue bf16 c.1, s.2 ||| c.2)

/-- The group sums of C for one column: one group, or two for a rank above 32. -/
def rankC (sat : Bool) (r : Nat) (t bCol : List Num) : List (Num × Flags) :=
  (groupsOf (if 32 < r then 2 else 1) (t.zip bCol)).map (groupSum sat false 0)

/-- What the integer path adds for C (02 R76 step 5). -/
def rankInt (sat : Bool) (gs : List (Num × Flags)) : Int × Flags :=
  let s := chain sat (.fin false 0 0) gs
  match s.1 with
  | .fin n m e => let i := roundToInt 0 n m e; (i.1, s.2 ||| (if i.2 then fNX else fNone))
  | _ => (0, s.2 ||| fNV)

/-! ## Epilogue functions (06 R222) -/

/-- Rounds a step of an epilogue. -/
def epiStep (x : Num) : Num := fp32Num (roundNum fp32 0 false x).1

def epiMul (x y : Num) : Num := epiStep (mulNum x y).1

def epiAdd (x y : Num) : Num := epiStep (addNum 0 x y).1

/-- The FP32 approximation of a special function. -/
def epiSpecial (f : SpecialFn) (x : Num) : Num :=
  (specialFp32 f 0 (BitVec.ofNat 32 (roundNum fp32 0 false x).1)).1

/-- `sigA`. -/
def epiSigmoid (v : Num) : Num :=
  epiSpecial .rcp (epiAdd (.fin false 1 0) (epiSpecial .exp2 (epiMul (negNum v) (fp32Num 0x3FB8AA3B))))

/-- `Epi(function, v)`. -/
def epilogueOf (fn : Nat) (v : Num) : Num :=
  match v with
  | .nan => .nan
  | .inf neg =>
    (match fn with
    | 1 => if neg then .fin false 0 0 else v
    | 2 => if neg then .fin true 0 0 else v
    | 3 => if neg then .fin true 0 0 else v
    | 4 => .fin neg 1 0
    | 5 => if neg then .fin false 0 0 else .fin false 1 0
    | _ => v)
  | .fin neg m _ =>
    match fn with
    | 1 => if neg || m == 0 then .fin false 0 0 else v
    | 2 =>
      let cube := epiMul (epiMul v v) v
      let inner := epiMul (fp32Num 0x3F4C422A) (epiAdd v (epiMul (fp32Num 0x3D372713) cube))
      epiMul (epiMul (.fin false 1 (-1)) v) (epiAdd (.fin false 1 0) (epiSpecial .tanh inner))
    | 3 => epiMul v (epiSigmoid v)
    | 4 => epiSpecial .tanh v
    | 5 => epiSigmoid v
    | _ => v

end Sys2Proof
end

