-- ==== Sys2Proof/WellFormed.lean ====
section
/-! DEFINITION. Which instructions the encodings admit: the decoding checks of spec 03 R92–R102, R493 and of each entry,
as the first check that fails. A word that fails one traps ILLEGAL (R106); a command stops its queue (R105); a message
completes with BAD_MESSAGE (20 R474). -/
namespace Sys2Proof

/-- The checks, by name. -/
inductive IllFormed where
  /-- A guard 0xC–0xE (03 R83). -/
  | guard
  /-- A predicate register above p11 (03 R92). -/
  | predicate
  /-- A field outside its stated range (03 R92, 04 R134–R136). -/
  | range
  /-- A scope the instruction does not accept (03 R93). -/
  | scope
  /-- A T-form parameter outside its rule (04 R140, 07 R253). -/
  | parameter
  /-- A format the field does not accept (02 R57). -/
  | format
  /-- A vector mask 0xC–0xE, or a mask the word does not accept (03 R94). -/
  | mask
  /-- A vector operand descriptor outside R95 or R172. -/
  | descriptor
  /-- A generator 5 or 6, or a code 7 where it cannot stand (03 R98, R493). -/
  | generator
  /-- Start row and row count beyond the accumulator store, or not a multiple of 8 (03 R98, 06 R205). -/
  | rows
  /-- A field the opcode does not use is not zero (03 R100, 15 R382). -/
  | unused
  /-- A flag that disagrees with a format (06 R204, R216, R221). -/
  | flag
  /-- The extension words are not as many as the command says (15 R377). -/
  | words
deriving DecidableEq, Repr

/-- The first failing check of a list. -/
def firstIll : List (Bool × IllFormed) → Option IllFormed
  | [] => none
  | (ok, e) :: t => if ok then firstIll t else some e

/-! ## Scalar-stream fields -/

def guardOk (g : BitVec 4) : Bool := decide (g.toNat < 12) || decide (g.toNat = 15)

def predOk (p : BitVec 4) : Bool := decide (p.toNat < 12)

/-- A scope from `lo` to `hi` (03 R93). -/
def scopeIn (lo hi : Nat) (sc : BitVec 4) : Bool := decide (lo ≤ sc.toNat) && decide (sc.toNat ≤ hi)

def chkG (g : BitVec 4) : Option IllFormed := firstIll [(guardOk g, .guard)]

def chkPG (p g : BitVec 4) : Option IllFormed := firstIll [(predOk p, .predicate), (guardOk g, .guard)]

def chkP3 (p a b g : BitVec 4) : Option IllFormed :=
  firstIll [(predOk p && predOk a && predOk b, .predicate), (guardOk g, .guard)]

def chkScope (lo hi : Nat) (sc : BitVec 4) : Option IllFormed := firstIll [(scopeIn lo hi sc, .scope)]

def chkPar (ok : Bool) : Option IllFormed := firstIll [(ok, .parameter)]

/-- Parameter bits [hi:lo] of a T-form word. -/
def TWord.bits (w : TWord) (hi lo : Nat) : Nat := Sys2Proof.bits w.par.toNat hi lo

/-! ## Vector descriptors -/

/-- A descriptor's kind, [17:16] (03 R95). -/
def dKind (d : BitVec 18) : Nat := d.toNat / 65536

/-- Its register field, [15:11]. -/
def dReg (d : BitVec 18) : Nat := d.toNat / 2048 % 32

/-- Its low field, [10:0], unsigned. -/
def dLow (d : BitVec 18) : Nat := d.toNat % 2048

/-- Its low field as a signed rotation, stride or immediate. -/
def dSigned (d : BitVec 18) : Int := signedOf 11 d.toNat

/-- Format sets of 05 R159. -/
def inArith (f : Nat) : Bool := [0, 1, 2, 6, 7, 10, 11].contains f
def inFloat (f : Nat) : Bool := [0, 1, 2].contains f
def inInt (f : Nat) : Bool := [8, 6, 7, 10, 11].contains f
def inSInt (f : Nat) : Bool := [8, 6, 10, 11].contains f
def inPlain (f : Nat) : Bool := decide (f ≤ 8) || f == 10 || f == 11
def inWide (f : Nat) : Bool := [0, 1, 2, 3, 4, 6, 7, 10, 11].contains f
def inScaled (f : Nat) : Bool := [12, 13, 14].contains f

/-- A source of kind R, M, S or K as allowed, element format `f` (03 R95, 05 R164). -/
def srcOk (r m s k : Bool) (f : Nat) (d : BitVec 18) : Bool :=
  match dKind d with
  | 0 => r
  | 1 => m && (decide (4 < fmtWidth f) || dLow d == 0 || dLow d == 1)
  | 2 => s && dReg d == 0 && dLow d == 0
  | _ => k && (dReg d == 0 || dLow d == 0)

/-- A destination of kind R, M or S as allowed. -/
def dstOk (m s : Bool) (f : Nat) (d : BitVec 18) : Bool :=
  match dKind d with
  | 0 => dLow d == 0
  | 1 => m && (if fmtWidth f ≤ 4 then dLow d == 1 else dLow d != 0)
  | 2 => s && dReg d == 0 && dLow d == 0
  | _ => false

/-- A kind-11 destination naming a predicate. -/
def dstPred (d : BitVec 18) : Bool := dKind d == 3 && decide (dReg d < 12) && dLow d == 0

/-- A kind-11 destination naming a scalar register. -/
def dstScalar (d : BitVec 18) : Bool := dKind d == 3 && dLow d == 0

/-- A register operand whose rotation field must be a plain lane rotation. -/
def isReg (d : BitVec 18) : Bool := dKind d == 0

/-- An unused operand (05 R162). -/
def isNone (d : BitVec 18) : Bool := d == 0

/-- A kind-11 immediate in [0, hi]. -/
def isImm (hi : Nat) (d : BitVec 18) : Bool := dKind d == 3 && dReg d == 0 && decide (dLow d ≤ hi)

/-- The stairwell is named at most once as a source, and never as source and destination of one word (03 R95). -/
def stairOk (w : VWord) : Bool :=
  !(dKind w.a == 2 && dKind w.b == 2) && !(dKind w.d == 2 && (dKind w.a == 2 || dKind w.b == 2))

def maskOk (w : VWord) : Bool := decide (w.mask.toNat < 12) || decide (w.mask.toNat = 15)

/-- The checks of a vector word: its format, its mask, its descriptors. -/
def chkV (w : VWord) (fmt desc : Bool) : Option IllFormed :=
  firstIll [(fmt, .format), (maskOk w, .mask), (desc && stairOk w, .descriptor)]

/-- D of R, M, S; A and B of R, M, S, K. -/
def chkV3 (w : VWord) (fmt : Nat → Bool) : Option IllFormed :=
  let f := w.fmt.toNat
  chkV w (fmt f) (dstOk true true f w.d && srcOk true true true true f w.a && srcOk true true true true f w.b)

/-- D of R, M, S; A of R, M, S; B unused. -/
def chkV2 (w : VWord) (fmt : Nat → Bool) : Option IllFormed :=
  let f := w.fmt.toNat
  chkV w (fmt f) (dstOk true true f w.d && srcOk true true true false f w.a && isNone w.b)

/-- VFMA, VFMS: D of R or M, also read (05 R172). -/
def chkVfma (w : VWord) : Option IllFormed :=
  let f := w.fmt.toNat
  chkV w (inArith f) (dstOk true false f w.d && srcOk true true true true f w.a && srcOk true true true true f w.b)

/-- VCMP: D a predicate. -/
def chkVcmp (w : VWord) : Option IllFormed :=
  let f := w.fmt.toNat
  chkV w (inPlain f) (dstPred w.d && srcOk true true true true f w.a && srcOk true true true true f w.b)

/-- Shifts: A of R, M, S; B of R, M, S, K. -/
def chkVshift (w : VWord) (fmt : Nat → Bool) : Option IllFormed :=
  let f := w.fmt.toNat
  chkV w (fmt f) (dstOk true true f w.d && srcOk true true true false f w.a && srcOk true true true true f w.b)

/-- VCVT's source format, part and saturation request, in B's immediate (05 R189). -/
def vcvtSrc (w : VWord) : Nat := bits w.b.toNat 3 0
def vcvtSat (w : VWord) : Bool := bitOf w.b.toNat 4
def vcvtPart (w : VWord) : Nat := bits w.b.toNat 7 5

/-- VCVT: the pairing, the part and the kinds of both sides (05 R189, R190). -/
def chkVcvt (w : VWord) : Option IllFormed :=
  let f := w.fmt.toNat
  let g := vcvtSrc w
  let ws := fmtWidth g
  let wd := fmtWidth f
  let codes := (inPlain f || f == 9) && (inPlain g || g == 9)
    && (f != 9 || g == 6) && (g != 9 || f == 6)
  chkV w codes
    (dKind w.b == 3 && dReg w.b == 0 && bits w.b.toNat 10 8 == 0
      && decide (vcvtPart w < max ws wd / min ws wd)
      && (if f == 9 then dstOk false false f w.d else dstOk true true f w.d)
      && (if g == 9 then isReg w.a else srcOk true true true false g w.a))

/-- The plain format and the part in B of VQUANT and VDEQUANT (05 R191). -/
def vqPlain (w : VWord) : Nat := bits w.b.toNat 3 0
def vqPart (w : VWord) : Nat := bits w.b.toNat 6 4

/-- VQUANT and VDEQUANT: three registers, B's low field a parameter (05 R191, R192). -/
def chkVq (w : VWord) (quant : Bool) : Option IllFormed :=
  let f := w.fmt.toNat
  firstIll [(inScaled f, .format),
    (if quant then decide (w.mask.toNat = 15) else maskOk w, .mask),
    (dstOk false false f w.d && isReg w.a && isReg w.b && bits w.b.toNat 10 7 == 0 && inFloat (vqPlain w)
      && decide (vqPart w < fmtWidth (vqPlain w) / fmtWidth f)
      && (!quant || (dReg w.d != dReg w.a && dReg w.d != dReg w.b && dReg w.a != dReg w.b)), .descriptor)]

/-- VSUM and VMAXR: D a register or a scalar (05 R172, R193). -/
def chkVred (w : VWord) (fmt : Nat → Bool) : Option IllFormed :=
  let f := w.fmt.toNat
  chkV w (fmt f) ((dstOk false false f w.d || dstScalar w.d) && srcOk true true true false f w.a && isNone w.b)

/-- VBCAST and VPERM: A a register. -/
def chkVlane (w : VWord) (b : Bool) : Option IllFormed :=
  let f := w.fmt.toNat
  chkV w (inPlain f) (dstOk true true f w.d && isReg w.a && b)

/-! ## Matrix words -/

/-- Weight formats of WLD (06 R202). -/
def inWeight (f : Nat) : Bool := [1, 2, 3, 4, 5, 6, 7, 8, 9, 12, 13, 14].contains f
def inAct (f : Nat) : Bool := [1, 2, 3, 4, 5, 6, 7, 8, 12, 13, 14].contains f
def inAadd (f : Nat) : Bool := [0, 1, 2, 3, 4, 6, 10, 11].contains f
def inArd (f : Nat) : Bool := [0, 1, 2, 3, 4, 5, 6, 7, 8, 10, 11, 12, 13, 14].contains f

/-- Flags of a matrix word, bits [58:51] of R98. -/
def MWord.accum (w : MWord) : Bool := w.flags.toNat.testBit 7
def MWord.sat (w : MWord) : Bool := w.flags.toNat.testBit 6
def MWord.trans (w : MWord) : Bool := w.flags.toNat.testBit 5
def MWord.neg (w : MWord) : Bool := w.flags.toNat.testBit 4
def MWord.bscale (w : MWord) : Bool := w.flags.toNat.testBit 3
def MWord.epilogue (w : MWord) : Bool := w.flags.toNat.testBit 2
def MWord.ppois (w : MWord) : Bool := w.flags.toNat.testBit 1
def MWord.last (w : MWord) : Bool := w.flags.toNat.testBit 0

/-- A generator field and its offset: 0–4, or 7 with offset 0 (03 R98, R493). -/
def genOk (g : BitVec 3) (off : BitVec 16) : Bool :=
  decide (g.toNat ≤ 4) || (g.toNat == 7 && off == 0)

/-- Start + rows within the store (03 R98). -/
def rowsOk (w : MWord) : Bool := decide (w.start.toNat + w.rows.toNat + 1 ≤ 1024)

/-- Which fields an opcode uses (03 R100): activation format, activation operand, rows, weight operand, k-block, adapter
slot, rank, flags, output operand, rounding and epilogue. -/
structure MUse where
  afmt : Bool
  act : Bool
  rows : Bool
  wt : Bool
  kb : Bool
  adp : Bool
  rank : Bool
  flags : Nat
  out : Bool
deriving DecidableEq, Repr

/-- Every field `u` does not mark is zero (03 R100). -/
def unusedOk (u : MUse) (w : MWord) : Bool :=
  (u.afmt || w.afmt == 0) && (u.act || (w.agen == 0 && w.aoff == 0)) && (u.rows || (w.rows == 0 && w.start == 0))
    && (u.wt || (w.wgen == 0 && w.woff == 0 && w.wfmt == 0)) && (u.kb || w.kb == 0) && (u.adp || w.adp == 0)
    && (u.rank || w.rank == 0) && (w.flags.toNat &&& u.flags) == w.flags.toNat
    && (u.out || (w.ogen == 0 && w.ooff == 0 && w.ofmt == 0 && w.rnd == 0 && w.epi == 0))

def useWld : MUse := ⟨false, false, false, true, true, false, false, 0x10, false⟩
def useAstep : MUse := ⟨true, true, true, false, true, true, false, 0xEB, false⟩
def useAstepa : MUse := ⟨true, true, true, false, true, true, true, 0xEB, false⟩
def useAclr : MUse := ⟨false, false, true, false, false, false, false, 0, false⟩
def useArd : MUse := ⟨false, false, true, false, false, true, false, 0x4E, true⟩
def useAadd : MUse := ⟨true, true, true, false, false, false, false, 0xC2, false⟩
def useAscl : MUse := ⟨true, true, true, false, false, false, false, 0x42, false⟩
def useMcont : MUse := ⟨false, true, false, false, false, false, false, 0, false⟩
def useMnop : MUse := ⟨false, false, false, false, false, false, false, 0, false⟩

def chkMWith (u : MUse) (w : MWord) (rest : List (Bool × IllFormed)) : Option IllFormed :=
  firstIll ([(guardOk w.guard, .guard), (unusedOk u w, .unused)] ++ rest)

/-- Transpose: an 8- or 16-bit plain format, from ag0–ag3 (06 R204, 03 R493). -/
def transOk (w : MWord) : Bool :=
  !w.trans || ([1, 2, 3, 4, 6, 7].contains w.afmt.toNat && decide (w.agen.toNat ≤ 3))

def chkWld (w : MWord) : Option IllFormed :=
  chkMWith useWld w [(inWeight w.wfmt.toNat, .format), (genOk w.wgen w.woff, .generator)]

def chkAstep (w : MWord) : Option IllFormed :=
  chkMWith useAstep w [(inAct w.afmt.toNat, .format), (genOk w.agen w.aoff, .generator), (rowsOk w, .rows),
    (w.adp == 0xFFF, .range), (transOk w, .flag)]

def chkAstepa (w : MWord) : Option IllFormed :=
  chkMWith useAstepa w [(inAct w.afmt.toNat, .format), (genOk w.agen w.aoff, .generator), (rowsOk w, .rows),
    (w.adp != 0xFFF, .range), (transOk w, .flag)]

def chkAclr (w : MWord) : Option IllFormed := chkMWith useAclr w [(rowsOk w, .rows)]

def chkAadd (w : MWord) : Option IllFormed :=
  chkMWith useAadd w [(inAadd w.afmt.toNat, .format), (genOk w.agen w.aoff, .generator), (rowsOk w, .rows)]

def chkAscl (w : MWord) : Option IllFormed :=
  chkMWith useAscl w [(inFloat w.afmt.toNat, .format), (genOk w.agen w.aoff, .generator), (rowsOk w, .rows)]

/-- ARD: block scales exactly with a scaled output, whose rows are whole tiles; an epilogue only with flag [53]
(03 R98, 06 R205, R221). -/
def chkArd (w : MWord) : Option IllFormed :=
  chkMWith useArd w [(inArd w.ofmt.toNat, .format), (genOk w.ogen w.ooff, .generator), (rowsOk w, .rows),
    (w.bscale == inScaled w.ofmt.toNat, .flag),
    (!inScaled w.ofmt.toNat || (w.start.toNat % 8 == 0 && (w.rows.toNat + 1) % 8 == 0), .rows),
    (decide (w.epi.toNat ≤ 5) && (w.epilogue || w.epi == 0), .range)]

def chkMcont (w : MWord) : Option IllFormed :=
  chkMWith useMcont w [(decide (w.agen.toNat ≤ 4), .generator)]

/-! ## Command words -/

/-- Fields a command uses: D, A, B, COND, the AUX bits and the IMM bits (15 R382). -/
structure CUse where
  d : Bool
  a : Bool
  b : Bool
  cond : Bool
  aux : Nat
  imm : Nat
deriving DecidableEq, Repr

def allImm : Nat := 0xFFFFFFFF

def cUnused (u : CUse) (w : CWord) : Bool :=
  (u.d || w.d == 0) && (u.a || w.a == 0) && (u.b || w.b == 0)
    && (if u.cond then decide (w.cond.toNat ≤ 5) else w.cond == 0)
    && (w.aux.toNat &&& u.aux) == w.aux.toNat && (w.imm.toNat &&& u.imm) == w.imm.toNat

def chkC (w : CWord) (u : CUse) : Option IllFormed := firstIll [(cUnused u w, .unused)]

/-- Bit `i` of AUX. -/
def CWord.auxBit (w : CWord) (i : Nat) : Bool := w.aux.toNat.testBit i

/-- ALU commands: B or the immediate (15 R382). -/
def chkCAlu (w : CWord) (cond : Bool) : Option IllFormed :=
  chkC w ⟨true, true, !w.auxBit 0, cond, 1, if w.auxBit 0 then allImm else 0⟩

/-! ## Host messages -/

def chkMsg (ok : Bool) : Option IllFormed := firstIll [(ok, .range)]

def ctxOk (c : Nat) : Bool := decide (c < 128)

/-! ## Every instruction -/

/-- The first decoding check that an instruction fails. Internal events carry no encoding and fail none. -/
def checkInstr (i : Instr) : Option IllFormed :=
  match i with
  | .add _ _ _ g => chkG g
  | .sub _ _ _ g => chkG g
  | .and _ _ _ g => chkG g
  | .or _ _ _ g => chkG g
  | .xor _ _ _ g => chkG g
  | .shl _ _ _ g => chkG g
  | .shr _ _ _ g => chkG g
  | .sra _ _ _ g => chkG g
  | .addi _ _ _ => none
  | .andi _ _ _ => none
  | .ori _ _ _ => none
  | .xori _ _ _ => none
  | .shli _ _ _ => none
  | .shri _ _ _ => none
  | .srai _ _ _ => none
  | .limm _ => none
  | .mul _ _ _ g => chkG g
  | .mulh _ _ _ g => chkG g
  | .mulhu _ _ _ g => chkG g
  | .min _ _ _ g => chkG g
  | .max _ _ _ g => chkG g
  | .minu _ _ _ g => chkG g
  | .maxu _ _ _ g => chkG g
  | .sel _ _ _ n => chkG n
  | .div _ _ _ g => chkG g
  | .divu _ _ _ g => chkG g
  | .rem _ _ _ g => chkG g
  | .remu _ _ _ g => chkG g
  | .clz _ _ g => chkG g
  | .popc _ _ g => chkG g
  | .ext _ _ p n => firstIll [(decide (p.toNat + n.toNat + 1 ≤ 64), .range)]
  | .ins _ _ p n => firstIll [(decide (p.toNat + n.toNat + 1 ≤ 64), .range)]
  | .cmpEq pd _ _ g => chkPG pd g
  | .cmpNe pd _ _ g => chkPG pd g
  | .cmpLt pd _ _ g => chkPG pd g
  | .cmpLtu pd _ _ g => chkPG pd g
  | .cmpGe pd _ _ g => chkPG pd g
  | .cmpGeu pd _ _ g => chkPG pd g
  | .cmpi pd _ c _ => firstIll [(predOk pd, .predicate), (decide (c.toNat ≤ 5), .range)]
  | .pand pd pa pb g => chkP3 pd pa pb g
  | .por pd pa pb g => chkP3 pd pa pb g
  | .pxor pd pa pb g => chkP3 pd pa pb g
  | .pnot pd pa g => chkP3 pd pa 0 g
  | .pmov pd pa g => chkP3 pd pa 0 g
  | .br g _ => chkG g
  | .call g _ => chkG g
  | .jr _ _ g => chkG g
  | .loop _ _ => none
  | .brk _ g => chkG g
  | .gaddr _ _ w g => firstIll [(guardOk g, .guard), (decide (w.toNat ≤ 2), .range)]
  | .sptest pd _ classes g => firstIll [(predOk pd, .predicate), (guardOk g, .guard), (classes != 0, .range)]
  | .spcast _ _ dir g => firstIll [(guardOk g, .guard), (decide (dir.toNat ≤ 1), .range)]
  | .objsz _ _ g => chkG g
  | .objver _ _ g => chkG g
  | .csrr _ _ => none
  | .csrw _ _ => none
  | .vexec w => chkPar (w.par != 0)
  | .mexec w => chkPar (w.b == 0 && w.par != 0)
  | .xexec _ => none
  | .mnest w => chkPar (w.b == 0 && w.par == 0)
  | .twait _ => none
  | .tclr _ => none
  | .vlend _ _ g => chkG g
  | .vrecl _ g => chkG g
  | .phase _ g => chkG g
  | .waitdep g => chkG g
  | .trig g => chkG g
  | .launch _ g => chkG g
  | .exit g => chkG g
  | .yield g => chkG g
  | .ldB _ _ _ => none
  | .ldBu _ _ _ => none
  | .ldH _ _ _ => none
  | .ldHu _ _ _ => none
  | .ldW _ _ _ => none
  | .ldWu _ _ _ => none
  | .ldD _ _ _ => none
  | .stB _ _ _ => none
  | .stH _ _ _ => none
  | .stW _ _ _ => none
  | .stD _ _ _ => none
  | .amoSwapW _ _ _ sc => chkScope 2 7 sc
  | .amoAddW _ _ _ sc => chkScope 2 7 sc
  | .amoAndW _ _ _ sc => chkScope 2 7 sc
  | .amoOrW _ _ _ sc => chkScope 2 7 sc
  | .amoXorW _ _ _ sc => chkScope 2 7 sc
  | .amoMinW _ _ _ sc => chkScope 2 7 sc
  | .amoMaxW _ _ _ sc => chkScope 2 7 sc
  | .amoSwapD _ _ _ sc => chkScope 2 7 sc
  | .amoAddD _ _ _ sc => chkScope 2 7 sc
  | .amoAndD _ _ _ sc => chkScope 2 7 sc
  | .amoOrD _ _ _ sc => chkScope 2 7 sc
  | .amoXorD _ _ _ sc => chkScope 2 7 sc
  | .amoMinD _ _ _ sc => chkScope 2 7 sc
  | .amoMaxD _ _ _ sc => chkScope 2 7 sc
  | .amoMinuW _ _ _ sc => chkScope 2 7 sc
  | .amoMaxuW _ _ _ sc => chkScope 2 7 sc
  | .amoMinuD _ _ _ sc => chkScope 2 7 sc
  | .amoMaxuD _ _ _ sc => chkScope 2 7 sc
  | .casW _ _ _ sc => chkScope 2 7 sc
  | .casD _ _ _ sc => chkScope 2 7 sc
  | .ldacqW _ _ sc => chkScope 2 7 sc
  | .ldacqD _ _ sc => chkScope 2 7 sc
  | .strelW _ _ sc => chkScope 2 7 sc
  | .strelD _ _ sc => chkScope 2 7 sc
  | .fence sc => chkScope 2 8 sc
  | .fenceRel sc => chkScope 2 7 sc
  | .fenceAcq sc => chkScope 2 7 sc
  | .bar _ sc => chkScope 2 6 sc
  | .txarr _ _ g => chkG g
  | .txwait _ _ g => chkG g
  | .copy w => chkPar (w.bits 5 0 == 0)
  | .copyt w => chkPar (w.bits 5 0 == 0)
  | .copyr w => chkPar (w.bits 0 0 == 0)
  | .gath w => chkPar (w.bits 0 0 == 0)
  | .scat w => chkPar (w.bits 0 0 == 0)
  | .redc w => chkPar (decide (w.bits 1 0 ≤ 2) && [0, 1, 11].contains (w.bits 5 2))
  | .ratom w => chkPar (w.bits 1 0 == 0 && decide (w.bits 10 7 ≤ 9) && (w.bits 10 7 != 9 || w.bits 6 6 == 0)
      && decide (2 ≤ w.bits 5 2) && decide (w.bits 5 2 ≤ 7))
  | .bpref w => chkPar (w.bits 15 11 == 0 && w.bits 5 0 == 0)
  | .wprog w => chkPar (w.par == 0)
  | .trap _ g => chkG g
  | .eret g => chkG g
  | .halt g => chkG g
  | .vfcfgEnable g => chkG g
  | .vfcfgDisable g => chkG g
  | .vfcfgGate g => chkG g
  | .vfcfgReopen g => chkG g
  | .vadd w => chkV3 w inArith
  | .vsub w => chkV3 w inArith
  | .vmul w => chkV3 w inArith
  | .vfma w => chkVfma w
  | .vfms w => chkVfma w
  | .vmin w => chkV3 w inArith
  | .vmax w => chkV3 w inArith
  | .vabs w => chkV2 w inArith
  | .vneg w => chkV2 w inArith
  | .vrcp w => chkV2 w inFloat
  | .vrsq w => chkV2 w inFloat
  | .vexp2 w => chkV2 w inFloat
  | .vlog2 w => chkV2 w inFloat
  | .vtanh w => chkV2 w inFloat
  | .vmov w => chkV w (inPlain w.fmt.toNat) (dstOk true true w.fmt.toNat w.d && srcOk true true true true w.fmt.toNat w.a && isNone w.b)
  | .vbcast w => chkVlane w (srcOk false false false true w.fmt.toNat w.b)
  | .vperm w => chkVlane w (isReg w.b)
  | .vsel w => chkV3 w inPlain
  | .vcmpEq w => chkVcmp w
  | .vcmpNe w => chkVcmp w
  | .vcmpLt w => chkVcmp w
  | .vcmpGe w => chkVcmp w
  | .vand w => chkV3 w inPlain
  | .vor w => chkV3 w inPlain
  | .vxor w => chkV3 w inPlain
  | .vshl w => chkVshift w inInt
  | .vshr w => chkVshift w inInt
  | .vsra w => chkVshift w inSInt
  | .vcvt w => chkVcvt w
  | .vquant w => chkVq w true
  | .vdequant w => chkVq w false
  | .vsum w => chkVred w fun f => inInt f || inFloat f
  | .vmaxr w => chkVred w inPlain
  | .vscan w => chkV w (inArith w.fmt.toNat)
      (dstOk true true w.fmt.toNat w.d && srcOk true true true false w.fmt.toNat w.a && isImm 1 w.b)
  | .vmaskw w => chkV w (inPlain w.fmt.toNat) (dstPred w.d && srcOk false false false true w.fmt.toNat w.a && srcOk false false false true w.fmt.toNat w.b)
  | .viota w => chkV w (inArith w.fmt.toNat)
      (dstOk true true w.fmt.toNat w.d && srcOk false false false true w.fmt.toNat w.a && srcOk false false false true w.fmt.toNat w.b)
  | .vext w => chkV w (inPlain w.fmt.toNat) (dstScalar w.d && isReg w.a && srcOk false false false true w.fmt.toNat w.b)
  | .vins w => chkV w (inPlain w.fmt.toNat)
      (dstOk false false w.fmt.toNat w.d && srcOk false false false true w.fmt.toNat w.a && srcOk false false false true w.fmt.toNat w.b)
  | .vgath w => chkV w (inWide w.fmt.toNat)
      (dstOk false false w.fmt.toNat w.d && dKind w.a == 1 && dLow w.a == 1 && isReg w.b)
  | .vscat w => chkV w (inWide w.fmt.toNat) (dKind w.d == 1 && dLow w.d == 1 && isReg w.a && isReg w.b)
  | .vsync w => firstIll [(w.fmt == 0, .format), (w.mask == 15, .mask), (isNone w.d && isNone w.a && isNone w.b, .descriptor)]
  | .vfcnt w => chkV w (w.fmt == 0) (dstScalar w.d && isImm 1 w.a && isNone w.b)
  | .wld w => chkWld w
  | .astep w => chkAstep w
  | .astepa w => chkAstepa w
  | .aclr w => chkAclr w
  | .aadd w => chkAadd w
  | .ascl w => chkAscl w
  | .ard w => chkArd w
  | .mnop w => chkMWith useMnop w []
  | .mcont w => chkMcont w
  | .cmdLdi w ext => firstIll [(cUnused ⟨true, false, false, false, 1, if w.auxBit 0 then 0 else allImm⟩ w, .unused),
      (ext.length == if w.auxBit 0 then 1 else 0, .words)]
  | .cmdAdd w => chkCAlu w false
  | .cmdSub w => chkCAlu w false
  | .cmdAnd w => chkCAlu w false
  | .cmdOr w => chkCAlu w false
  | .cmdShl w => chkCAlu w false
  | .cmdCmp w => chkCAlu w true
  | .cmdBr w => chkC w ⟨false, false, false, false, 0, allImm⟩
  | .cmdBrc w => chkC w ⟨false, true, true, true, 0, allImm⟩
  | .cmdCall w => chkC w ⟨false, true, false, false, 0, 0⟩
  | .cmdLoop w => firstIll [(cUnused ⟨false, true, false, false, 0, allImm⟩ w, .unused),
      (decide (2 ≤ w.imm.toNat) && decide (w.imm.toNat < 2 ^ 31), .range)]
  | .cmdLoad w => chkC w ⟨true, true, false, false, 3, allImm⟩
  | .cmdStore w => chkC w ⟨false, true, true, false, 3, allImm⟩
  | .cmdWait w => chkC w ⟨true, true, true, true, 0, allImm⟩
  | .cmdSignalSet w => firstIll [(cUnused ⟨false, true, true, false, 0, 0⟩ w, .unused)]
  | .cmdSignalAdd w => firstIll [(cUnused ⟨false, true, true, false, 1, 0⟩ w, .unused), (w.aux == 1, .range)]
  | .invoke w ext => firstIll [(cUnused ⟨true, w.auxBit 5, true, false, 0x3F, 0xFFFFF⟩ w, .unused),
      (decide (bits w.aux.toNat 4 0 ≤ 16), .range), (ext.length == bits w.aux.toNat 4 0, .words)]
  | .cmdLaunch w => chkC w ⟨true, true, false, false, 0, 0⟩
  | .graph w => chkC w ⟨false, false, false, false, 0, allImm⟩
  | .bind w => chkC w ⟨true, true, false, false, 0, 0xFFF⟩
  | .evict w => chkC w ⟨true, false, false, false, 0, 0xFFF⟩
  | .timeat w => chkC w ⟨false, true, false, false, 0, 0⟩
  | .gang w => chkC w ⟨true, true, true, false, 0, allImm⟩
  | .report w => chkC w ⟨false, true, false, false, 0, allImm⟩
  | .summary w => chkC w ⟨true, true, false, false, 0, 0⟩
  | .ctxCreate ctx _ fn entries => chkMsg (ctxOk ctx && decide (fn < 64) && decide (1 ≤ entries) && decide (entries ≤ 65536))
  | .ctxDestroy ctx => chkMsg (ctxOk ctx)
  | .fnAssign ctx fn => chkMsg (ctxOk ctx && (decide (fn < 64) || fn == 0xFF))
  | .objWrite ctx idx ent => chkMsg (ctxOk ctx && decide (idx < 2 ^ 32) && ent.length == 40)
  | .extentInvalidate ctx idx ext => chkMsg (ctxOk ctx && decide (idx < 2 ^ 32) && decide (ext < 2 ^ 64))
  | .extentMap ctx idx ext => chkMsg (ctxOk ctx && decide (idx < 2 ^ 32) && decide (ext < 2 ^ 64))
  | .extentFatal ctx idx ext => chkMsg (ctxOk ctx && decide (idx < 2 ^ 32) && decide (ext < 2 ^ 64))
  | .queueCreate q attr => chkMsg (decide (q < 64) && ctxOk attr.ctx && decide (attr.prio < 256) && decide (attr.rbase < 2 ^ 64)
      && decide (attr.rsize < 2 ^ 32) && decide (attr.nh < 2 ^ 16) && decide (attr.hlist < 2 ^ 64)
      && decide (attr.ibase < 2 ^ 64))
  | .queueConfig q attr => chkMsg (decide (q < 64) && ctxOk attr.ctx && decide (attr.prio < 256) && decide (attr.rbase < 2 ^ 64)
      && decide (attr.rsize < 2 ^ 32) && decide (attr.nh < 2 ^ 16) && decide (attr.hlist < 2 ^ 64)
      && decide (attr.ibase < 2 ^ 64))
  | .queueDoorbell q head => chkMsg (decide (q < 64) && decide (head < 2 ^ 32))
  | .queueRestart q _ => chkMsg (decide (q < 64))
  | .queueDestroy q => chkMsg (decide (q < 64))
  | .queueRead q => chkMsg (decide (q < 64))
  | .codeLoad ctx addr len => chkMsg (ctxOk ctx && decide (addr < 2 ^ 64) && decide (len < 2 ^ 64))
  | .codeUnload desc => chkMsg (decide (desc < 2 ^ 32))
  | .adpInstall slot attr => chkMsg (decide (slot < 4096) && decide (attr.kind < 256) && decide (attr.rankm1 < 256) && decide (attr.bver < 2 ^ 16)
      && decide (attr.eidx < 256) && decide (attr.parent < 2 ^ 16) && decide (attr.aidx < 2 ^ 16)
      && decide (attr.bidx < 2 ^ 16) && decide (attr.ridx < 2 ^ 16))
  | .adpRelease slot => chkMsg (decide (slot < 4096))
  | .adpForceEvict slot => chkMsg (decide (slot < 4096))
  | .adpRead slot => chkMsg (decide (slot < 4096))
  | .modelLoad model ent attr => chkMsg (decide (model < 256) && decide (ent < 2) && decide (attr.vid < 2 ^ 16) && decide (attr.svn < 2 ^ 32)
      && decide (attr.addr < 2 ^ 64) && decide (attr.len < 2 ^ 64) && decide (attr.entry < 2 ^ 64)
      && decide (attr.wobj < 2 ^ 16) && decide (attr.nwobj < 2 ^ 16))
  | .modelSwitch model => chkMsg (decide (model < 256))
  | .modelRetire model ent => chkMsg (decide (model < 256) && decide (ent < 2))
  | .modelRead model => chkMsg (decide (model < 256))
  | .wobjWrite id lo hi => chkMsg (decide (id < 2 ^ 16) && lo.length == 16 && hi.length == 32)
  | .readyClear die => chkMsg (decide (die < 10))
  | .warmReset die => chkMsg (decide (die < 10))
  | .moduleRetrain die module => chkMsg (decide (die < 10) && decide (module < 5))
  | .recal column bank => chkMsg (decide (column < 128) && decide (bank < 256))
  | .retrain die channel => chkMsg (decide (die < 10) && decide (channel < 16))
  | .fwWrite cls die svn addr len => chkMsg (decide (cls < 2) && decide (die < 10) && decide (svn < 2 ^ 32) && decide (addr < 2 ^ 64) && decide (len < 2 ^ 64))
  | .fwSwitch cls die => chkMsg (decide (cls < 2) && decide (die < 10))
  | .wtRead die first count => chkMsg (decide (die < 8) && decide (first < 2 ^ 16) && decide (1 ≤ count) && decide (count ≤ 2048))
  | .podForm self master _ => chkMsg (decide (self < 256) && decide (master < 256))
  | .podRoute first ports => chkMsg (decide (first < 256) && decide (1 ≤ ports.length) && decide (ports.length ≤ 20)
      && ports.all fun p => decide (p.1 < 16) && decide (p.2 < 16))
  | .cellarPool ents => chkMsg (decide (ents.length ≤ 256) && ents.all fun e => decide (e.1 < 8) && decide (e.2 < 2 ^ 64))
  | .preemptCoop ctx => chkMsg (ctxOk ctx)
  | .preemptForce ctx gang => chkMsg (ctxOk ctx && decide (gang < 2 ^ 16))
  | .resume ctx => chkMsg (ctxOk ctx)
  | .cellarWithdraw die addr => chkMsg (decide (die < 8) && decide (addr < 2 ^ 64))
  | .keySet slot _ => chkMsg (decide (slot < 8192))
  | .keyAssign slot ctx => chkMsg (decide (slot < 8192) && ctxOk ctx)
  | .keyErase slot => chkMsg (decide (slot < 8192))
  | .counterAdvance ctr val => chkMsg (decide (ctr < 4) && decide (val < 2 ^ 32))
  | .debugUnlock token => chkMsg (decide (token.length ≤ 65536))
  | .attest ctx nonce => chkMsg (ctxOk ctx && nonce.length == 32)
  | .lockInterface => none
  | .startInterface => none
  | .stopInterface => none
  | .getDeviceInterfaceReport => none
  | .endSession => none
  | .spdm addr len => chkMsg (decide (addr < 2 ^ 64) && decide (len ≤ 65536))
  | .xend => none
  | .qmark => none
  | .cmdNop => none
  | .cmdRet => none
  | .cmdEndl => none
  | .cmdFence => none
  | .cmdHalt => none
  | .timeQuery => none
  | .summaryMsg => none
  | .readyQuery => none
  | .waitReread _ => none
  | .waitTimeout _ => none
  | .timeatReached _ => none
  | .gangStart _ => none
  | .gangGuardExpiry _ => none
  | .gangLateLimit _ => none
  | .gangLateReceive _ _ => none
  | .gangArrived _ => none
  | .gangArrivedReceive _ _ => none
  | .invokeBlockFree _ => none
  | .launchAdmit => none
  | .placement _ _ _ => none
  | .bindRecordBind _ => none
  | .earlyBind _ => none
  | .stealRequest _ _ => none
  | .launchComplete _ => none
  | .matrixBindingEnd _ => none
  | .accClearEnd _ => none
  | .engineBlockBegin _ _ => none
  | .tokenComplete _ _ _ => none
  | .twaitRelease _ => none
  | .waitdepRelease _ => none
  | .trigSignal _ => none
  | .exitRetire _ => none
  | .txwaitRelease _ => none
  | .phaseMoveEnd _ => none
  | .stallResume _ => none
  | .accessResponse _ => none
  | .transferLanding _ _ => none
  | .transferRetire _ => none
  | .extentWalk _ _ _ _ => none
  | .sideLogReplay _ => none
  | .cacheWriteback _ _ => none
  | .homeMessageApply _ => none
  | .messageAck _ => none
  | .linkResend _ => none
  | .permitReturn _ _ _ => none
  | .governorWindow _ => none
  | .fwshareWindow _ => none
  | .engineStop _ _ => none
  | .matrixHaltSkidEnd _ _ => none
  | .trapDelivery _ => none
  | .stairwellClosed _ => none
  | .stairwellDrainTimeout _ => none
  | .preemptArm _ => none
  | .preemptFree _ => none
  | .divertedRequest _ _ => none
  | .diversionFold _ _ => none
  | .resumeBind _ => none
  | .coopPreemptComplete _ => none
  | .firmwareContextRestart _ _ => none
  | .wpRequestBegin _ => none
  | .wpIterationEnd _ => none
  | .wpFlip _ => none
  | .wpTreeUpdateEnd _ => none
  | .drainingRowFree _ _ => none
  | .recalStart _ => none
  | .recalEnd _ => none
  | .adapterRefsZero _ => none
  | .versionRefsZero _ _ => none
  | .adapterStateAck _ _ => none
  | .loadComplete _ => none
  | .startupStepEnd _ _ _ => none
  | .modelStartupMeasure _ _ => none
  | .warmResetStepEnd _ => none
  | .timeExchange _ _ _ => none
  | .holdoverEnter _ => none
  | .timeUnlock _ => none
  | .timeLockAcquire _ => none
  | .railTelemetry _ _ => none
  | .junctionOvertemp _ _ => none
  | .thermalTrip => none
  | .coldReset => none
  | .powerLoss => none
  | .ucieModuleDown _ _ => none
  | .flitCrcReplay _ _ => none
  | .podLinkDown _ => none
  | .dieLost _ => none
  | .ioDieFailure _ => none
  | .uncorrectableError _ => none
  | .correctedError _ => none
  | .functionLevelReset _ => none
  | .interfaceError _ _ => none
  | .mrhead _ _ => none
  | .registerWrite _ _ => none
  | .podLinkUp _ => none
  | .ucieModuleRetrainEnd _ _ => none
  | .lpddrRetrainEnd _ _ => none
  | .lpddrChannelFailure _ _ => none
  | .firmwareSwitchEnd _ _ => none
  | .flrStepEnd _ => none

/-- Well-formed: every decoding check passes. -/
def Instr.wf (i : Instr) : Bool := (checkInstr i).isNone

end Sys2Proof
end

