-- ==== Sys2Proof/Decode.lean ====
section
/-! DEFINITION. From encodings to instructions and back: the scalar word and the T form (spec 03 R81–R92), the vector word
(R94–R97), the matrix word (R98–R100), the command word (R104, R105, 15 R382) and the message entry (20 R471, R474). Every
decoder is total and rejects by name; the encoders follow the same tables. -/
namespace Sys2Proof

/-- Why bits are no instruction. -/
inductive DecodeError where
  /-- An opcode the map marks "—" (03 R90, R97, R99, R105). -/
  | reservedOpcode
  /-- A function the group marks "—" (03 R91). -/
  | reservedFunction
  /-- A field that must be zero is not (03 R92, R98, R104, 04 R120). -/
  | nonzeroField
  /-- A T-form opcode where one word is read, or the reverse. -/
  | wrongLength
  /-- A message type that 20 R474 does not list. -/
  | unknownType
  /-- A message that is accepted only inside a secured message (20 R474, R477). -/
  | securedOnly
  /-- An SPDM entry: the responder reads it (20 R476). -/
  | spdmCarrier
  /-- The fields stand outside what the instruction accepts. -/
  | illFormed (w : IllFormed)
deriving DecidableEq, Repr

/-- A decoded instruction is answered when it is well-formed. -/
def wellFormedOr (r : Except DecodeError Instr) : Except DecodeError Instr :=
  match r with
  | .error e => .error e
  | .ok i =>
    match checkInstr i with
    | none => .ok i
    | some e => .error (.illFormed e)

/-- An instruction whose must-be-zero fields are zero. -/
def whenZero (c : Bool) (i : Instr) : Except DecodeError Instr := if c then .ok i else .error .nonzeroField

/-! ## The scalar word -/

/-- Fields of a scalar word (03 R81, R82). -/
def wE (w : Nat) : Bool := w.testBit 31
def wS (w : Nat) : Nat := bits w 30 28
def wOp (w : Nat) : Nat := bits w 27 22
def wRd (w : Nat) : Nat := bits w 21 17
def wA (w : Nat) : Nat := bits w 16 12
def wB (w : Nat) : Nat := bits w 11 7
def wF (w : Nat) : Nat := bits w 6 4
def wG (w : Nat) : Nat := bits w 3 0
def wImm (w : Nat) : Nat := bits w 11 0

/-- A register field. -/
def reg (n : Nat) : BitVec 5 := BitVec.ofNat 5 n
def pr (n : Nat) : BitVec 4 := BitVec.ofNat 4 n
def i12 (n : Nat) : BitVec 12 := BitVec.ofNat 12 n
def i6 (n : Nat) : BitVec 6 := BitVec.ofNat 6 n

/-- The ALU group, 0x01 (03 R91). -/
def decodeAlu (w : Nat) : Except DecodeError Instr :=
  match wF w with
  | 0 => .ok (.add (reg (wRd w)) (reg (wA w)) (reg (wB w)) (pr (wG w)))
  | 1 => .ok (.sub (reg (wRd w)) (reg (wA w)) (reg (wB w)) (pr (wG w)))
  | 2 => .ok (.and (reg (wRd w)) (reg (wA w)) (reg (wB w)) (pr (wG w)))
  | 3 => .ok (.or (reg (wRd w)) (reg (wA w)) (reg (wB w)) (pr (wG w)))
  | 4 => .ok (.xor (reg (wRd w)) (reg (wA w)) (reg (wB w)) (pr (wG w)))
  | 5 => .ok (.shl (reg (wRd w)) (reg (wA w)) (reg (wB w)) (pr (wG w)))
  | 6 => .ok (.shr (reg (wRd w)) (reg (wA w)) (reg (wB w)) (pr (wG w)))
  | 7 => .ok (.sra (reg (wRd w)) (reg (wA w)) (reg (wB w)) (pr (wG w)))
  | _ => .error .reservedFunction

/-- The MUL group, 0x02. -/
def decodeMul (w : Nat) : Except DecodeError Instr :=
  match wF w with
  | 0 => .ok (.mul (reg (wRd w)) (reg (wA w)) (reg (wB w)) (pr (wG w)))
  | 1 => .ok (.mulh (reg (wRd w)) (reg (wA w)) (reg (wB w)) (pr (wG w)))
  | 2 => .ok (.mulhu (reg (wRd w)) (reg (wA w)) (reg (wB w)) (pr (wG w)))
  | 3 => .ok (.min (reg (wRd w)) (reg (wA w)) (reg (wB w)) (pr (wG w)))
  | 4 => .ok (.max (reg (wRd w)) (reg (wA w)) (reg (wB w)) (pr (wG w)))
  | 5 => .ok (.minu (reg (wRd w)) (reg (wA w)) (reg (wB w)) (pr (wG w)))
  | 6 => .ok (.maxu (reg (wRd w)) (reg (wA w)) (reg (wB w)) (pr (wG w)))
  | 7 => .ok (.sel (reg (wRd w)) (reg (wA w)) (reg (wB w)) (pr (wG w)))
  | _ => .error .reservedFunction

/-- The DIV group, 0x03; CLZ and POPC have b = 0 (04 R125). -/
def decodeDiv (w : Nat) : Except DecodeError Instr :=
  match wF w with
  | 0 => .ok (.div (reg (wRd w)) (reg (wA w)) (reg (wB w)) (pr (wG w)))
  | 1 => .ok (.divu (reg (wRd w)) (reg (wA w)) (reg (wB w)) (pr (wG w)))
  | 2 => .ok (.rem (reg (wRd w)) (reg (wA w)) (reg (wB w)) (pr (wG w)))
  | 3 => .ok (.remu (reg (wRd w)) (reg (wA w)) (reg (wB w)) (pr (wG w)))
  | 4 => whenZero (wB w == 0) (.clz (reg (wRd w)) (reg (wA w)) (pr (wG w)))
  | 5 => whenZero (wB w == 0) (.popc (reg (wRd w)) (reg (wA w)) (pr (wG w)))
  | _ => .error .reservedFunction

/-- The CMP group, 0x04: rd[4] is 0 (03 R92). -/
def decodeCmp (w : Nat) : Except DecodeError Instr :=
  match wF w with
  | 0 => whenZero (wRd w / 16 == 0) (.cmpEq (pr (wRd w)) (reg (wA w)) (reg (wB w)) (pr (wG w)))
  | 1 => whenZero (wRd w / 16 == 0) (.cmpNe (pr (wRd w)) (reg (wA w)) (reg (wB w)) (pr (wG w)))
  | 2 => whenZero (wRd w / 16 == 0) (.cmpLt (pr (wRd w)) (reg (wA w)) (reg (wB w)) (pr (wG w)))
  | 3 => whenZero (wRd w / 16 == 0) (.cmpLtu (pr (wRd w)) (reg (wA w)) (reg (wB w)) (pr (wG w)))
  | 4 => whenZero (wRd w / 16 == 0) (.cmpGe (pr (wRd w)) (reg (wA w)) (reg (wB w)) (pr (wG w)))
  | 5 => whenZero (wRd w / 16 == 0) (.cmpGeu (pr (wRd w)) (reg (wA w)) (reg (wB w)) (pr (wG w)))
  | _ => .error .reservedFunction

/-- The PRED group, 0x05: bit 4 of each field is 0, and PNOT and PMOV have b = 0 (03 R92). -/
def decodePred (w : Nat) : Except DecodeError Instr :=
  match wF w with
  | 0 => whenZero (wRd w / 16 == 0 && wA w / 16 == 0 && wB w / 16 == 0) (.pand (pr (wRd w)) (pr (wA w)) (pr (wB w)) (pr (wG w)))
  | 1 => whenZero (wRd w / 16 == 0 && wA w / 16 == 0 && wB w / 16 == 0) (.por (pr (wRd w)) (pr (wA w)) (pr (wB w)) (pr (wG w)))
  | 2 => whenZero (wRd w / 16 == 0 && wA w / 16 == 0 && wB w / 16 == 0) (.pxor (pr (wRd w)) (pr (wA w)) (pr (wB w)) (pr (wG w)))
  | 3 => whenZero (wRd w / 16 == 0 && wA w / 16 == 0 && wB w == 0) (.pnot (pr (wRd w)) (pr (wA w)) (pr (wG w)))
  | 4 => whenZero (wRd w / 16 == 0 && wA w / 16 == 0 && wB w == 0) (.pmov (pr (wRd w)) (pr (wA w)) (pr (wG w)))
  | _ => .error .reservedFunction

/-- JR, 0x06: b and the function are 0 (04 R120, R131). -/
def decodeJr (w : Nat) : Except DecodeError Instr :=
  match wF w with
  | 0 => whenZero (wB w == 0) (.jr (reg (wRd w)) (reg (wA w)) (pr (wG w)))
  | _ => .error .reservedFunction

/-- The ADDR group, 0x07. -/
def decodeAddr (w : Nat) : Except DecodeError Instr :=
  match wF w with
  | 0 => .ok (.gaddr (reg (wRd w)) (reg (wA w)) (reg (wB w)) (pr (wG w)))
  | 1 => whenZero (wRd w / 16 == 0) (.sptest (pr (wRd w)) (reg (wA w)) (reg (wB w)) (pr (wG w)))
  | 2 => .ok (.spcast (reg (wRd w)) (reg (wA w)) (reg (wB w)) (pr (wG w)))
  | 3 => whenZero (wB w == 0) (.objsz (reg (wRd w)) (reg (wA w)) (pr (wG w)))
  | 4 => whenZero (wB w == 0) (.objver (reg (wRd w)) (reg (wA w)) (pr (wG w)))
  | _ => .error .reservedFunction

/-- The TASK group, 0x08 (04 R154–R157). -/
def decodeTask (w : Nat) : Except DecodeError Instr :=
  match wF w with
  | 0 => whenZero (wRd w == 0 && wA w == 0 && wB w == 0) (.waitdep (pr (wG w)))
  | 1 => whenZero (wRd w == 0 && wA w == 0 && wB w == 0) (.trig (pr (wG w)))
  | 2 => whenZero (wRd w == 0 && wB w == 0) (.launch (reg (wA w)) (pr (wG w)))
  | 3 => whenZero (wRd w == 0 && wA w == 0 && wB w == 0) (.exit (pr (wG w)))
  | 4 => whenZero (wRd w == 0 && wA w == 0 && wB w == 0) (.yield (pr (wG w)))
  | _ => .error .reservedFunction

/-- The LEND group, 0x09 (04 R150, R152). -/
def decodeLend (w : Nat) : Except DecodeError Instr :=
  match wF w with
  | 0 => whenZero (wRd w == 0 && wA w / 4 == 0 && wB w / 2 == 0)
      (.vlend (BitVec.ofNat 2 (wA w)) (BitVec.ofNat 1 (wB w)) (pr (wG w)))
  | 1 => whenZero (wRd w == 0 && wA w / 4 == 0 && wB w == 0) (.vrecl (BitVec.ofNat 2 (wA w)) (pr (wG w)))
  | 2 => whenZero (wRd w == 0 && wB w == 0) (.phase (reg (wA w)) (pr (wG w)))
  | _ => .error .reservedFunction

/-- VFCFG's op stands in the a field (07 R268). -/
def decodeVfcfg (w : Nat) : Except DecodeError Instr :=
  match wA w with
  | 0 => .ok (.vfcfgEnable (pr (wG w)))
  | 1 => .ok (.vfcfgDisable (pr (wG w)))
  | 2 => .ok (.vfcfgGate (pr (wG w)))
  | 3 => .ok (.vfcfgReopen (pr (wG w)))
  | _ => .error (.illFormed .range)

/-- The SYS group, 0x0A (04 R133, R145, 07 R268). -/
def decodeSys (w : Nat) : Except DecodeError Instr :=
  match wF w with
  | 0 => whenZero (wRd w == 0) (.trap (BitVec.ofNat 10 (wA w * 32 + wB w)) (pr (wG w)))
  | 1 => whenZero (wRd w == 0 && wA w == 0 && wB w == 0) (.eret (pr (wG w)))
  | 2 => whenZero (wRd w == 0 && wA w == 0 && wB w == 0) (.halt (pr (wG w)))
  | 3 => if wRd w == 0 && wB w == 0 then decodeVfcfg w else .error .nonzeroField
  | 4 => whenZero (wRd w == 0) (.brk (BitVec.ofNat 10 (wA w * 32 + wB w)) (pr (wG w)))
  | 5 => whenZero (wRd w == 0 && wA w == 0 && wB w == 0 && wG w == 15) .xend
  | _ => .error .reservedFunction

/-- AMO.W, 0x2C: the guard field is the scope (03 R92). -/
def decodeAmoW (w : Nat) : Except DecodeError Instr :=
  match wF w with
  | 0 => .ok (.amoSwapW (reg (wRd w)) (reg (wA w)) (reg (wB w)) (pr (wG w)))
  | 1 => .ok (.amoAddW (reg (wRd w)) (reg (wA w)) (reg (wB w)) (pr (wG w)))
  | 2 => .ok (.amoAndW (reg (wRd w)) (reg (wA w)) (reg (wB w)) (pr (wG w)))
  | 3 => .ok (.amoOrW (reg (wRd w)) (reg (wA w)) (reg (wB w)) (pr (wG w)))
  | 4 => .ok (.amoXorW (reg (wRd w)) (reg (wA w)) (reg (wB w)) (pr (wG w)))
  | 5 => .ok (.amoMinW (reg (wRd w)) (reg (wA w)) (reg (wB w)) (pr (wG w)))
  | 6 => .ok (.amoMaxW (reg (wRd w)) (reg (wA w)) (reg (wB w)) (pr (wG w)))
  | _ => .error .reservedFunction

/-- AMO.D, 0x2D: the guard field is the scope (03 R92). -/
def decodeAmoD (w : Nat) : Except DecodeError Instr :=
  match wF w with
  | 0 => .ok (.amoSwapD (reg (wRd w)) (reg (wA w)) (reg (wB w)) (pr (wG w)))
  | 1 => .ok (.amoAddD (reg (wRd w)) (reg (wA w)) (reg (wB w)) (pr (wG w)))
  | 2 => .ok (.amoAndD (reg (wRd w)) (reg (wA w)) (reg (wB w)) (pr (wG w)))
  | 3 => .ok (.amoOrD (reg (wRd w)) (reg (wA w)) (reg (wB w)) (pr (wG w)))
  | 4 => .ok (.amoXorD (reg (wRd w)) (reg (wA w)) (reg (wB w)) (pr (wG w)))
  | 5 => .ok (.amoMinD (reg (wRd w)) (reg (wA w)) (reg (wB w)) (pr (wG w)))
  | 6 => .ok (.amoMaxD (reg (wRd w)) (reg (wA w)) (reg (wB w)) (pr (wG w)))
  | _ => .error .reservedFunction

/-- AMOX, 0x2E. -/
def decodeAmox (w : Nat) : Except DecodeError Instr :=
  match wF w with
  | 0 => .ok (.amoMinuW (reg (wRd w)) (reg (wA w)) (reg (wB w)) (pr (wG w)))
  | 1 => .ok (.amoMaxuW (reg (wRd w)) (reg (wA w)) (reg (wB w)) (pr (wG w)))
  | 2 => .ok (.amoMinuD (reg (wRd w)) (reg (wA w)) (reg (wB w)) (pr (wG w)))
  | 3 => .ok (.amoMaxuD (reg (wRd w)) (reg (wA w)) (reg (wB w)) (pr (wG w)))
  | 4 => .ok (.casW (reg (wRd w)) (reg (wA w)) (reg (wB w)) (pr (wG w)))
  | 5 => .ok (.casD (reg (wRd w)) (reg (wA w)) (reg (wB w)) (pr (wG w)))
  | _ => .error .reservedFunction

/-- FENCE's form stands in the b field (07 R241). -/
def decodeFence (w : Nat) : Except DecodeError Instr :=
  match wB w with
  | 0 => .ok (.fence (pr (wG w)))
  | 1 => .ok (.fenceRel (pr (wG w)))
  | 2 => .ok (.fenceAcq (pr (wG w)))
  | _ => .error (.illFormed .range)

/-- SYNC, 0x2F. -/
def decodeSync (w : Nat) : Except DecodeError Instr :=
  match wF w with
  | 0 => whenZero (wB w == 0) (.ldacqW (reg (wRd w)) (reg (wA w)) (pr (wG w)))
  | 1 => whenZero (wB w == 0) (.ldacqD (reg (wRd w)) (reg (wA w)) (pr (wG w)))
  | 2 => whenZero (wRd w == 0) (.strelW (reg (wA w)) (reg (wB w)) (pr (wG w)))
  | 3 => whenZero (wRd w == 0) (.strelD (reg (wA w)) (reg (wB w)) (pr (wG w)))
  | 4 => if wRd w == 0 && wA w == 0 then decodeFence w else .error .nonzeroField
  | 5 => whenZero (wRd w == 0 && wA w == 0 && wB w == 0 && wG w == 0) .qmark
  | 6 => whenZero (wRd w == 0 && wB w == 0) (.bar (reg (wA w)) (pr (wG w)))
  | _ => .error .reservedFunction

/-- TXB, 0x30. -/
def decodeTxb (w : Nat) : Except DecodeError Instr :=
  match wF w with
  | 0 => whenZero (wRd w == 0) (.txarr (reg (wA w)) (reg (wB w)) (pr (wG w)))
  | 1 => whenZero (wB w == 0) (.txwait (reg (wRd w)) (reg (wA w)) (pr (wG w)))
  | _ => .error .reservedFunction

/-- The fields of a one-word instruction by its major opcode (03 R90); E and S belong to the bundle. -/
def decodeFields (w : Nat) : Except DecodeError Instr :=
  match wOp w with
  | 0x01 => decodeAlu w
  | 0x02 => decodeMul w
  | 0x03 => decodeDiv w
  | 0x04 => decodeCmp w
  | 0x05 => decodePred w
  | 0x06 => decodeJr w
  | 0x07 => decodeAddr w
  | 0x08 => decodeTask w
  | 0x09 => decodeLend w
  | 0x0A => decodeSys w
  | 0x0C => .ok (.addi (reg (wRd w)) (reg (wA w)) (i12 (wImm w)))
  | 0x0D => .ok (.andi (reg (wRd w)) (reg (wA w)) (i12 (wImm w)))
  | 0x0E => .ok (.ori (reg (wRd w)) (reg (wA w)) (i12 (wImm w)))
  | 0x0F => .ok (.xori (reg (wRd w)) (reg (wA w)) (i12 (wImm w)))
  | 0x10 => whenZero (wImm w / 64 == 0) (.shli (reg (wRd w)) (reg (wA w)) (i6 (wImm w)))
  | 0x11 => whenZero (wImm w / 64 == 0) (.shri (reg (wRd w)) (reg (wA w)) (i6 (wImm w)))
  | 0x12 => whenZero (wImm w / 64 == 0) (.srai (reg (wRd w)) (reg (wA w)) (i6 (wImm w)))
  | 0x13 => whenZero (wRd w / 16 == 0)
    (.cmpi (pr (wRd w)) (reg (wA w)) (BitVec.ofNat 3 (wImm w / 512)) (BitVec.ofNat 9 (wImm w)))
  | 0x14 => .ok (.ext (reg (wRd w)) (reg (wA w)) (i6 (wImm w / 64)) (i6 (wImm w)))
  | 0x15 => .ok (.ins (reg (wRd w)) (reg (wA w)) (i6 (wImm w / 64)) (i6 (wImm w)))
  | 0x16 => whenZero (wA w == 0) (.csrr (reg (wRd w)) (i12 (wImm w)))
  | 0x17 => whenZero (wRd w == 0) (.csrw (reg (wA w)) (i12 (wImm w)))
  | 0x18 => whenZero (wRd w == 0 && wA w == 0 && wImm w / 64 == 0) (.twait (i6 (wImm w)))
  | 0x19 => whenZero (wRd w == 0 && wA w == 0 && wImm w / 64 == 0) (.tclr (i6 (wImm w)))
  | 0x1A => whenZero (wA w == 0) (.loop (reg (wRd w)) (i12 (wImm w)))
  | 0x1B => .ok (.limm (BitVec.ofNat 22 w))
  | 0x1C => if w.testBit 17 then .ok (.call (pr (bits w 21 18)) (BitVec.ofNat 17 w))
    else .ok (.br (pr (bits w 21 18)) (BitVec.ofNat 17 w))
  | 0x20 => .ok (.ldB (reg (wRd w)) (reg (wA w)) (i12 (wImm w)))
  | 0x21 => .ok (.ldBu (reg (wRd w)) (reg (wA w)) (i12 (wImm w)))
  | 0x22 => .ok (.ldH (reg (wRd w)) (reg (wA w)) (i12 (wImm w)))
  | 0x23 => .ok (.ldHu (reg (wRd w)) (reg (wA w)) (i12 (wImm w)))
  | 0x24 => .ok (.ldW (reg (wRd w)) (reg (wA w)) (i12 (wImm w)))
  | 0x25 => .ok (.ldWu (reg (wRd w)) (reg (wA w)) (i12 (wImm w)))
  | 0x26 => .ok (.ldD (reg (wRd w)) (reg (wA w)) (i12 (wImm w)))
  | 0x28 => .ok (.stB (reg (wRd w)) (reg (wA w)) (i12 (wImm w)))
  | 0x29 => .ok (.stH (reg (wRd w)) (reg (wA w)) (i12 (wImm w)))
  | 0x2A => .ok (.stW (reg (wRd w)) (reg (wA w)) (i12 (wImm w)))
  | 0x2B => .ok (.stD (reg (wRd w)) (reg (wA w)) (i12 (wImm w)))
  | 0x2C => decodeAmoW w
  | 0x2D => decodeAmoD w
  | 0x2E => decodeAmox w
  | 0x2F => decodeSync w
  | 0x30 => decodeTxb w
  | _ => .error .reservedOpcode

/-- The major opcodes of the T form (03 R90). -/
def isTOp (op : Nat) : Bool := (decide (0x31 ≤ op) && decide (op ≤ 0x34)) || (decide (0x36 ≤ op) && decide (op ≤ 0x3E))

/-- A one-word instruction. -/
def decodeWord (w : Nat) : Except DecodeError Instr :=
  if isTOp (wOp w) then .error .wrongLength else wellFormedOr (decodeFields w)

/-- The operand fields of a T-form pair (03 R82). -/
def tFields (w0 w1 : Nat) : TWord :=
  { tok := ⟨i6 (bits w0 21 16), i6 (bits w0 15 10), i6 (bits w1 27 22), i6 (bits w1 21 16)⟩,
    a := reg (bits w0 9 5), b := reg (bits w0 4 0), par := BitVec.ofNat 16 w1 }

/-- A T-form instruction by the major opcode of its first word. -/
def decodeTFields (w0 w1 : Nat) : Except DecodeError Instr :=
  match wOp w0 with
  | 0x31 => .ok (.vexec (tFields w0 w1))
  | 0x32 => .ok (.mexec (tFields w0 w1))
  | 0x33 => .ok (.xexec (tFields w0 w1))
  | 0x34 => .ok (.mnest (tFields w0 w1))
  | 0x36 => .ok (.copy (tFields w0 w1))
  | 0x37 => .ok (.copyt (tFields w0 w1))
  | 0x38 => .ok (.copyr (tFields w0 w1))
  | 0x39 => .ok (.gath (tFields w0 w1))
  | 0x3A => .ok (.scat (tFields w0 w1))
  | 0x3B => .ok (.redc (tFields w0 w1))
  | 0x3C => .ok (.ratom (tFields w0 w1))
  | 0x3D => .ok (.bpref (tFields w0 w1))
  | 0x3E => .ok (.wprog (tFields w0 w1))
  | _ => .error .reservedOpcode

/-- A T-form instruction. -/
def decodeT (w0 w1 : Nat) : Except DecodeError Instr := wellFormedOr (decodeTFields w0 w1)

/-! ## The vector word -/

/-- The fields of a vector word (03 R94). -/
def vFields (w : Nat) : VWord :=
  { stall := BitVec.ofNat 3 (bits w 88 86), fmt := pr (bits w 85 82), mask := pr (bits w 81 78),
    tok := ⟨i6 (bits w 77 72), i6 (bits w 71 66), i6 (bits w 65 60), i6 (bits w 59 54)⟩,
    d := BitVec.ofNat 18 (bits w 53 36), a := BitVec.ofNat 18 (bits w 35 18), b := BitVec.ofNat 18 (bits w 17 0) }

/-- A vector word by its opcode (03 R97). -/
def decodeVFields (w : Nat) : Except DecodeError Instr :=
  match bits w 95 89 with
  | 0x01 => .ok (.vadd (vFields w))
  | 0x02 => .ok (.vsub (vFields w))
  | 0x03 => .ok (.vmul (vFields w))
  | 0x04 => .ok (.vfma (vFields w))
  | 0x05 => .ok (.vfms (vFields w))
  | 0x06 => .ok (.vmin (vFields w))
  | 0x07 => .ok (.vmax (vFields w))
  | 0x08 => .ok (.vabs (vFields w))
  | 0x09 => .ok (.vneg (vFields w))
  | 0x0A => .ok (.vrcp (vFields w))
  | 0x0B => .ok (.vrsq (vFields w))
  | 0x0C => .ok (.vexp2 (vFields w))
  | 0x0D => .ok (.vlog2 (vFields w))
  | 0x0E => .ok (.vtanh (vFields w))
  | 0x10 => .ok (.vmov (vFields w))
  | 0x11 => .ok (.vbcast (vFields w))
  | 0x12 => .ok (.vperm (vFields w))
  | 0x13 => .ok (.vsel (vFields w))
  | 0x14 => .ok (.vcmpEq (vFields w))
  | 0x15 => .ok (.vcmpNe (vFields w))
  | 0x16 => .ok (.vcmpLt (vFields w))
  | 0x17 => .ok (.vcmpGe (vFields w))
  | 0x18 => .ok (.vand (vFields w))
  | 0x19 => .ok (.vor (vFields w))
  | 0x1A => .ok (.vxor (vFields w))
  | 0x1B => .ok (.vshl (vFields w))
  | 0x1C => .ok (.vshr (vFields w))
  | 0x1D => .ok (.vsra (vFields w))
  | 0x20 => .ok (.vcvt (vFields w))
  | 0x21 => .ok (.vquant (vFields w))
  | 0x22 => .ok (.vdequant (vFields w))
  | 0x28 => .ok (.vsum (vFields w))
  | 0x29 => .ok (.vmaxr (vFields w))
  | 0x2A => .ok (.vscan (vFields w))
  | 0x30 => .ok (.vmaskw (vFields w))
  | 0x31 => .ok (.viota (vFields w))
  | 0x32 => .ok (.vext (vFields w))
  | 0x33 => .ok (.vins (vFields w))
  | 0x38 => .ok (.vgath (vFields w))
  | 0x39 => .ok (.vscat (vFields w))
  | 0x3C => .ok (.vsync (vFields w))
  | 0x3D => .ok (.vfcnt (vFields w))
  | _ => .error .reservedOpcode

/-- A vector word. -/
def decodeVector (w : Nat) : Except DecodeError Instr := wellFormedOr (decodeVFields w)

/-! ## The matrix word -/

/-- The fields of a matrix word (03 R98). -/
def mFields (w : Nat) : MWord :=
  { stall := BitVec.ofNat 3 (bits w 183 181),
    tok := ⟨i6 (bits w 180 175), i6 (bits w 174 169), i6 (bits w 168 163), i6 (bits w 162 157)⟩,
    guard := pr (bits w 156 153), afmt := pr (bits w 152 149), agen := BitVec.ofNat 3 (bits w 148 146),
    aoff := BitVec.ofNat 16 (bits w 145 130), rows := BitVec.ofNat 10 (bits w 129 120),
    start := BitVec.ofNat 10 (bits w 118 109), wgen := BitVec.ofNat 3 (bits w 108 106),
    woff := BitVec.ofNat 16 (bits w 105 90), wfmt := pr (bits w 89 86), kb := BitVec.ofNat 8 (bits w 85 78),
    adp := BitVec.ofNat 12 (bits w 77 66), rank := i6 (bits w 65 60), flags := BitVec.ofNat 8 (bits w 58 51),
    ogen := BitVec.ofNat 3 (bits w 50 48), ooff := BitVec.ofNat 16 (bits w 47 32), ofmt := pr (bits w 31 28),
    rnd := BitVec.ofNat 2 (bits w 27 26), epi := pr (bits w 25 22) }

/-- The reserved bits of a matrix word are zero (03 R98). -/
def mReservedZero (w : Nat) : Bool := bits w 119 119 == 0 && bits w 59 59 == 0 && bits w 21 0 == 0

/-- A matrix word by its opcode (03 R99). -/
def decodeMFields (w : Nat) : Except DecodeError Instr :=
  match bits w 191 184 with
  | 0x01 => whenZero (mReservedZero w) (.wld (mFields w))
  | 0x02 => whenZero (mReservedZero w) (.astep (mFields w))
  | 0x03 => whenZero (mReservedZero w) (.astepa (mFields w))
  | 0x04 => whenZero (mReservedZero w) (.aclr (mFields w))
  | 0x05 => whenZero (mReservedZero w) (.ard (mFields w))
  | 0x06 => whenZero (mReservedZero w) (.aadd (mFields w))
  | 0x07 => whenZero (mReservedZero w) (.ascl (mFields w))
  | 0x08 => whenZero (mReservedZero w) (.mcont (mFields w))
  | 0x09 => whenZero (mReservedZero w) (.mnop (mFields w))
  | _ => .error .reservedOpcode

/-- A matrix word. -/
def decodeMatrix (w : Nat) : Except DecodeError Instr := wellFormedOr (decodeMFields w)

/-! ## The command word -/

/-- The fields of a command word (03 R104). -/
def cFields (w : Nat) : CWord :=
  { d := pr (bits w 57 54), a := pr (bits w 53 50), b := pr (bits w 49 46), cond := BitVec.ofNat 3 (bits w 45 43),
    aux := BitVec.ofNat 8 (bits w 39 32), imm := BitVec.ofNat 32 (bits w 31 0) }

/-- Extension words after a command: one after a long LDI, n after an INVOKE (15 R377, R382, R402). -/
def extWords (w : Nat) : Nat :=
  match bits w 63 58 with
  | 0x02 => bits w 32 32
  | 0x14 => bits w 36 32
  | _ => 0

/-- A command by its opcode (03 R105). -/
def decodeCFields (w : Nat) (ext : List Word) : Except DecodeError Instr :=
  match bits w 63 58 with
  | 0x01 => whenZero (bits w 57 0 == 0) .cmdNop
  | 0x02 => whenZero (bits w 42 40 == 0) (.cmdLdi (cFields w) ext)
  | 0x03 => whenZero (bits w 42 40 == 0) (.cmdAdd (cFields w))
  | 0x04 => whenZero (bits w 42 40 == 0) (.cmdSub (cFields w))
  | 0x05 => whenZero (bits w 42 40 == 0) (.cmdAnd (cFields w))
  | 0x06 => whenZero (bits w 42 40 == 0) (.cmdOr (cFields w))
  | 0x07 => whenZero (bits w 42 40 == 0) (.cmdShl (cFields w))
  | 0x08 => whenZero (bits w 42 40 == 0) (.cmdCmp (cFields w))
  | 0x09 => whenZero (bits w 42 40 == 0) (.cmdBr (cFields w))
  | 0x0A => whenZero (bits w 42 40 == 0) (.cmdBrc (cFields w))
  | 0x0B => whenZero (bits w 42 40 == 0) (.cmdCall (cFields w))
  | 0x0C => whenZero (bits w 57 0 == 0) .cmdRet
  | 0x0D => whenZero (bits w 42 40 == 0) (.cmdLoop (cFields w))
  | 0x0E => whenZero (bits w 57 0 == 0) .cmdEndl
  | 0x0F => whenZero (bits w 42 40 == 0) (.cmdLoad (cFields w))
  | 0x10 => whenZero (bits w 42 40 == 0) (.cmdStore (cFields w))
  | 0x11 => whenZero (bits w 42 40 == 0) (.cmdWait (cFields w))
  | 0x12 => whenZero (bits w 42 40 == 0)
    (if bits w 32 32 == 1 then .cmdSignalAdd (cFields w) else .cmdSignalSet (cFields w))
  | 0x13 => whenZero (bits w 57 0 == 0) .cmdFence
  | 0x14 => whenZero (bits w 42 40 == 0) (.invoke (cFields w) ext)
  | 0x15 => whenZero (bits w 42 40 == 0) (.cmdLaunch (cFields w))
  | 0x16 => whenZero (bits w 42 40 == 0) (.graph (cFields w))
  | 0x17 => whenZero (bits w 42 40 == 0) (.bind (cFields w))
  | 0x18 => whenZero (bits w 42 40 == 0) (.evict (cFields w))
  | 0x19 => whenZero (bits w 42 40 == 0) (.timeat (cFields w))
  | 0x1A => whenZero (bits w 42 40 == 0) (.gang (cFields w))
  | 0x1B => whenZero (bits w 42 40 == 0) (.report (cFields w))
  | 0x1C => whenZero (bits w 42 40 == 0) (.summary (cFields w))
  | 0x1D => whenZero (bits w 57 0 == 0) .cmdHalt
  | _ => .error .reservedOpcode

/-- A command with its extension words. -/
def decodeCommand (w : Nat) (ext : List Word) : Except DecodeError Instr := wellFormedOr (decodeCFields w ext)

/-! ## The message entry -/

/-- `n` bytes from offset `off`. -/
def slice (l : List Byte) (off n : Nat) : List Byte := (l.drop off).take n

/-- The little-endian field of `n` bytes at `off`. -/
def fieldAt (l : List Byte) (off n : Nat) : Nat := ofBytes (slice l off n)

/-- Byte `i` lies in one of the ranges (offset, size). -/
def covered (rs : List (Nat × Nat)) (i : Nat) : Bool := rs.any fun r => decide (r.1 ≤ i) && decide (i < r.1 + r.2)

/-- Every byte that the row does not name is zero (20 R474). Bytes 0–7 are named by every row. -/
def reservedZero (rs : List (Nat × Nat)) (e : List Byte) : Bool :=
  (List.range 64).all fun i => decide (i < 8) || covered rs i || fieldAt e i 1 == 0

/-- The pairs of bytes of POD_ROUTE. -/
def pairsOf : List Byte → List (Nat × Nat)
  | a :: b :: t => (a.toNat, b.toNat) :: pairsOf t
  | _ => []

/-- The entries of CELLAR_POOL, 16 bytes each (20 R474). -/
def cellarOf (x : List Byte) : List (Nat × Nat) :=
  (List.range (x.length / 16)).map fun k => (fieldAt x (16 * k) 1, fieldAt x (16 * k + 8) 8)

/-- Whole entries, whose reserved bytes are zero. -/
def cellarBytesOk (x : List Byte) : Bool :=
  x.length % 16 == 0 && (List.range (x.length / 16)).all fun k => fieldAt x (16 * k + 1) 7 == 0

/-- The attributes of QUEUE_CREATE and QUEUE_CONFIG (20 R474). -/
def queueAttrOf (e : List Byte) : QueueAttr :=
  ⟨fieldAt e 9 1, fieldAt e 10 1, fieldAt e 16 8, fieldAt e 24 4, fieldAt e 28 2, fieldAt e 32 8, fieldAt e 40 8⟩

/-- A message row: its named bytes, whether its payload is external, a further condition, and its instruction. -/
structure MsgRow where
  named : List (Nat × Nat)
  isExt : Bool
  ok : Bool
  instr : Instr

/-- The row of a type, read from the entry's bytes `e` and the external payload `x` (20 R474). -/
def msgRow (e x : List Byte) (ty : Nat) : Option MsgRow :=
  let f := fieldAt e
  match ty with
  | 0x0001 => some ⟨[(8, 1), (9, 1), (10, 1), (12, 4)], false, f 9 1 / 2 == 0, .ctxCreate (f 8 1) (f 9 1 % 2 == 1) (f 10 1) (f 12 4)⟩
  | 0x0002 => some ⟨[(8, 1)], false, true, .ctxDestroy (f 8 1)⟩
  | 0x0003 => some ⟨[(8, 1), (9, 1)], false, true, .fnAssign (f 8 1) (f 9 1)⟩
  | 0x0010 => some ⟨[(8, 1), (12, 4), (16, 40)], false, true, .objWrite (f 8 1) (f 12 4) (slice e 16 40)⟩
  | 0x0011 => some ⟨[(8, 1), (12, 4), (16, 8)], false, true, .extentInvalidate (f 8 1) (f 12 4) (f 16 8)⟩
  | 0x0012 => some ⟨[(8, 1), (12, 4), (16, 8)], false, true, .extentMap (f 8 1) (f 12 4) (f 16 8)⟩
  | 0x0013 => some ⟨[(8, 1), (12, 4), (16, 8)], false, true, .extentFatal (f 8 1) (f 12 4) (f 16 8)⟩
  | 0x0100 => some ⟨[(8, 1), (9, 1), (10, 1), (16, 8), (24, 4), (28, 2), (32, 8), (40, 8)], false, true, .queueCreate (f 8 1) (queueAttrOf e)⟩
  | 0x0101 => some ⟨[(8, 1), (9, 1), (10, 1), (16, 8), (24, 4), (28, 2), (32, 8), (40, 8)], false, true, .queueConfig (f 8 1) (queueAttrOf e)⟩
  | 0x0102 => some ⟨[(8, 1), (12, 4)], false, true, .queueDoorbell (f 8 1) (f 12 4)⟩
  | 0x0103 => some ⟨[(8, 1), (16, 8)], false, true, .queueRestart (f 8 1) (BitVec.ofNat 64 (f 16 8))⟩
  | 0x0104 => some ⟨[(8, 1)], false, true, .queueDestroy (f 8 1)⟩
  | 0x0105 => some ⟨[(8, 1), (56, 8)], false, true, .queueRead (f 8 1)⟩
  | 0x0200 => some ⟨[(8, 1), (16, 8), (24, 8)], false, true, .codeLoad (f 8 1) (f 16 8) (f 24 8)⟩
  | 0x0201 => some ⟨[(8, 4)], false, true, .codeUnload (f 8 4)⟩
  | 0x0300 => some ⟨[(8, 2), (10, 1), (11, 1), (12, 2), (14, 1), (16, 2), (18, 2), (20, 2), (22, 2)], false, true, .adpInstall (f 8 2) ⟨f 10 1, f 11 1, f 12 2, f 14 1, f 16 2, f 18 2, f 20 2, f 22 2⟩⟩
  | 0x0301 => some ⟨[(8, 2)], false, true, .adpRelease (f 8 2)⟩
  | 0x0302 => some ⟨[(8, 2)], false, true, .adpForceEvict (f 8 2)⟩
  | 0x0303 => some ⟨[(8, 2), (56, 8)], false, true, .adpRead (f 8 2)⟩
  | 0x0310 => some ⟨[(8, 1), (9, 1), (10, 2), (12, 4), (16, 8), (24, 8), (32, 8), (40, 2), (42, 2)], false, true, .modelLoad (f 8 1) (f 9 1) ⟨f 10 2, f 12 4, f 16 8, f 24 8, f 32 8, f 40 2, f 42 2⟩⟩
  | 0x0311 => some ⟨[(8, 1)], false, true, .modelSwitch (f 8 1)⟩
  | 0x0312 => some ⟨[(8, 1), (9, 1)], false, true, .modelRetire (f 8 1) (f 9 1)⟩
  | 0x0313 => some ⟨[(8, 1), (56, 8)], false, true, .modelRead (f 8 1)⟩
  | 0x0320 => some ⟨[(8, 2), (16, 16), (32, 32)], false, true, .wobjWrite (f 8 2) (slice e 16 16) (slice e 32 32)⟩
  | 0x0400 => some ⟨[(8, 1)], false, true, .readyClear (f 8 1)⟩
  | 0x0401 => some ⟨[(8, 1)], false, true, .warmReset (f 8 1)⟩
  | 0x0402 => some ⟨[(8, 1), (9, 1)], false, true, .moduleRetrain (f 8 1) (f 9 1)⟩
  | 0x0410 => some ⟨[(8, 1), (9, 1)], false, true, .recal (f 8 1) (f 9 1)⟩
  | 0x0411 => some ⟨[(8, 1), (9, 1)], false, true, .retrain (f 8 1) (f 9 1)⟩
  | 0x0420 => some ⟨[(8, 1), (9, 1), (12, 4), (16, 8), (24, 8)], false, true, .fwWrite (f 8 1) (f 9 1) (f 12 4) (f 16 8) (f 24 8)⟩
  | 0x0421 => some ⟨[(8, 1), (9, 1)], false, true, .fwSwitch (f 8 1) (f 9 1)⟩
  | 0x0430 => some ⟨[(8, 1), (12, 2), (14, 2), (56, 8)], false, true, .wtRead (f 8 1) (f 12 2) (f 14 2)⟩
  | 0x0500 => some ⟨[], false, true, .timeQuery⟩
  | 0x0501 => some ⟨[(56, 8)], false, true, .summaryMsg⟩
  | 0x0502 => some ⟨[(8, 1), (9, 1), (10, 1)], false, f 10 1 / 2 == 0, .podForm (f 8 1) (f 9 1) (f 10 1 == 1)⟩
  | 0x0503 => some ⟨[(56, 8)], false, true, .readyQuery⟩
  | 0x0504 => some ⟨[(8, 1), (9, 1), (16, 2 * f 9 1)], false, decide (f 9 1 ≤ 20), .podRoute (f 8 1) (pairsOf (slice e 16 (2 * f 9 1)))⟩
  | 0x0700 => some ⟨[(8, 12)], true, cellarBytesOk x, .cellarPool (cellarOf x)⟩
  | 0x0701 => some ⟨[(8, 1)], false, true, .preemptCoop (f 8 1)⟩
  | 0x0702 => some ⟨[(8, 1), (10, 2)], false, true, .preemptForce (f 8 1) (f 10 2)⟩
  | 0x0703 => some ⟨[(8, 1)], false, true, .resume (f 8 1)⟩
  | 0x0704 => some ⟨[(8, 1), (16, 8)], false, true, .cellarWithdraw (f 8 1) (f 16 8)⟩
  | _ => none

/-- The types whose result goes to a buffer named at bytes 56–63 (20 R474). -/
def bufTypes : List Nat := [0x0105, 0x0303, 0x0313, 0x0430, 0x0501, 0x0503, 0x0600, 0x0640]

/-- The types marked S: their payload stands inside the secured message (20 R474, R477). -/
def securedTypes : List Nat := [0x0610, 0x0611, 0x0612, 0x0620, 0x0630, 0x0640]

/-- A plain message entry: its 64 bytes `e`, its external payload `x` (20 R471–R474).
The EXT flag must agree with the row, FLG[7:2] and byte 3 are zero, and an external payload is at most 64 KiB. -/
def decodeMessage (e x : List Byte) : Except DecodeError Instr :=
  let ty := fieldAt e 0 2
  let ext := fieldAt e 2 1 / 2 % 2 == 1
  if securedTypes.contains ty then .error .securedOnly
  else if ty == 0x0600 then .error .spdmCarrier else
  match msgRow e x ty with
  | none => .error .unknownType
  | some r =>
    if r.isExt != ext || fieldAt e 2 1 / 4 != 0 || fieldAt e 3 1 != 0 || !reservedZero r.named e || !r.ok
        || (ext && decide (65536 < fieldAt e 16 4))
        || (bufTypes.contains ty && fieldAt e 56 8 % 64 != 0) then
      .error .nonzeroField
    else wellFormedOr (.ok r.instr)

/-! ## Encoders -/

/-- An R-form word, E and S zero (03 R82). -/
def encR (op f rd a b g : Nat) : Nat := op * 2 ^ 22 + rd * 2 ^ 17 + a * 2 ^ 12 + b * 2 ^ 7 + f * 2 ^ 4 + g

/-- An I-form word. -/
def encI (op rd a imm : Nat) : Nat := op * 2 ^ 22 + rd * 2 ^ 17 + a * 2 ^ 12 + imm

/-- A B-form word. -/
def encB (link g disp : Nat) : Nat := 0x1C * 2 ^ 22 + g * 2 ^ 18 + link * 2 ^ 17 + disp

/-- The words of an instruction. E and S of scalar words are the bundle's and stand as zero. -/
inductive Encoded where
  | scalar (w : Nat)
  | pair (w0 w1 : Nat)
  | vector (w : Nat)
  | matrix (w : Nat)
  | command (w : Nat) (ext : List Word)
  | message (e x : List Byte)
  | nothing
deriving DecidableEq, Repr

/-- A T-form pair (03 R82). -/
def encT (op : Nat) (w : TWord) : Encoded :=
  .pair (op * 2 ^ 22 + w.tok.prod.toNat * 2 ^ 16 + w.tok.c1.toNat * 2 ^ 10 + w.a.toNat * 2 ^ 5 + w.b.toNat)
    (w.tok.c2.toNat * 2 ^ 22 + w.tok.c3.toNat * 2 ^ 16 + w.par.toNat)

/-- A vector word (03 R94). -/
def encV (op : Nat) (w : VWord) : Encoded :=
  .vector (op * 2 ^ 89 + w.stall.toNat * 2 ^ 86 + w.fmt.toNat * 2 ^ 82 + w.mask.toNat * 2 ^ 78 + w.tok.prod.toNat * 2 ^ 72
    + w.tok.c1.toNat * 2 ^ 66 + w.tok.c2.toNat * 2 ^ 60 + w.tok.c3.toNat * 2 ^ 54 + w.d.toNat * 2 ^ 36
    + w.a.toNat * 2 ^ 18 + w.b.toNat)

/-- A matrix word (03 R98). -/
def encM (op : Nat) (w : MWord) : Encoded :=
  .matrix (op * 2 ^ 184 + w.stall.toNat * 2 ^ 181 + w.tok.prod.toNat * 2 ^ 175 + w.tok.c1.toNat * 2 ^ 169
    + w.tok.c2.toNat * 2 ^ 163 + w.tok.c3.toNat * 2 ^ 157 + w.guard.toNat * 2 ^ 153 + w.afmt.toNat * 2 ^ 149
    + w.agen.toNat * 2 ^ 146 + w.aoff.toNat * 2 ^ 130 + w.rows.toNat * 2 ^ 120 + w.start.toNat * 2 ^ 109
    + w.wgen.toNat * 2 ^ 106 + w.woff.toNat * 2 ^ 90 + w.wfmt.toNat * 2 ^ 86 + w.kb.toNat * 2 ^ 78
    + w.adp.toNat * 2 ^ 66 + w.rank.toNat * 2 ^ 60 + w.flags.toNat * 2 ^ 51 + w.ogen.toNat * 2 ^ 48
    + w.ooff.toNat * 2 ^ 32 + w.ofmt.toNat * 2 ^ 28 + w.rnd.toNat * 2 ^ 26 + w.epi.toNat * 2 ^ 22)

/-- A command word with its extension words (03 R104). -/
def encC (op : Nat) (w : CWord) (ext : List Word) : Encoded :=
  .command (op * 2 ^ 58 + w.d.toNat * 2 ^ 54 + w.a.toNat * 2 ^ 50 + w.b.toNat * 2 ^ 46 + w.cond.toNat * 2 ^ 43
    + w.aux.toNat * 2 ^ 32 + w.imm.toNat) ext

/-- Replaces the bytes from `off` on. -/
def overlay (l : List Byte) (off : Nat) (b : List Byte) : List Byte := l.take off ++ b ++ l.drop (off + b.length)

/-- A message entry: its type, its fields (offset, bytes) over zeros, and its external payload (20 R471, R474). TAG, SEC
and a result buffer are the header's and stand as zero. -/
def encMsg (ty : Nat) (fs : List (Nat × List Byte)) (x : List Byte) (ext : Bool) : Encoded :=
  let base := bytesOf 2 ty ++ [if ext then 2 else 0, 0] ++ List.replicate 60 0
  .message (fs.foldl (fun e p => overlay e p.1 p.2) base) x

/-- One-byte, two-byte, four-byte and eight-byte fields. -/
def f1 (off x : Nat) : Nat × List Byte := (off, bytesOf 1 x)
def f2 (off x : Nat) : Nat × List Byte := (off, bytesOf 2 x)
def f4 (off x : Nat) : Nat × List Byte := (off, bytesOf 4 x)
def f8 (off x : Nat) : Nat × List Byte := (off, bytesOf 8 x)

/-- The fields of queue attributes. -/
def encAttr (q : Nat) (a : QueueAttr) : List (Nat × List Byte) :=
  [f1 8 q, f1 9 a.ctx, f1 10 a.prio, f8 16 a.rbase, f4 24 a.rsize, f2 28 a.nh, f8 32 a.hlist, f8 40 a.ibase]

/-- One or zero. -/
def b01 (b : Bool) : Nat := if b then 1 else 0

/-- The encoding of an instruction (03, 15 R382, 20 R474). Internal events and the requests carried inside an SPDM
message have none. -/
def encode (i : Instr) : Encoded :=
  match i with
  | .add rd a b g => .scalar (encR 0x01 0 rd.toNat a.toNat b.toNat g.toNat)
  | .sub rd a b g => .scalar (encR 0x01 1 rd.toNat a.toNat b.toNat g.toNat)
  | .and rd a b g => .scalar (encR 0x01 2 rd.toNat a.toNat b.toNat g.toNat)
  | .or rd a b g => .scalar (encR 0x01 3 rd.toNat a.toNat b.toNat g.toNat)
  | .xor rd a b g => .scalar (encR 0x01 4 rd.toNat a.toNat b.toNat g.toNat)
  | .shl rd a b g => .scalar (encR 0x01 5 rd.toNat a.toNat b.toNat g.toNat)
  | .shr rd a b g => .scalar (encR 0x01 6 rd.toNat a.toNat b.toNat g.toNat)
  | .sra rd a b g => .scalar (encR 0x01 7 rd.toNat a.toNat b.toNat g.toNat)
  | .addi rd a imm => .scalar (encI 0x0C rd.toNat a.toNat imm.toNat)
  | .andi rd a imm => .scalar (encI 0x0D rd.toNat a.toNat imm.toNat)
  | .ori rd a imm => .scalar (encI 0x0E rd.toNat a.toNat imm.toNat)
  | .xori rd a imm => .scalar (encI 0x0F rd.toNat a.toNat imm.toNat)
  | .shli rd a n => .scalar (encI 0x10 rd.toNat a.toNat n.toNat)
  | .shri rd a n => .scalar (encI 0x11 rd.toNat a.toNat n.toNat)
  | .srai rd a n => .scalar (encI 0x12 rd.toNat a.toNat n.toNat)
  | .limm k => .scalar (0x1B * 2 ^ 22 + k.toNat)
  | .mul rd a b g => .scalar (encR 0x02 0 rd.toNat a.toNat b.toNat g.toNat)
  | .mulh rd a b g => .scalar (encR 0x02 1 rd.toNat a.toNat b.toNat g.toNat)
  | .mulhu rd a b g => .scalar (encR 0x02 2 rd.toNat a.toNat b.toNat g.toNat)
  | .min rd a b g => .scalar (encR 0x02 3 rd.toNat a.toNat b.toNat g.toNat)
  | .max rd a b g => .scalar (encR 0x02 4 rd.toNat a.toNat b.toNat g.toNat)
  | .minu rd a b g => .scalar (encR 0x02 5 rd.toNat a.toNat b.toNat g.toNat)
  | .maxu rd a b g => .scalar (encR 0x02 6 rd.toNat a.toNat b.toNat g.toNat)
  | .sel rd a b g => .scalar (encR 0x02 7 rd.toNat a.toNat b.toNat g.toNat)
  | .div rd a b g => .scalar (encR 0x03 0 rd.toNat a.toNat b.toNat g.toNat)
  | .divu rd a b g => .scalar (encR 0x03 1 rd.toNat a.toNat b.toNat g.toNat)
  | .rem rd a b g => .scalar (encR 0x03 2 rd.toNat a.toNat b.toNat g.toNat)
  | .remu rd a b g => .scalar (encR 0x03 3 rd.toNat a.toNat b.toNat g.toNat)
  | .clz rd a g => .scalar (encR 3 4 rd.toNat a.toNat 0 g.toNat)
  | .popc rd a g => .scalar (encR 3 5 rd.toNat a.toNat 0 g.toNat)
  | .ext rd a p n => .scalar (encI 0x14 rd.toNat a.toNat (p.toNat * 64 + n.toNat))
  | .ins rd a p n => .scalar (encI 0x15 rd.toNat a.toNat (p.toNat * 64 + n.toNat))
  | .cmpEq pd a b g => .scalar (encR 4 0 pd.toNat a.toNat b.toNat g.toNat)
  | .cmpNe pd a b g => .scalar (encR 4 1 pd.toNat a.toNat b.toNat g.toNat)
  | .cmpLt pd a b g => .scalar (encR 4 2 pd.toNat a.toNat b.toNat g.toNat)
  | .cmpLtu pd a b g => .scalar (encR 4 3 pd.toNat a.toNat b.toNat g.toNat)
  | .cmpGe pd a b g => .scalar (encR 4 4 pd.toNat a.toNat b.toNat g.toNat)
  | .cmpGeu pd a b g => .scalar (encR 4 5 pd.toNat a.toNat b.toNat g.toNat)
  | .cmpi pd a c imm => .scalar (encI 0x13 pd.toNat a.toNat (c.toNat * 512 + imm.toNat))
  | .pand pd pa pb g => .scalar (encR 5 0 pd.toNat pa.toNat pb.toNat g.toNat)
  | .por pd pa pb g => .scalar (encR 5 1 pd.toNat pa.toNat pb.toNat g.toNat)
  | .pxor pd pa pb g => .scalar (encR 5 2 pd.toNat pa.toNat pb.toNat g.toNat)
  | .pnot pd pa g => .scalar (encR 5 3 pd.toNat pa.toNat 0 g.toNat)
  | .pmov pd pa g => .scalar (encR 5 4 pd.toNat pa.toNat 0 g.toNat)
  | .br g disp => .scalar (encB 0 g.toNat disp.toNat)
  | .call g disp => .scalar (encB 1 g.toNat disp.toNat)
  | .jr rd a g => .scalar (encR 6 0 rd.toNat a.toNat 0 g.toNat)
  | .loop rd imm => .scalar (encI 0x1A rd.toNat 0 imm.toNat)
  | .brk code g => .scalar (encR 10 4 0 (code.toNat / 32) (code.toNat % 32) g.toNat)
  | .gaddr rd a b g => .scalar (encR 0x07 0 rd.toNat a.toNat b.toNat g.toNat)
  | .sptest pd a b g => .scalar (encR 7 1 pd.toNat a.toNat b.toNat g.toNat)
  | .spcast rd a b g => .scalar (encR 0x07 2 rd.toNat a.toNat b.toNat g.toNat)
  | .objsz rd a g => .scalar (encR 7 3 rd.toNat a.toNat 0 g.toNat)
  | .objver rd a g => .scalar (encR 7 4 rd.toNat a.toNat 0 g.toNat)
  | .csrr rd csr => .scalar (encI 0x16 rd.toNat 0 csr.toNat)
  | .csrw a csr => .scalar (encI 0x17 0 a.toNat csr.toNat)
  | .vexec w => encT 0x31 w
  | .mexec w => encT 0x32 w
  | .xexec w => encT 0x33 w
  | .mnest w => encT 0x34 w
  | .twait tk => .scalar (encI 0x18 0 0 tk.toNat)
  | .tclr tk => .scalar (encI 0x19 0 0 tk.toNat)
  | .vlend bank role g => .scalar (encR 9 0 0 bank.toNat role.toNat g.toNat)
  | .vrecl bank g => .scalar (encR 9 1 0 bank.toNat 0 g.toNat)
  | .phase a g => .scalar (encR 9 2 0 a.toNat 0 g.toNat)
  | .waitdep g => .scalar (encR 8 0 0 0 0 g.toNat)
  | .trig g => .scalar (encR 8 1 0 0 0 g.toNat)
  | .launch a g => .scalar (encR 8 2 0 a.toNat 0 g.toNat)
  | .exit g => .scalar (encR 8 3 0 0 0 g.toNat)
  | .yield g => .scalar (encR 8 4 0 0 0 g.toNat)
  | .ldB rd a imm => .scalar (encI 0x20 rd.toNat a.toNat imm.toNat)
  | .ldBu rd a imm => .scalar (encI 0x21 rd.toNat a.toNat imm.toNat)
  | .ldH rd a imm => .scalar (encI 0x22 rd.toNat a.toNat imm.toNat)
  | .ldHu rd a imm => .scalar (encI 0x23 rd.toNat a.toNat imm.toNat)
  | .ldW rd a imm => .scalar (encI 0x24 rd.toNat a.toNat imm.toNat)
  | .ldWu rd a imm => .scalar (encI 0x25 rd.toNat a.toNat imm.toNat)
  | .ldD rd a imm => .scalar (encI 0x26 rd.toNat a.toNat imm.toNat)
  | .stB rd a imm => .scalar (encI 0x28 rd.toNat a.toNat imm.toNat)
  | .stH rd a imm => .scalar (encI 0x29 rd.toNat a.toNat imm.toNat)
  | .stW rd a imm => .scalar (encI 0x2A rd.toNat a.toNat imm.toNat)
  | .stD rd a imm => .scalar (encI 0x2B rd.toNat a.toNat imm.toNat)
  | .amoSwapW rd a b g => .scalar (encR 0x2C 0 rd.toNat a.toNat b.toNat g.toNat)
  | .amoAddW rd a b g => .scalar (encR 0x2C 1 rd.toNat a.toNat b.toNat g.toNat)
  | .amoAndW rd a b g => .scalar (encR 0x2C 2 rd.toNat a.toNat b.toNat g.toNat)
  | .amoOrW rd a b g => .scalar (encR 0x2C 3 rd.toNat a.toNat b.toNat g.toNat)
  | .amoXorW rd a b g => .scalar (encR 0x2C 4 rd.toNat a.toNat b.toNat g.toNat)
  | .amoMinW rd a b g => .scalar (encR 0x2C 5 rd.toNat a.toNat b.toNat g.toNat)
  | .amoMaxW rd a b g => .scalar (encR 0x2C 6 rd.toNat a.toNat b.toNat g.toNat)
  | .amoSwapD rd a b g => .scalar (encR 0x2D 0 rd.toNat a.toNat b.toNat g.toNat)
  | .amoAddD rd a b g => .scalar (encR 0x2D 1 rd.toNat a.toNat b.toNat g.toNat)
  | .amoAndD rd a b g => .scalar (encR 0x2D 2 rd.toNat a.toNat b.toNat g.toNat)
  | .amoOrD rd a b g => .scalar (encR 0x2D 3 rd.toNat a.toNat b.toNat g.toNat)
  | .amoXorD rd a b g => .scalar (encR 0x2D 4 rd.toNat a.toNat b.toNat g.toNat)
  | .amoMinD rd a b g => .scalar (encR 0x2D 5 rd.toNat a.toNat b.toNat g.toNat)
  | .amoMaxD rd a b g => .scalar (encR 0x2D 6 rd.toNat a.toNat b.toNat g.toNat)
  | .amoMinuW rd a b g => .scalar (encR 0x2E 0 rd.toNat a.toNat b.toNat g.toNat)
  | .amoMaxuW rd a b g => .scalar (encR 0x2E 1 rd.toNat a.toNat b.toNat g.toNat)
  | .amoMinuD rd a b g => .scalar (encR 0x2E 2 rd.toNat a.toNat b.toNat g.toNat)
  | .amoMaxuD rd a b g => .scalar (encR 0x2E 3 rd.toNat a.toNat b.toNat g.toNat)
  | .casW rd a b g => .scalar (encR 0x2E 4 rd.toNat a.toNat b.toNat g.toNat)
  | .casD rd a b g => .scalar (encR 0x2E 5 rd.toNat a.toNat b.toNat g.toNat)
  | .ldacqW rd a g => .scalar (encR 0x2F 0 rd.toNat a.toNat 0 g.toNat)
  | .ldacqD rd a g => .scalar (encR 0x2F 1 rd.toNat a.toNat 0 g.toNat)
  | .strelW a b g => .scalar (encR 0x2F 2 0 a.toNat b.toNat g.toNat)
  | .strelD a b g => .scalar (encR 0x2F 3 0 a.toNat b.toNat g.toNat)
  | .fence sc => .scalar (encR 0x2F 4 0 0 0 sc.toNat)
  | .fenceRel sc => .scalar (encR 0x2F 4 0 0 1 sc.toNat)
  | .fenceAcq sc => .scalar (encR 0x2F 4 0 0 2 sc.toNat)
  | .bar a sc => .scalar (encR 0x2F 6 0 a.toNat 0 sc.toNat)
  | .txarr a b g => .scalar (encR 0x30 0 0 a.toNat b.toNat g.toNat)
  | .txwait rd a g => .scalar (encR 0x30 1 rd.toNat a.toNat 0 g.toNat)
  | .copy w => encT 0x36 w
  | .copyt w => encT 0x37 w
  | .copyr w => encT 0x38 w
  | .gath w => encT 0x39 w
  | .scat w => encT 0x3A w
  | .redc w => encT 0x3B w
  | .ratom w => encT 0x3C w
  | .bpref w => encT 0x3D w
  | .wprog w => encT 0x3E w
  | .trap code g => .scalar (encR 10 0 0 (code.toNat / 32) (code.toNat % 32) g.toNat)
  | .eret g => .scalar (encR 10 1 0 0 0 g.toNat)
  | .halt g => .scalar (encR 10 2 0 0 0 g.toNat)
  | .vfcfgEnable g => .scalar (encR 10 3 0 0 0 g.toNat)
  | .vfcfgDisable g => .scalar (encR 10 3 0 1 0 g.toNat)
  | .vfcfgGate g => .scalar (encR 10 3 0 2 0 g.toNat)
  | .vfcfgReopen g => .scalar (encR 10 3 0 3 0 g.toNat)
  | .vadd w => encV 0x01 w
  | .vsub w => encV 0x02 w
  | .vmul w => encV 0x03 w
  | .vfma w => encV 0x04 w
  | .vfms w => encV 0x05 w
  | .vmin w => encV 0x06 w
  | .vmax w => encV 0x07 w
  | .vabs w => encV 0x08 w
  | .vneg w => encV 0x09 w
  | .vrcp w => encV 0x0A w
  | .vrsq w => encV 0x0B w
  | .vexp2 w => encV 0x0C w
  | .vlog2 w => encV 0x0D w
  | .vtanh w => encV 0x0E w
  | .vmov w => encV 0x10 w
  | .vbcast w => encV 0x11 w
  | .vperm w => encV 0x12 w
  | .vsel w => encV 0x13 w
  | .vcmpEq w => encV 0x14 w
  | .vcmpNe w => encV 0x15 w
  | .vcmpLt w => encV 0x16 w
  | .vcmpGe w => encV 0x17 w
  | .vand w => encV 0x18 w
  | .vor w => encV 0x19 w
  | .vxor w => encV 0x1A w
  | .vshl w => encV 0x1B w
  | .vshr w => encV 0x1C w
  | .vsra w => encV 0x1D w
  | .vcvt w => encV 0x20 w
  | .vquant w => encV 0x21 w
  | .vdequant w => encV 0x22 w
  | .vsum w => encV 0x28 w
  | .vmaxr w => encV 0x29 w
  | .vscan w => encV 0x2A w
  | .vmaskw w => encV 0x30 w
  | .viota w => encV 0x31 w
  | .vext w => encV 0x32 w
  | .vins w => encV 0x33 w
  | .vgath w => encV 0x38 w
  | .vscat w => encV 0x39 w
  | .vsync w => encV 0x3C w
  | .vfcnt w => encV 0x3D w
  | .wld w => encM 0x01 w
  | .astep w => encM 0x02 w
  | .astepa w => encM 0x03 w
  | .aclr w => encM 0x04 w
  | .aadd w => encM 0x06 w
  | .ascl w => encM 0x07 w
  | .ard w => encM 0x05 w
  | .mnop w => encM 0x09 w
  | .mcont w => encM 0x08 w
  | .cmdLdi w ext => encC 0x02 w ext
  | .cmdAdd w => encC 0x03 w []
  | .cmdSub w => encC 0x04 w []
  | .cmdAnd w => encC 0x05 w []
  | .cmdOr w => encC 0x06 w []
  | .cmdShl w => encC 0x07 w []
  | .cmdCmp w => encC 0x08 w []
  | .cmdBr w => encC 0x09 w []
  | .cmdBrc w => encC 0x0A w []
  | .cmdCall w => encC 0x0B w []
  | .cmdLoop w => encC 0x0D w []
  | .cmdLoad w => encC 0x0F w []
  | .cmdStore w => encC 0x10 w []
  | .cmdWait w => encC 0x11 w []
  | .cmdSignalSet w => encC 0x12 w []
  | .cmdSignalAdd w => encC 0x12 w []
  | .invoke w ext => encC 0x14 w ext
  | .cmdLaunch w => encC 0x15 w []
  | .graph w => encC 0x16 w []
  | .bind w => encC 0x17 w []
  | .evict w => encC 0x18 w []
  | .timeat w => encC 0x19 w []
  | .gang w => encC 0x1A w []
  | .report w => encC 0x1B w []
  | .summary w => encC 0x1C w []
  | .ctxCreate ctx p fn n => encMsg 0x0001 [f1 8 ctx, f1 9 (b01 p), f1 10 fn, f4 12 n] [] false
  | .ctxDestroy ctx => encMsg 0x0002 [f1 8 ctx] [] false
  | .fnAssign ctx fn => encMsg 0x0003 [f1 8 ctx, f1 9 fn] [] false
  | .objWrite ctx idx ent => encMsg 0x0010 [f1 8 ctx, f4 12 idx, (16, ent)] [] false
  | .extentInvalidate ctx idx n => encMsg 0x0011 [f1 8 ctx, f4 12 idx, f8 16 n] [] false
  | .extentMap ctx idx n => encMsg 0x0012 [f1 8 ctx, f4 12 idx, f8 16 n] [] false
  | .extentFatal ctx idx n => encMsg 0x0013 [f1 8 ctx, f4 12 idx, f8 16 n] [] false
  | .queueCreate q a => encMsg 0x0100 (encAttr q a) [] false
  | .queueConfig q a => encMsg 0x0101 (encAttr q a) [] false
  | .queueDoorbell q n => encMsg 0x0102 [f1 8 q, f4 12 n] [] false
  | .queueRestart q loc => encMsg 0x0103 [f1 8 q, f8 16 loc.toNat] [] false
  | .queueDestroy q => encMsg 0x0104 [f1 8 q] [] false
  | .queueRead q => encMsg 0x0105 [f1 8 q] [] false
  | .codeLoad ctx addr n => encMsg 0x0200 [f1 8 ctx, f8 16 addr, f8 24 n] [] false
  | .codeUnload d => encMsg 0x0201 [f4 8 d] [] false
  | .adpInstall s a => encMsg 0x0300 [f2 8 s, f1 10 a.kind, f1 11 a.rankm1, f2 12 a.bver, f1 14 a.eidx, f2 16 a.parent, f2 18 a.aidx,
      f2 20 a.bidx, f2 22 a.ridx] [] false
  | .adpRelease s => encMsg 0x0301 [f2 8 s] [] false
  | .adpForceEvict s => encMsg 0x0302 [f2 8 s] [] false
  | .adpRead s => encMsg 0x0303 [f2 8 s] [] false
  | .modelLoad m n a => encMsg 0x0310 [f1 8 m, f1 9 n, f2 10 a.vid, f4 12 a.svn, f8 16 a.addr, f8 24 a.len, f8 32 a.entry, f2 40 a.wobj,
      f2 42 a.nwobj] [] false
  | .modelSwitch m => encMsg 0x0311 [f1 8 m] [] false
  | .modelRetire m n => encMsg 0x0312 [f1 8 m, f1 9 n] [] false
  | .modelRead m => encMsg 0x0313 [f1 8 m] [] false
  | .wobjWrite n lo hi => encMsg 0x0320 [f2 8 n, (16, lo), (32, hi)] [] false
  | .readyClear d => encMsg 0x0400 [f1 8 d] [] false
  | .warmReset d => encMsg 0x0401 [f1 8 d] [] false
  | .moduleRetrain d m => encMsg 0x0402 [f1 8 d, f1 9 m] [] false
  | .recal c b => encMsg 0x0410 [f1 8 c, f1 9 b] [] false
  | .retrain d c => encMsg 0x0411 [f1 8 d, f1 9 c] [] false
  | .fwWrite c d n addr len => encMsg 0x0420 [f1 8 c, f1 9 d, f4 12 n, f8 16 addr, f8 24 len] [] false
  | .fwSwitch c d => encMsg 0x0421 [f1 8 c, f1 9 d] [] false
  | .wtRead d a n => encMsg 0x0430 [f1 8 d, f2 12 a, f2 14 n] [] false
  | .podForm a b c => encMsg 0x0502 [f1 8 a, f1 9 b, f1 10 (b01 c)] [] false
  | .podRoute a ps => encMsg 0x0504 [f1 8 a, f1 9 ps.length, (16, ps.flatMap fun p => bytesOf 1 p.1 ++ bytesOf 1 p.2)] [] false
  | .cellarPool es => encMsg 0x0700 [] (es.flatMap fun p => bytesOf 8 p.1 ++ bytesOf 8 p.2) true
  | .preemptCoop c => encMsg 0x0701 [f1 8 c] [] false
  | .preemptForce c g => encMsg 0x0702 [f1 8 c, f2 10 g] [] false
  | .resume c => encMsg 0x0703 [f1 8 c] [] false
  | .cellarWithdraw d a => encMsg 0x0704 [f1 8 d, f8 16 a] [] false
  | .keySet s k => encMsg 0x0610 [f2 8 s, (16, bytesOf 32 k.toNat)] [] false
  | .keyAssign s c => encMsg 0x0611 [f2 8 s, f1 10 c] [] false
  | .keyErase s => encMsg 0x0612 [f2 8 s] [] false
  | .counterAdvance c v => encMsg 0x0620 [f1 8 c, f4 12 v] [] false
  | .debugUnlock x => encMsg 0x0630 [] x true
  | .attest c n => encMsg 0x0640 [f1 8 c, (16, n)] [] false
  | .lockInterface => .nothing
  | .startInterface => .nothing
  | .stopInterface => .nothing
  | .getDeviceInterfaceReport => .nothing
  | .endSession => .nothing
  | .spdm addr n => encMsg 0x0600 [f8 8 addr, f4 16 n] [] true
  | .xend => .scalar (encR 10 5 0 0 0 15)
  | .qmark => .scalar (encR 0x2F 5 0 0 0 0)
  | .cmdNop => .command (0x01 * 2 ^ 58) []
  | .cmdRet => .command (0x0C * 2 ^ 58) []
  | .cmdEndl => .command (0x0E * 2 ^ 58) []
  | .cmdFence => .command (0x13 * 2 ^ 58) []
  | .cmdHalt => .command (0x1D * 2 ^ 58) []
  | .timeQuery => encMsg 0x0500 [] [] false
  | .summaryMsg => encMsg 0x0501 [] [] false
  | .readyQuery => encMsg 0x0503 [] [] false
  | .waitReread _ => .nothing
  | .waitTimeout _ => .nothing
  | .timeatReached _ => .nothing
  | .gangStart _ => .nothing
  | .gangGuardExpiry _ => .nothing
  | .gangLateLimit _ => .nothing
  | .gangLateReceive _ _ => .nothing
  | .gangArrived _ => .nothing
  | .gangArrivedReceive _ _ => .nothing
  | .invokeBlockFree _ => .nothing
  | .launchAdmit => .nothing
  | .placement _ _ _ => .nothing
  | .bindRecordBind _ => .nothing
  | .earlyBind _ => .nothing
  | .stealRequest _ _ => .nothing
  | .launchComplete _ => .nothing
  | .matrixBindingEnd _ => .nothing
  | .accClearEnd _ => .nothing
  | .engineBlockBegin _ _ => .nothing
  | .tokenComplete _ _ _ => .nothing
  | .twaitRelease _ => .nothing
  | .waitdepRelease _ => .nothing
  | .trigSignal _ => .nothing
  | .exitRetire _ => .nothing
  | .txwaitRelease _ => .nothing
  | .phaseMoveEnd _ => .nothing
  | .stallResume _ => .nothing
  | .accessResponse _ => .nothing
  | .transferLanding _ _ => .nothing
  | .transferRetire _ => .nothing
  | .extentWalk _ _ _ _ => .nothing
  | .sideLogReplay _ => .nothing
  | .cacheWriteback _ _ => .nothing
  | .homeMessageApply _ => .nothing
  | .messageAck _ => .nothing
  | .linkResend _ => .nothing
  | .permitReturn _ _ _ => .nothing
  | .governorWindow _ => .nothing
  | .fwshareWindow _ => .nothing
  | .engineStop _ _ => .nothing
  | .matrixHaltSkidEnd _ _ => .nothing
  | .trapDelivery _ => .nothing
  | .stairwellClosed _ => .nothing
  | .stairwellDrainTimeout _ => .nothing
  | .preemptArm _ => .nothing
  | .preemptFree _ => .nothing
  | .divertedRequest _ _ => .nothing
  | .diversionFold _ _ => .nothing
  | .resumeBind _ => .nothing
  | .coopPreemptComplete _ => .nothing
  | .firmwareContextRestart _ _ => .nothing
  | .wpRequestBegin _ => .nothing
  | .wpIterationEnd _ => .nothing
  | .wpFlip _ => .nothing
  | .wpTreeUpdateEnd _ => .nothing
  | .drainingRowFree _ _ => .nothing
  | .recalStart _ => .nothing
  | .recalEnd _ => .nothing
  | .adapterRefsZero _ => .nothing
  | .versionRefsZero _ _ => .nothing
  | .adapterStateAck _ _ => .nothing
  | .loadComplete _ => .nothing
  | .startupStepEnd _ _ _ => .nothing
  | .modelStartupMeasure _ _ => .nothing
  | .warmResetStepEnd _ => .nothing
  | .timeExchange _ _ _ => .nothing
  | .holdoverEnter _ => .nothing
  | .timeUnlock _ => .nothing
  | .timeLockAcquire _ => .nothing
  | .railTelemetry _ _ => .nothing
  | .junctionOvertemp _ _ => .nothing
  | .thermalTrip => .nothing
  | .coldReset => .nothing
  | .powerLoss => .nothing
  | .ucieModuleDown _ _ => .nothing
  | .flitCrcReplay _ _ => .nothing
  | .podLinkDown _ => .nothing
  | .dieLost _ => .nothing
  | .ioDieFailure _ => .nothing
  | .uncorrectableError _ => .nothing
  | .correctedError _ => .nothing
  | .functionLevelReset _ => .nothing
  | .interfaceError _ _ => .nothing
  | .mrhead _ _ => .nothing
  | .registerWrite _ _ => .nothing
  | .podLinkUp _ => .nothing
  | .ucieModuleRetrainEnd _ _ => .nothing
  | .lpddrRetrainEnd _ _ => .nothing
  | .lpddrChannelFailure _ _ => .nothing
  | .firmwareSwitchEnd _ _ => .nothing
  | .flrStepEnd _ => .nothing

/-- The header of an entry (20 R471): TAG, and the result buffer where the type has one. -/
def msgHeader (fn : Nat) (sec : Bool) (e : List Byte) : MsgHdr :=
  ⟨fn, BitVec.ofNat 32 (fieldAt e 4 4), sec, if bufTypes.contains (fieldAt e 0 2) then BitVec.ofNat 64 (fieldAt e 56 8) else 0⟩

/-- A scalar word with its bundle's E and S. -/
def withES (e : Bool) (st w : Nat) : Nat := b01 e * 2 ^ 31 + st * 2 ^ 28 + w

/-! ## The streams -/

/-- A word whose guard field is a guard reads 0xF in the transfer stream (03 R89). -/
def isAlways (g : BitVec 4) : Bool := g == 15

/-- The transfer stream accepts the instruction (03 R89–R91, 04 R119). -/
def inTransfer (i : Instr) : Bool :=
  match i with
  | .add _ _ _ g => isAlways g
  | .sub _ _ _ g => isAlways g
  | .and _ _ _ g => isAlways g
  | .or _ _ _ g => isAlways g
  | .xor _ _ _ g => isAlways g
  | .shl _ _ _ g => isAlways g
  | .shr _ _ _ g => isAlways g
  | .sra _ _ _ g => isAlways g
  | .addi _ _ _ => true
  | .andi _ _ _ => true
  | .ori _ _ _ => true
  | .xori _ _ _ => true
  | .shli _ _ _ => true
  | .shri _ _ _ => true
  | .srai _ _ _ => true
  | .limm _ => true
  | .mul _ _ _ g => isAlways g
  | .mulh _ _ _ g => isAlways g
  | .mulhu _ _ _ g => isAlways g
  | .min _ _ _ g => isAlways g
  | .max _ _ _ g => isAlways g
  | .minu _ _ _ g => isAlways g
  | .maxu _ _ _ g => isAlways g
  | .sel _ _ _ _ => false
  | .div _ _ _ g => isAlways g
  | .divu _ _ _ g => isAlways g
  | .rem _ _ _ g => isAlways g
  | .remu _ _ _ g => isAlways g
  | .clz _ _ g => isAlways g
  | .popc _ _ g => isAlways g
  | .ext _ _ _ _ => true
  | .ins _ _ _ _ => true
  | .cmpEq _ _ _ _ => false
  | .cmpNe _ _ _ _ => false
  | .cmpLt _ _ _ _ => false
  | .cmpLtu _ _ _ _ => false
  | .cmpGe _ _ _ _ => false
  | .cmpGeu _ _ _ _ => false
  | .cmpi _ _ _ _ => false
  | .pand _ _ _ _ => false
  | .por _ _ _ _ => false
  | .pxor _ _ _ _ => false
  | .pnot _ _ _ => false
  | .pmov _ _ _ => false
  | .br g _ => isAlways g
  | .call g _ => isAlways g
  | .jr _ _ g => isAlways g
  | .loop _ _ => true
  | .brk _ g => isAlways g
  | .gaddr _ _ _ g => isAlways g
  | .sptest _ _ _ _ => false
  | .spcast _ _ _ g => isAlways g
  | .objsz _ _ g => isAlways g
  | .objver _ _ g => isAlways g
  | .csrr _ _ => true
  | .csrw _ _ => false
  | .vexec _ => false
  | .mexec _ => false
  | .xexec _ => false
  | .mnest _ => false
  | .twait _ => true
  | .tclr _ => false
  | .vlend _ _ _ => false
  | .vrecl _ _ => false
  | .phase _ _ => false
  | .waitdep _ => false
  | .trig _ => false
  | .launch _ _ => false
  | .exit _ => false
  | .yield _ => false
  | .ldB _ _ _ => true
  | .ldBu _ _ _ => true
  | .ldH _ _ _ => true
  | .ldHu _ _ _ => true
  | .ldW _ _ _ => true
  | .ldWu _ _ _ => true
  | .ldD _ _ _ => true
  | .stB _ _ _ => true
  | .stH _ _ _ => true
  | .stW _ _ _ => true
  | .stD _ _ _ => true
  | .amoSwapW _ _ _ _ => true
  | .amoAddW _ _ _ _ => true
  | .amoAndW _ _ _ _ => true
  | .amoOrW _ _ _ _ => true
  | .amoXorW _ _ _ _ => true
  | .amoMinW _ _ _ _ => true
  | .amoMaxW _ _ _ _ => true
  | .amoSwapD _ _ _ _ => true
  | .amoAddD _ _ _ _ => true
  | .amoAndD _ _ _ _ => true
  | .amoOrD _ _ _ _ => true
  | .amoXorD _ _ _ _ => true
  | .amoMinD _ _ _ _ => true
  | .amoMaxD _ _ _ _ => true
  | .amoMinuW _ _ _ _ => true
  | .amoMaxuW _ _ _ _ => true
  | .amoMinuD _ _ _ _ => true
  | .amoMaxuD _ _ _ _ => true
  | .casW _ _ _ _ => true
  | .casD _ _ _ _ => true
  | .ldacqW _ _ _ => true
  | .ldacqD _ _ _ => true
  | .strelW _ _ _ => true
  | .strelD _ _ _ => true
  | .fence _ => true
  | .fenceRel _ => true
  | .fenceAcq _ => true
  | .bar _ _ => true
  | .txarr _ _ g => isAlways g
  | .txwait _ _ g => isAlways g
  | .copy _ => true
  | .copyt _ => true
  | .copyr _ => true
  | .gath _ => true
  | .scat _ => true
  | .redc _ => true
  | .ratom _ => true
  | .bpref _ => true
  | .wprog _ => true
  | .xend => true
  | .qmark => true
  | .trap _ _ => false
  | .eret _ => false
  | .halt _ => false
  | .vfcfgEnable _ => false
  | .vfcfgDisable _ => false
  | .vfcfgGate _ => false
  | .vfcfgReopen _ => false
  | _ => false

/-- The control core accepts the instruction (03 R90). -/
def inControl (i : Instr) : Bool :=
  match i with
  | .xend => false
  | .copy _ => false
  | .copyt _ => false
  | .copyr _ => false
  | .gath _ => false
  | .scat _ => false
  | .redc _ => false
  | .ratom _ => false
  | .bpref _ => false
  | .wprog _ => false
  | _ => true

/-! ## The table's words -/

/-- What the decoder reads from the low `n` bits of a number, laid out as the opcode table numbers them: a 32-bit scalar
word, 64 bits as a T-form pair or else a command, 96 bits as a vector word, 192 as a matrix word. The checks of
`checkInstr` come after it: a word that names an instruction with a field outside its range traps ILLEGAL when it runs. -/
def decodeBits (nbits w : Nat) : Except DecodeError Instr :=
  match nbits with
  | 32 => decodeFields (w % 2 ^ 32)
  | 64 =>
    if isTOp (wOp w) then decodeTFields (w % 2 ^ 32) (w / 2 ^ 32 % 2 ^ 32)
    else decodeCFields (w % 2 ^ 64) (List.replicate (extWords (w % 2 ^ 64)) 0)
  | 96 => decodeVFields (w % 2 ^ 96)
  | 192 => decodeMFields (w % 2 ^ 192)
  | _ => .error .wrongLength

/-- The instruction the decoder reads from the table's word. -/
def decodeTableWord (nbits w : Nat) : Option Instr := (decodeBits nbits w).toOption

end Sys2Proof
end

