-- ==== Sys2Proof/Machine/State.lean ====
section
/-! DEFINITION. The state of the 7408 package as plain data, and the state after a cold reset. -/
namespace Sys2Proof.Machine

/-- What a step can stop with. No instruction of the 7408 is stopped by the model where the spec gives it an effect.
`unreachable` is raised by nothing; it keeps the type inhabited (safe). -/
inductive Fault where
  | unreachable
deriving DecidableEq, Repr

/-- Why the model gives an instruction no meaning. -/
inductive Refusal where
  /-- The instruction's arm has no meaning yet; raised by exec alone (safe). -/
  | notModelled (mnemonic : String)
deriving DecidableEq, Repr

/-! ## Registers in flight and tokens -/

/-- A write in flight to a register of width `w` (spec 03 R107, R108): the bits it writes, the issue position of its
bundle or word, and the position from which it is seen. -/
structure Pend (w : Nat) where
  reg : Nat
  mask : BitVec w
  val : BitVec w
  issued : Nat
  due : Nat
deriving DecidableEq, Repr

/-- A dependence token: issued and completed generations (spec 01 R25). -/
structure Tok where
  g : BitVec 16
  c : BitVec 16
deriving DecidableEq, Repr

/-- A generation of a token. -/
structure Gen where
  tok : Nat
  gen : BitVec 16
deriving DecidableEq, Repr

/-- A production that has been issued and not completed: its generation, whether its word or block has ended, and for an
engine start the block's serial number (R26). It completes when it has ended, nothing in flight belongs to it, and every
earlier production of its token has completed. -/
structure Prod where
  gen : Gen
  ended : Bool
  serial : Option Nat
deriving DecidableEq, Repr

/-- What an in-flight access belongs to: the production it holds back, and its block's serial number. -/
structure Owed where
  slot : Nat
  prod : Option Gen
  serial : Option Nat
  /-- The task's next serial number when a scalar word made the access (spec 04 R154). -/
  stamp : Nat
  /-- The launch of the task that made it. -/
  lnum : Nat
deriving DecidableEq, Repr

/-! ## Objects -/

/-- The fields of an object that its window entry copies (spec 08 R279, R280). -/
structure ObjDesc where
  idx : Nat
  gid : Nat
  size : Nat
  extl : Nat
  prot : Bool
  key : Nat
  mode : Nat
  rd : Bool
  wr : Bool
deriving DecidableEq, Repr

/-- An object-table entry (spec 08 R279). -/
structure ObjRow where
  desc : ObjDesc
  ver : Nat
  hwm : Nat
  wmap : Nat
deriving DecidableEq, Repr

/-! ## The scalar stream -/

/-- A scalar register file with the writes in flight to it and its issue position, the sum of 1 + S over the bundles
issued (spec 03 R107, R108). -/
structure RegFile where
  vals : Tbl Word
  pend : List (Pend 64)
  pos : Nat
deriving DecidableEq, Repr

/-- The state of one scalar stream: a task's or a firmware context's (spec 01 R18, R41–R48). -/
structure Hart where
  pc : Word
  rf : RegFile
  p : Tbl PredReg
  pendP : List (Pend 1024)
  /-- Writes of CSRW and the PTIMEF latch, seen by later bundles (spec 03 R111). -/
  pendCsr : List (Nat × Word)
  tvec : Word
  tcause : Word
  tval : Word
  tepc : Word
  hres : Bool
  inhdl : Bool
  mpark : Bool
  rm : BitVec 2
  flags : Flags
  scb : Bool
  frac : BitVec 16
deriving DecidableEq, Repr

/-! ## Waits -/

/-- The kinds of wait of a control-core stop record (spec 12 R324, WAITK). -/
inductive WaitK where
  | none | twait | waitdep | bar | txwait | phase | queue | lineOrRange | extent | matrix | tclr | vrecl | exit
deriving DecidableEq, Repr

/-- A hold of a stream: its kind, WAITA and VAL (spec 12 R324). -/
structure Hold where
  kind : WaitK
  a : Nat
  v : Word
deriving DecidableEq, Repr

/-! ## Engine blocks -/

/-- A block handed to an engine, or an MNEST waiting in the matrix queue (spec 01 R23, 04 R141–R144, 06 R207). -/
structure Block where
  /-- An MNEST entry; `start` then holds the record address. -/
  nest : Bool
  serial : Nat
  /-- Captured generations the block waits for. -/
  waits : List Gen
  prod : Option Gen
  start : Word
  n : Nat
  runs : Nat
  sregs : Tbl Word
  rm : BitVec 2
  scb : Bool
  x1 : Word
  x2 : Word
  lentSrc : Option Nat
  lentTgt : Option Nat
  bundle : Word
  handler : Bool
  /-- Scalar registers whose snapshot is uncorrectable (spec 12 R346, R347). -/
  bad : List Nat
deriving DecidableEq, Repr

/-- What the matrix engine goes back to when the remainder that an MCONT runs has ended: the MCONT's place in its own
block, its production, and the recorded production that the remainder completes (spec 06 R224). -/
structure Remainder where
  pc : Word
  word : Nat
  idx : List Nat
  start : Word
  n : Nat
  prod : Option Gen
  recorded : Option Gen
deriving DecidableEq, Repr

/-- The preamble of a word that has captured and produced its tokens and has not completed (spec 01 R55, R56). -/
structure Pre where
  waits : List Gen
  prod : Option Gen
deriving DecidableEq, Repr

/-- The block an engine is running (spec 01 R22, 04 R143, 06 R208). -/
structure Running where
  blk : Block
  pc : Word
  run : Nat
  word : Nat
  idx : List Nat
  pre : Option Pre
  /-- What holds the word or the stream, if anything does. -/
  hold : Hold
  /-- Address and count of the words the engine steps through: the block's, or a remainder's (spec 06 R224). -/
  start : Word
  n : Nat
  /-- The remainders that MCONTs run, innermost first, each with the word to come back to (spec 06 R224, R227). -/
  cont : List Remainder
  /-- A stop split the word, and its first row not yet begun (spec 06 R227). -/
  split : Bool
  row : Nat
  /-- The effective k-block of the split word that a continuation block records (spec 06 R224). -/
  kb : Option Nat
  /-- The continuation block that the operation goes on from, while no row of it has begun since (spec 13 R351). -/
  block : Option Nat
  /-- The vector issue position at which the block began (spec 01 R33). -/
  from_ : Nat
deriving DecidableEq, Repr

/-- One engine of a task: its queue and the block it runs. -/
structure Eng where
  queue : List Block
  cur : Option Running
  pc : Word
deriving DecidableEq, Repr

/-- A trap raised by an engine and recorded until it is delivered (spec 12 R325). -/
structure Raised where
  eng : Nat
  cause : Nat
  /-- For DEFERRED, the original cause (R43). -/
  orig : Nat
  val : Word
  tepc : Word
deriving DecidableEq, Repr

/-- A fault of a request that could not trap its issuer (spec 12 R343). -/
structure DefFault where
  cause : Nat
  eng : Nat
  ctx : Nat
  slot : Nat
  /-- The launch of the issuing task. -/
  lnum : Nat
  addr : Word
  prod : Option Gen
deriving DecidableEq, Repr

/-! ## Matrix state -/

/-- A nest record as MNEST reads it (spec 06 R206). -/
structure NestRec where
  base : List Word
  trip : List Nat
  stride : List (List Int)
  klev : Nat
  nlev : Nat
  auto : Bool
deriving DecidableEq, Repr

/-- The latched weights (spec 06 R215). `data` is the tile's bytes as one little-endian number. -/
structure Latched where
  fmt : Nat
  src : Word
  ver : Nat
  col : Nat
  neg : Bool
  data : Nat
deriving DecidableEq, Repr

/-- One accumulator row: 192 cells of 32 bits, kind (0 clear, 1 float, 2 integer), closed, poison (spec 06 R213). -/
structure AccRow where
  cells : BitVec 6144
  kind : Nat
  closed : Bool
  poison : Bool
deriving DecidableEq, Repr

/-- What the matrix engine sets aside for a handler (spec 06 R229). -/
structure Parked where
  act : Option NestRec
  shadow : Option NestRec
  latched : Option Latched
deriving DecidableEq, Repr

/-- The matrix engine of a floor core (spec 01 R29–R31, 06). -/
structure Matrix where
  bound : Option Nat
  /-- The bound task has exited and the store is not yet being cleared (spec 01 R30). -/
  ending : Bool
  clearing : Bool
  acc : Tbl AccRow
  act : Option NestRec
  shadow : Option NestRec
  latched : Option Latched
  parked : Option Parked
  /-- The latched weights are reloaded from their source before the next word (spec 06 R224, R229). -/
  reload : Bool
  budget : Nat
  step : Nat
  stalls : Nat
  /-- Governor: effective budget, beats of the previous window, beats issued and refused in this one (R230). -/
  eff : Nat
  prev : Nat
  beats : Nat
  /-- The number of the window of 32 cycles that the governor is in (R230). -/
  win : Nat
deriving DecidableEq, Repr

/-! ## Tasks -/

/-- Engine state set aside while the handler runs (spec 12 R326). -/
structure Aside where
  vec : Eng
  mat : Eng
  xfer : Eng
  hold : Hold
  waits : List Gen
  /-- The serial number of the first block the handler may start. -/
  serial : Nat
deriving DecidableEq, Repr

/-- A task bound at a slot-table entry (spec 01 R17, R18, R41). -/
structure Task where
  ctx : Nat
  lnum : Nat
  idx : Nat
  code : Nat
  banks : Nat
  accr : Nat
  lsb : Nat
  /-- Private-frame size in bytes. -/
  frame : Nat
  wantsMat : Bool
  hart : Hart
  /-- `x0`–`x31`. -/
  xrf : RegFile
  v : Tbl VecReg
  pendV : List (Pend 4096)
  pendVP : List (Pend 1024)
  posV : Nat
  toks : Tbl Tok
  prods : List Prod
  serial : Nat
  vec : Eng
  mat : Eng
  xfer : Eng
  lentSrc : Option Nat
  lentTgt : Option Nat
  hold : Hold
  /-- Further generations that TWAITs of the bundle in hold wait for (spec 04 R148). -/
  waits : List Gen
  trig : Bool
  trigPend : Bool
  /-- The next serial number when TRIG issued: blocks below it were issued before (spec 04 R154). -/
  trigAt : Nat
  skip : Bool
  aside : Option Aside
  raised : List Raised
  /-- Losses of dies raised behind another trap of the task, for its next ERET (spec 12 R348). -/
  later : List Raised
  deferred : List DefFault
  /-- Productions that the next ERET completes (spec 12 R327, R343). -/
  atEret : List Gen
  /-- The launches whose signals its WAITDEPs waited for (spec 07 R242). -/
  covers : List Nat
  /-- The matrix engine has stopped for the halt line (spec 12 R322). -/
  stopped : Bool
  wseq : BitVec 16
  witer : BitVec 8
  wbusy : Nat
  wres : BitVec 4
  model : BitVec 8
  adpt : BitVec 12
  objs : Tbl ObjDesc
deriving DecidableEq, Repr

/-- A firmware context of a control core (spec 01 R19, 12 R328). -/
structure Firmware where
  hart : Hart
  halted : Bool
  objs : Tbl ObjDesc
deriving DecidableEq, Repr

/-! ## Cores and pairs -/

/-- One byte of a write: its offset in a line, the half-bytes written (bit 0 the low one) and the byte. -/
structure NibWrite where
  off : Nat
  nib : BitVec 2
  byte : Byte
deriving DecidableEq, Repr

/-- A side-log entry (spec 08 R285). -/
structure SideEnt where
  ctx : Nat
  eng : Nat
  obj : Nat
  ext : Nat
  /-- Line address as the write named it. -/
  addr : Word
  bytes : List NibWrite
  owed : Owed
  /-- Barrier to credit at replay: its pair, offset, reference phase and bytes (spec 07 R257). -/
  bar : Option (Nat × Nat × Bool × Nat)
  /-- A part of a reduction: its operation and format (spec 07 R264). -/
  red : Option (Nat × Nat)
  /-- Its data are uncorrectable (spec 07 R257, 06 R226, 12 R346). -/
  bad : Bool
  /-- Its age: what made it was the `age`-th of all (spec 08 R285). -/
  age : Nat
  /-- Productions of queue markers after it, which wait for its replay (spec 05 R200, 06 R223). -/
  sync : List Gen
deriving DecidableEq, Repr

/-- A store that has issued and waits in its engine's store queue (spec 09 R303): its `n` bytes as writes from `key`, and
whether the cache of its core's pair serves it. -/
structure QStore where
  eng : Nat
  core : Nat
  key : Nat
  n : Nat
  bytes : List NibWrite
  cached : Bool
  owed : Owed
deriving DecidableEq, Repr

/-- An extent-cache entry (spec 08 R283). -/
structure ExtentEnt where
  ctx : Nat
  obj : Nat
  ext : Nat
  val : Nat
deriving DecidableEq, Repr

/-- Per-core state (spec 01 R20, R42, R51, R53, 08 R283, R285). -/
structure Core where
  fwN : Nat
  /-- Firmware bundles of the window of 64 cycles whose number `fwWindow` is (R20). -/
  fwCount : Nat
  fwWindow : Nat
  /-- The last slot granted by the control core, by the vector engine and by the transfer sequencer (R20, R22). -/
  lastSlot : Nat
  lastVec : Nat
  lastXfer : Nat
  en : Bool
  sidelog : List SideEnt
  xcache : List ExtentEnt
deriving DecidableEq, Repr

/-- A line of a pair's local-store cache: data and the half-bytes written, with the slots that wrote it (08 R295). -/
structure CacheLine where
  data : BitVec 1024
  dirty : BitVec 256
  by_ : List Nat
deriving DecidableEq, Repr

/-- A range-scoreboard entry (spec 07 R255). -/
structure SbEnt where
  id : Nat
  lo : Nat
  hi : Nat
deriving DecidableEq, Repr

/-- A diversion entry (spec 12 R332): the epoch, the suspended context and its cellar section's address key. -/
structure Diversion where
  epoch : BitVec 16
  ctx : Nat
  section_ : Nat
deriving DecidableEq, Repr

/-- Stairwell states (spec 01 R51). -/
inductive StairState where
  | opened | closing | closed
deriving DecidableEq, Repr

/-- Per-pair state (spec 01 R16, R51, 07 R255, R272, 08 R278, R294, R295, 12 R331). -/
structure Pair where
  cmib : Nat
  tgt : Nat
  mov : Bool
  movStart : Word
  /-- Local-store lines whose full/empty bit is clear, by line offset ÷ 128. -/
  empty : Tbl Bool
  sb : List SbEnt
  cache : Tbl CacheLine
  up : List VecReg
  down : List VecReg
  stair : StairState
  stairOwner : Option Nat
  gateAt : Word
  /-- The pre-emption that an overdue gate asks for has been asked for (spec 07 R273). -/
  gateAsked : Bool
  owner : Option Nat
  epoch : BitVec 16
  guests : BitVec 128
  diversions : List Diversion
deriving DecidableEq, Repr

/-! ## Dies -/

/-- The three states of a compute die (spec 19 R463). -/
inductive DieState where
  | online | offline | lost
deriving DecidableEq, Repr

/-- A WPROG request (spec 18 R440). -/
structure WpReq where
  ctx : Nat
  obj : Nat
  row : Nat
  data : List Byte
  owed : Owed
  /-- A row of a version that is being loaded (spec 18 R448). -/
  load : Bool
  /-- Its place in the order in which requests were issued (spec 07 R267). -/
  seq : Nat
deriving DecidableEq, Repr

/-- The phase of the request a weight programming engine runs (spec 18 R440, R441). -/
inductive WpPhase where
  | taken | flipping | tree
deriving DecidableEq, Repr

/-- The request in progress: its target, iteration, pulses and whether a target was spoiled (spec 18 R440). -/
structure WpRun where
  req : WpReq
  phase : WpPhase
  target : Nat
  iter : Nat
  n : Nat
  spoiled : Bool
  /-- The wear limit and the iterations allowed, as they stood when it began (spec 18 R439). -/
  wlim : Nat
  itmax : Nat
deriving DecidableEq, Repr

/-- A model version that is being loaded: its slot and entry, the rows to be programmed after the one the engine has, the
signed root of the image, and the function that asked (spec 18 R448). -/
structure ModelLoad where
  model : Nat
  ent : Nat
  fn : Nat
  /-- Object and row of the row being programmed, then those after it: object, logical row, bytes. -/
  rest : List (Nat × Nat × List Byte)
  die : Nat
  root : Option (BitVec 256)
deriving DecidableEq, Repr

/-- A range of undispatched tasks a dispatcher holds (spec 15 R408). -/
structure UndRange where
  lnum : Nat
  lo : Nat
  hi : Nat
deriving DecidableEq, Repr

/-- A firmware image slot: security version, measurement (spec 20 R475, 21 R489). -/
structure FwImage where
  svn : Nat
  meas : BitVec 256
  ok : Bool
deriving DecidableEq, Repr

/-- Per-die state (spec 18 R439, R440, 19 R449–R467, 21 R484–R490). Dies 0–7 are compute dies, 8 and 9 I/O dies. -/
structure Die where
  st : DieState
  /-- The readiness bit; a die held by READY_CLEAR serves with the bit at 0 (spec 19 R466). -/
  ready : Bool
  loft : Bool
  cycle : Word
  ptime : Word
  frac : BitVec 16
  unlk : Bool
  bound : Nat
  holdover : Bool
  /-- It has its lock to regain with its counter ahead, and runs at half rate (spec 19 R452). -/
  acquiring : Bool
  /-- Nanoseconds of its own time since the last exchange; BOUND when holdover began, and that count then. -/
  sinceEx : Nat
  holdBase : Nat
  holdAt : Nat
  delay : Nat
  offset : Int
  llc : Tbl Bool
  wlim : Nat
  itmax : Nat
  wq : List WpReq
  wcur : Option WpRun
  modules : BitVec 4
  replays : Tbl Nat
  retraining : BitVec 4
  lpReady : BitVec 16
  lpRetrain : BitVec 16
  permits : Tbl Nat
  warm : Nat
  fwA : Option FwImage
  fwB : Option FwImage
  fwActiveB : Bool
  fwSwitching : Bool
  ranges : List UndRange
  asked : List Nat
  errs : Tbl Nat
deriving DecidableEq, Repr

/-! ## Contexts and what pre-emption saves -/

/-- A diverted write in the log (spec 12 R337): local-store offset of its line, its bytes and its issuer. -/
structure LogEnt where
  line : Nat
  bytes : List NibWrite
  issuer : Nat
deriving DecidableEq, Repr

/-- What a cellar section holds for one pair of an absent context (spec 12 R334, R337–R343). The local-store image itself,
and its poison marks, are the section's bytes in device memory, from `section_` on. -/
structure Saved where
  pair : Nat
  section_ : Nat
  owned : Bool
  epoch : BitVec 16
  empty : Tbl Bool
  stairUp : List VecReg
  stairDown : List VecReg
  log : List LogEnt
  bars : Tbl (BitVec 128)
  sb : List SbEnt
  faults : List DefFault
deriving DecidableEq, Repr

/-- The image of one task of an absent context (spec 12 R334). -/
structure SavedTask where
  slot : Nat
  task : Task
  mat : Option Matrix
  /-- Its uncorrectable registers: file and number (spec 12 R347). -/
  bad : List (Nat × Nat)
deriving DecidableEq, Repr

/-- Run states of a context (spec 15 R416). -/
inductive CtxState where
  | absent | running | halted | preempted | saved
deriving DecidableEq, Repr

/-- Stages of a forced pre-emption in progress (spec 12 R332) or of a resume (R336). -/
inductive Stage where
  | none | halting | armed | resuming
deriving DecidableEq, Repr

/-- An entry of a context's event log (spec 14 R369, 20 R475). -/
structure LoadEvent where
  hs : BitVec 256
  hn : BitVec 256
  svn : Nat
  desc : Nat
deriving DecidableEq, Repr

/-- A context (spec 01 R17, 08 R279, 12 R329–R336, 14 R369, 15 R416). -/
structure Ctx where
  st : CtxState
  prot : Bool
  fn : Nat
  nobj : Nat
  objs : Tbl ObjRow
  diemask : BitVec 8
  att : BitVec 256
  log : List LoadEvent
  halt : Bool
  stage : Stage
  /-- Chosen cellar sections of an accepted forced pre-emption: pair and section. -/
  sections : List (Nat × Nat)
  saved : List Saved
  /-- Side-log entries moved at a forced pre-emption and not yet replayed (spec 08 R287). -/
  moved : List SideEnt
  tasks : List SavedTask
  coop : Bool
  /-- The gang under which a forced pre-emption was asked for (spec 20 R474). -/
  gang : Nat
  /-- Saved stairwell entries, by pair, whose stairwell was closed or another's at the resume: upward and downward (log 91). -/
  stairs : Tbl (List VecReg × List VecReg)
deriving DecidableEq, Repr

/-! ## Transfers, requests and messages -/

/-- The shape of a transfer's byte stream (spec 07 R260–R264). -/
inductive XferKind where
  | copy
  | tensor (esz : Nat) (box : List Nat) (ss ds : List Int)
  | ring (esz : Nat) (box : List Nat) (ss ds : List Int) (srcRing : Bool) (rsize start : Nat)
  | gather (row : Nat) (idx : List Int)
  | scatter (row : Nat) (idx : List Int)
  | reduce (op fmt : Nat)
  | prefetch
deriving DecidableEq, Repr

/-- A transfer in flight (spec 07 R254–R258). -/
structure Xfer where
  id : Nat
  ctx : Nat
  slot : Nat
  lnum : Nat
  kind : XferKind
  dst : Word
  src : Word
  len : Nat
  bar : Word
  owed : Owed
  /-- The pairs whose local store it names, with their ownership epochs at issue (spec 12 R331). -/
  epochs : List (Nat × BitVec 16)
  /-- 128-byte pieces of the byte stream that have landed. -/
  landed : Tbl Bool
  failed : Bool
  flags : Flags
deriving DecidableEq, Repr

/-- A remote atomic that has been issued and not performed (spec 07 R265). -/
structure Request where
  id : Nat
  ctx : Nat
  slot : Nat
  op : Nat
  wide : Bool
  addr : Word
  val : Word
  ret : Nat
  epoch : BitVec 16
  owed : Owed
deriving DecidableEq, Repr

/-- A TXARR that has issued and not arrived: its barrier's pair, offset and address, the bytes it expects, the pair's epoch at its
access, and what its release waits for: parked writes older than `after` and the messages `sent` (spec 07 R242, R251). -/
structure Arrival where
  ctx : Nat
  eng : Nat
  pair : Nat
  off : Nat
  addr : Word
  n : Nat
  epoch : BitVec 16
  owed : Owed
  after : Nat
  sent : List (Channel × BitVec 32)
deriving DecidableEq, Repr

/-- A message that applies a write at a home on another die (spec 09 R314). -/
structure Message where
  num : BitVec 32
  key : Nat
  bytes : List NibWrite
  owed : Owed
deriving DecidableEq, Repr

/-- One message channel: the sender's next number, the number the home expects, the messages sent and not
acknowledged, and how many of those the home has applied (spec 09 R314). -/
structure Chan where
  ch : Channel
  next : BitVec 32
  expect : BitVec 32
  unacked : List Message
  applied : Nat
deriving DecidableEq, Repr

/-! ## Launches and queues -/

/-- The fields of a launch record (spec 15 R398). -/
structure LaunchRec where
  cls : Nat
  early : Bool
  depn : Nat
  loft : Bool
  loftUse : Bool
  banks : Nat
  n : Nat
  g : Nat
  accr : Nat
  lsb : Nat
  frame : Nat
  code : Nat
  entry : Nat
  tvec : Nat
  args : Word
  done : Word
deriving DecidableEq, Repr

/-- A launch that has passed its checks, waiting for admission or admitted (spec 15 R397–R411). -/
structure Launch where
  /-- Its number, given at admission. -/
  num : Nat
  ctx : Nat
  record : LaunchRec
  /-- Object-table indices of the handle list. -/
  handles : List Nat
  /-- The queue that launched it, with the register its status goes to; none for a kernel-side launch. -/
  queue : Option (Nat × Nat)
  /-- The queue of its root, at whose priority it is admitted. -/
  round : Nat
  /-- The root it is attached to. -/
  root : Option Nat
  /-- A kernel-side launch with DEPN 1: its producer counts as completed when its own tasks have exited (R410). -/
  ownTasks : Bool
  placed : Bool
  dispatched : Nat
  exited : Nat
  trigged : Nat
  producers : List Nat
  model : BitVec 8
  adpt : BitVec 12
  /-- The record's address and the window it is reached through. -/
  addr : Word
  objs : Tbl ObjDesc
  /-- Per-invocation references it releases when complete: adapter slot, model slot, version. -/
  refs : Option (Nat × Nat × Nat)
  /-- The hold it was made under. -/
  under : Option Nat
  /-- The invocation block it uses. -/
  block : Option Nat
deriving DecidableEq, Repr

/-- A write of the dispatcher that its home has not answered (spec 15 R389): a STATUS write, or the DONE increase of a launch, by
its number. -/
structure StatusDue where
  ctx : Nat
  objs : Tbl ObjDesc
  addr : Word
  val : Nat
  done : Option Nat
deriving DecidableEq, Repr

/-- An entry of a queue's loop stack (spec 15 R387). -/
structure LoopEnt where
  start : Word
  stop : Word
  count : Word
  depth : Nat
deriving DecidableEq, Repr

/-- A hold of a queue (spec 16 R421). -/
structure AdpHold where
  id : Nat
  depth : Nat
  slot : Nat
  model : Nat
  ver : Nat
  /-- The frame that made it has returned; it waits for its invocations. -/
  left : Bool
deriving DecidableEq, Repr

/-- Queue states (spec 15 R374). -/
inductive QState where
  | created | running | waiting | stopped | halted | saved
deriving DecidableEq, Repr

/-- A command that a queue has read and not finished: where it stands, what follows it, and what it is. -/
structure Command where
  loc : Word
  next : Word
  instr : Instr
deriving DecidableEq, Repr

/-- What step 1 of an INVOKE took, while its block is awaited (spec 15 R402, 16 R422). -/
structure Taken where
  slot : Nat
  model : Nat
  ver : Nat
  /-- Per-invocation references were taken; otherwise the invocation runs under a hold. -/
  own : Bool
  under : Option Nat
deriving DecidableEq, Repr

/-- A gang slice of a queue (spec 15 R413–R415): start, number, limit in microseconds, bound when it began; GANG_LATE sent;
the limit not yet passed; its queue is to stop at its next GRAPH. -/
structure GangSlice where
  t0 : Word
  id : Nat
  limit : Nat
  bound : Nat
  late : Bool
  opened : Bool
  stop : Bool
  /-- The mask of member packages. -/
  members : BitVec 256
deriving DecidableEq, Repr

/-- A gang message sent to the other members over the pod links: GANG_LATE or GANG_ARRIVED (spec 15 R414). -/
structure PodMsg where
  arrived : Bool
  gang : Nat
  members : BitVec 256
deriving DecidableEq, Repr

/-- A command queue (spec 15 R373, R374, R381, R387, R402–R404, R413). -/
structure Queue where
  live : Bool
  attr : QueueAttr
  /-- The object window its handle list loads. -/
  objs : Tbl ObjDesc
  head : Nat
  tail : Nat
  pc : Word
  where_ : Nat
  code : Nat
  waitk : Nat
  st : QState
  c : Tbl Word
  calls : List Word
  loops : List LoopEnt
  node : Nat
  cur : Option Command
  taken : Option Taken
  nextBlk : Nat
  /-- Invocation blocks in use, each with its launch's number. -/
  blocks : Tbl Nat
  holds : List AdpHold
  /-- Launches made since the last GRAPH, oldest first, complete or not. -/
  since : List Nat
  /-- Launches carried past the last GRAPH. -/
  carried : List Nat
  waitStart : Word
  /-- The extent its command or its fetch waits for, when WAITK is 8 (spec 15 R374). -/
  hold : Hold
  slice : GangSlice
  /-- Slices opened before it whose limits have not passed (spec 15 R415). -/
  slices : List GangSlice
deriving DecidableEq, Repr

/-! ## Adapters, models, weights -/

/-- An adapter slot record (spec 16 R418). -/
structure Adapter where
  st : Nat
  kind : Nat
  owner : Nat
  model : Nat
  bver : Nat
  rankm1 : Nat
  eidx : Nat
  parent : Nat
  aidx : Nat
  bidx : Nat
  ridx : Nat
  refs : Nat
  /-- Cores that have not yet acknowledged the last change of state (spec 16 R424). -/
  acks : BitVec 256
  evictFn : Option Nat
deriving DecidableEq, Repr

/-- A base-version entry (spec 16 R427). -/
structure VerEnt where
  vid : Nat
  st : Nat
  meas : Bool
  refs : Nat
  entry : Word
  wobj : Nat
  nwobj : Nat
  root : BitVec 256
  svn : Nat
deriving DecidableEq, Repr

/-- A model slot (spec 16 R427). -/
structure Model where
  cur : Nat
  v0 : VerEnt
  v1 : VerEnt
deriving DecidableEq, Repr

/-- A weight-object entry (spec 18 R435). -/
structure WObj where
  st : Nat
  model : Nat
  vent : Nat
  home : Nat
  lrow : Nat
  size : Nat
  ver : Nat
  rd : BitVec 128
  pg : BitVec 128
deriving DecidableEq, Repr

/-- A weight bank (spec 18 R432–R439). An unlisted row of `map` maps the physical row of its own number; the free pool
is the spares not yet taken, in increasing order, then `tail`. -/
structure Bank where
  map : Tbl Nat
  wear : Tbl Nat
  taken : Nat
  tail : List Nat
  draining : List Nat
  spoiled : List Nat
  rcal : Nat
deriving DecidableEq, Repr

/-! ## Code objects, host, trust -/

/-- A safe-point entry (spec 14 R357). -/
structure SafePoint where
  start : Nat
  stop : Nat
  mask : Nat
  coop : Bool
  force : Bool
deriving DecidableEq, Repr

/-- A live-mask entry (spec 14 R358). -/
structure LiveMask where
  s : BitVec 32
  p : BitVec 12
  v : BitVec 32
  x : BitVec 32
  accLo : Nat
  accN : Nat
  ls : List (Nat × Nat)
deriving DecidableEq, Repr

/-- A loaded code object (spec 14 R353–R358, R367). Section bytes stand in memory. -/
structure CodeObj where
  ctx : Nat
  sizeS : Nat
  sizeV : Nat
  sizeM : Nat
  sizeX : Nat
  /-- The handle that its data section binds, and its data object. -/
  datah : Option (Nat × ObjDesc)
  /-- Handles its code needs: handle, rights, smallest size (spec 14 R354). -/
  needs : List (Nat × Nat × Nat)
  safe : List SafePoint
  masks : List LiveMask
  withdrawn : Bool
  usable : Bool
  hs : BitVec 256
  hn : BitVec 256
  svn : Nat
deriving DecidableEq, Repr

/-- One function of the host interface (spec 20 R470). -/
structure Fn where
  mrbase : Word
  mrsize : Nat
  mrhead : Nat
  mrtail : Nat
  crbase : Word
  crsize : Nat
  crhead : Nat
  crtail : Nat
  lost : Nat
  rst : Bool
  sess : Bool
  tdi : Nat
  flr : Nat
  /-- Completions and events that wait for room in the completion ring. -/
  waiting : List (List Byte)
deriving DecidableEq, Repr

/-- A loaded key slot (spec 20 R479). -/
structure KeySlot where
  key : BitVec 256
  ctx : Option Nat
deriving DecidableEq, Repr

/-- An event: its code or kind and its data (spec 20 R472, 21 R484–R492). -/
structure Event where
  /-- The function whose completion ring a host event goes to. -/
  fn : Nat
  code : Nat
  data : List Nat
deriving DecidableEq, Repr

/-- A BAR channel (spec 07 R246, R247): instance, context, channel number; N and arrivals of the open episode. -/
structure BarChan where
  scope : Nat
  inst : Nat
  ctx : Nat
  ch : Nat
  n : Nat
  arrived : Nat
  episode : Nat
deriving DecidableEq, Repr

/-- The pod (spec 19 R451, R462). -/
structure Pod where
  member : Bool
  self : Nat
  master : Nat
  routes : Tbl (Nat × Nat)
  up : BitVec 16
deriving DecidableEq, Repr

/-- A security event of the attestation report (spec 20 R475). -/
structure SecEvent where
  kind : Nat
  fn : Nat
  what : Nat
  at_ : Word
  detail : Nat
deriving DecidableEq, Repr

/-! ## The turn and the whole state -/

/-- Whether the bundle or word in issue has been stopped, and how. -/
inductive TurnStop where
  | none
  | trapped (cause : Nat) (val : Word)
  | held (h : Hold)
deriving DecidableEq, Repr

/-- The bundle or word being issued: who issues it, where it stands, the address after it, a LIMM before it, and the
tokens as they stood before it (spec 03 R85, R87). -/
structure Turn where
  agent : Agent
  pc : Word
  wordPc : Word
  next : Word
  limm : Option (BitVec 22)
  toks : Tbl Tok
  stop : TurnStop
  /-- The header of the host message being decided (spec 20 R471). -/
  msg : MsgHdr
deriving DecidableEq, Repr

/-- What moves next: an agent executes, an event happens, or time passes: nanoseconds of master time, and each die's
own cycles, nanoseconds and fraction for that span. -/
inductive Activity where
  | run (a : Agent)
  | event (i : Instr)
  | elapse (ns : Nat) (dies : List (Nat × Nat))
  /-- The agents whose stall count has not expired or whose next bundle or word is not fetched (01 R21). -/
  | unready (l : List Agent)
  /-- The agents whose stores wait in their store queues (09 R303). -/
  | slip (l : List Agent)
  /-- The oldest store in the store queue of a slot's engine is performed (09 R303). -/
  | perform (slot eng : Nat)
  /-- Firmware's policy admits a context to a pair's local store, or ends its admission (08 R278). -/
  | admitGuest (pair ctx : Nat) (on : Bool)
  /-- The management core loads the object window of a firmware context (07 R236, 08 R280). -/
  | mapFirmware (core : Nat) (objs : Tbl ObjDesc)
  /-- An arrival of another package at a channel of the pod's barrier network (07 R246, 15 R414). -/
  | podArrival (ctx ch n : Nat)
deriving DecidableEq, Repr

/-- The 7408 package. -/
structure State where
  agenda : List Activity
  focus : Agent
  /-- Agents that their stall count or their fetch keeps from issuing (01 R21). Log 90. -/
  unready : List Agent
  /-- Agents whose stores wait in their store queues, and those queues, oldest first (09 R303). Log 6. -/
  slips : List Agent
  queued : List QStore
  /-- Streams held at an extent: the address, and the age of the access (08 R288). -/
  heldSince : List (Agent × Word × Nat)
  turn : Turn
  freeIdx : Nat
  power : Bool
  mem : Tbl Byte
  poison : Tbl Bool
  regPoison : List (Nat × Nat × Nat)
  slotRecs : Tbl BindRecord
  tasks : Tbl Task
  fws : Tbl Firmware
  cores : Tbl Core
  pairs : Tbl Pair
  mats : Tbl Matrix
  dies : Tbl Die
  ctxs : Tbl Ctx
  xfers : List Xfer
  requests : List Request
  arrivals : List Arrival
  nextId : Nat
  chans : List Chan
  bars : List BarChan
  /-- Launches waiting for admission, in the order they were made. -/
  waiting : List Launch
  launches : Tbl Launch
  statusDue : List StatusDue
  nextLaunch : Nat
  grants : Tbl Nat
  queues : Tbl Queue
  gangLate : List (Nat × Nat)
  podSent : List PodMsg
  adapters : Tbl Adapter
  models : Tbl Model
  wobjs : Tbl WObj
  banks : Tbl Bank
  loads : List ModelLoad
  /-- Model versions, by slot and entry, whose step of start-up has ended, well or not (spec 18 R447, 21 R487). -/
  measured : List (Nat × Nat)
  codes : Tbl CodeObj
  nextCode : Nat
  nextGid : Nat
  cellar : List (Nat × Nat)
  fns : Tbl Fn
  fnOf : Tbl Nat
  /-- Functions that a reset of function 0 has still to reset, the one in progress first (spec 20 R483). -/
  flrNext : List Nat
  keys : Tbl KeySlot
  fuses : Tbl Nat
  units : BitVec 8
  /-- Units whose start-up step has ended, well or not; no step is repeated (spec 21 R487). -/
  started : List StartUnit
  pod : Pod
  cfeA : Option FwImage
  cfeB : Option FwImage
  cfeActiveB : Bool
  cfeSwitching : Bool
  iodLink : Bool
  debug : Nat
  secLog : List SecEvent
  events : List Event
  mgmt : List Event
deriving DecidableEq, Repr

/-! ## Reset values of every table's unlisted entry -/

def Tok.init : Tok := ⟨0, 0⟩

def RegFile.init : RegFile := ⟨[], [], 0⟩

def Hart.init : Hart :=
  { pc := 0, rf := RegFile.init, p := [], pendP := [], pendCsr := [], tvec := 0, tcause := 0,
    tval := 0, tepc := 0, hres := false, inhdl := false, mpark := false, rm := 0, flags := 0, scb := false, frac := 0 }

def Eng.init : Eng := ⟨[], none, 0⟩

def Hold.init : Hold := ⟨.none, 0, 0⟩

/-- A task's state as it is at bind, before the launch's fields are placed (spec 01 R18). -/
def Task.init : Task :=
  { ctx := 0, lnum := 0, idx := 0, code := 0, banks := 0, accr := 0, lsb := 0, frame := 0, wantsMat := false,
    hart := Hart.init, xrf := RegFile.init, v := [], pendV := [], pendVP := [], posV := 0,
    toks := [], prods := [], serial := 0, vec := Eng.init, mat := Eng.init, xfer := Eng.init,
    lentSrc := none, lentTgt := none, hold := Hold.init, waits := [], trig := false, trigPend := false, trigAt := 0,
    skip := false, aside := none, raised := [], later := [], deferred := [], atEret := [], covers := [], stopped := false, wseq := 0, witer := 0, wbusy := 0,
    wres := 0, model := 0xFF, adpt := 0xFFF, objs := [] }

def Firmware.init : Firmware := ⟨Hart.init, true, []⟩

def Core.init : Core := ⟨4, 0, 0, 0, 0, 0, false, [], []⟩

def AccRow.init : AccRow := ⟨0, 0, false, false⟩

def Matrix.init : Matrix :=
  { bound := none, ending := false, clearing := false, acc := [], act := none, shadow := none, latched := none, parked := none,
    reload := false, budget := 32, step := 4, stalls := 0, eff := 32, prev := 0, beats := 0, win := 0 }

def Pair.init : Pair :=
  { cmib := 0, tgt := 0, mov := false, movStart := 0, empty := [], sb := [], cache := [], up := [], down := [],
    stair := .opened, stairOwner := none, gateAt := 0, gateAsked := false, owner := none, epoch := 0, guests := 0, diversions := [] }

/-- A die after a cold reset: not online until its start-up step ends (spec 21 R487). -/
def Die.init : Die :=
  { st := .offline, ready := false, loft := true, cycle := 0, ptime := 0, frac := 0, unlk := true, bound := 0x7FFFFFFF,
    holdover := false, acquiring := false, sinceEx := 0, holdBase := 0, holdAt := 0, delay := 0, offset := 0, llc := [], wlim := 0xF4240, itmax := 8, wq := [],
    wcur := none, modules := 0, replays := [], retraining := 0, lpReady := 0, lpRetrain := 0, permits := [], warm := 0,
    fwA := none, fwB := none, fwActiveB := false, fwSwitching := false, ranges := [], asked := [], errs := [] }

def Ctx.init : Ctx :=
  { st := .absent, prot := false, fn := 0, nobj := 0, objs := [], diemask := 0, att := 0, log := [], halt := false,
    stage := .none, sections := [], saved := [], moved := [], tasks := [], coop := false, gang := 0, stairs := [] }

def QueueAttr.init : QueueAttr := ⟨0, 0, 0, 0, 0, 0, 0⟩

def GangSlice.init : GangSlice := ⟨0, 0, 0, 0, false, false, false, 0⟩

def Queue.init : Queue :=
  { live := false, attr := QueueAttr.init, objs := [], head := 0, tail := 0, pc := 0, where_ := 0, code := 0, waitk := 0,
    st := .created, c := [], calls := [], loops := [], node := 0, cur := none, taken := none, nextBlk := 0, blocks := [],
    holds := [], since := [], carried := [], waitStart := 0, hold := Hold.init, slice := GangSlice.init, slices := [] }

/-- A free adapter slot (spec 16 R418). -/
def Adapter.init : Adapter :=
  { st := 0, kind := 0, owner := 0, model := 0, bver := 0, rankm1 := 0, eidx := 0, parent := 0xFFF, aidx := 0,
    bidx := 0, ridx := 0xFFFF, refs := 0, acks := 0, evictFn := none }

def VerEnt.init : VerEnt := ⟨0, 0, false, 0, 0, 0, 0, 0, 0⟩

def Model.init : Model := ⟨0, VerEnt.init, VerEnt.init⟩

def WObj.init : WObj := ⟨0, 0, 0, 0, 0, 0, 0, 0, 0⟩

def Bank.init : Bank := ⟨[], [], 0, [], [], [], 0⟩

def Fn.init : Fn := ⟨0, 0, 0, 0, 0, 0, 0, 0, 0, false, false, 0, 0, []⟩

def Turn.init : Turn := ⟨.idle, 0, 0, 0, none, [], .none, ⟨0, 0, false, 0⟩⟩

def Pod.init : Pod := ⟨false, 0, 0, [], 0⟩

/-- The package right after a cold reset (spec 21 R487): no unit ready, no context, no task, nothing in memory. -/
def State.reset : State :=
  { agenda := [], focus := .idle, unready := [], slips := [], queued := [], heldSince := [], turn := Turn.init, freeIdx := 0, power := true, mem := [], poison := [],
    regPoison := [], slotRecs := [], tasks := [], fws := [], cores := [], pairs := [], mats := [], dies := [],
    ctxs := [], xfers := [], requests := [], arrivals := [], nextId := 0, chans := [], bars := [], waiting := [], launches := [], statusDue := [], nextLaunch := 0,
    grants := [], queues := [], gangLate := [], podSent := [], adapters := [], models := [], wobjs := [], banks := [], loads := [], measured := [], codes := [],
    nextCode := 0, nextGid := 0, cellar := [], fns := [], fnOf := [], flrNext := [], keys := [], fuses := [], units := 0, started := [],
    pod := Pod.init, cfeA := none, cfeB := none, cfeActiveB := false, cfeSwitching := false, iodLink := false,
    debug := 0, secLog := [], events := [], mgmt := [] }

end Sys2Proof.Machine
end

