-- ==== Sys2Proof/Machine/Access.lean ====
section
/-! DEFINITION. Where things stand in the package: the numbering of slots, cores and pairs, and one reader and one writer for
each table of the state (spec 01 R12–R17, R41). -/
namespace Sys2Proof.Machine

/-! ## Numbering (01 R13) -/

/-- The die of a package slot number 48 × die + entry. -/
def slotDie (k : Nat) : Nat := k / 48

/-- The slot-table entry. -/
def slotEntry (k : Nat) : Nat := k % 48

/-- A loft slot stands at entries 32–47. -/
def slotLoft (k : Nat) : Bool := decide (32 ≤ slotEntry k)

/-- The global pair number of a slot. -/
def slotPair (k : Nat) : Nat :=
  slotDie k * 16 + (if slotLoft k then slotEntry k - 32 else slotEntry k / 2)

/-- `TSTAT`.SLOT of a slot (01 R45). -/
def slotIndex (k : Nat) : Nat := if slotLoft k then 0 else slotEntry k % 2

/-- The core of a slot: 2 × pair, plus one on the loft. -/
def slotCore (k : Nat) : Nat := 2 * slotPair k + (if slotLoft k then 1 else 0)

def pairDie (p : Nat) : Nat := p / 16

def corePair (c : Nat) : Nat := c / 2

def coreLoft (c : Nat) : Bool := c % 2 == 1

def coreDie (c : Nat) : Nat := pairDie (corePair c)

/-- The slots of a pair: two on the floor, one on the loft. -/
def pairSlots (p : Nat) : List Nat :=
  let d := pairDie p * 48
  let m := p % 16
  [d + 2 * m, d + 2 * m + 1, d + 32 + m]

/-- The slots of a core. -/
def coreSlots (c : Nat) : List Nat :=
  (pairSlots (corePair c)).filter fun k => slotCore k == c

/-- The other floor slot of a floor core. -/
def otherSlot (k : Nat) : Nat := if slotEntry k % 2 = 0 then k + 1 else k - 1

/-! ## Tables -/

def State.task (s : State) (k : Nat) : Task := tget Task.init s.tasks k
def State.fw (s : State) (c : Nat) : Firmware := tget Firmware.init s.fws c
def State.core (s : State) (c : Nat) : Core := tget Core.init s.cores c
def State.pair (s : State) (p : Nat) : Pair := tget Pair.init s.pairs p
def State.mat (s : State) (p : Nat) : Matrix := tget Matrix.init s.mats p
def State.die (s : State) (d : Nat) : Die := tget Die.init s.dies d
def State.ctx (s : State) (c : Nat) : Ctx := tget Ctx.init s.ctxs c
def State.queue (s : State) (q : Nat) : Queue := tget Queue.init s.queues q
def State.adapter (s : State) (a : Nat) : Adapter := tget Adapter.init s.adapters a
def State.model (s : State) (m : Nat) : Model := tget Model.init s.models m
def State.wobj (s : State) (i : Nat) : WObj := tget WObj.init s.wobjs i
def State.bank (s : State) (b : Nat) : Bank := tget Bank.init s.banks b
def State.fn (s : State) (f : Nat) : Fn := tget Fn.init s.fns f

def State.setTask (s : State) (k : Nat) (t : Task) : State := { s with tasks := tput s.tasks k t }
def State.setFw (s : State) (c : Nat) (f : Firmware) : State := { s with fws := tput s.fws c f }
def State.setCore (s : State) (c : Nat) (x : Core) : State := { s with cores := tput s.cores c x }
def State.setPair (s : State) (p : Nat) (x : Pair) : State := { s with pairs := tput s.pairs p x }
def State.setMat (s : State) (p : Nat) (x : Matrix) : State := { s with mats := tput s.mats p x }
def State.setDie (s : State) (d : Nat) (x : Die) : State := { s with dies := tput s.dies d x }
def State.setCtx (s : State) (c : Nat) (x : Ctx) : State := { s with ctxs := tput s.ctxs c x }
def State.setQueue (s : State) (q : Nat) (x : Queue) : State := { s with queues := tput s.queues q x }
def State.setAdapter (s : State) (a : Nat) (x : Adapter) : State := { s with adapters := tput s.adapters a x }
def State.setModel (s : State) (m : Nat) (x : Model) : State := { s with models := tput s.models m x }
def State.setWobj (s : State) (i : Nat) (x : WObj) : State := { s with wobjs := tput s.wobjs i x }
def State.setBank (s : State) (b : Nat) (x : Bank) : State := { s with banks := tput s.banks b x }
def State.setFn (s : State) (f : Nat) (x : Fn) : State := { s with fns := tput s.fns f x }
def State.setTurn (s : State) (t : Turn) : State := { s with turn := t }
def State.setMem (s : State) (m : Tbl Byte) : State := { s with mem := m }

/-- A task is bound at slot `k`. -/
def State.bound (s : State) (k : Nat) : Bool := (tfind s.tasks k).isSome

/-- The slots at which tasks of context `c` are bound, in increasing order. -/
def State.ctxSlots (s : State) (c : Nat) : List Nat :=
  (s.tasks.filter fun e => e.2.ctx == c).map (·.1)

/-- The next free value's index, and the state with the counter advanced. -/
def State.fresh (s : State) : Nat × State := (s.freeIdx, { s with freeIdx := s.freeIdx + 1 })

/-- Local-store bytes of a pair: 24 MiB with its loft, 12 MiB without (01 R51). -/
def State.lsBytes (s : State) (p : Nat) : Nat :=
  if (s.die (pairDie p)).loft then 0x1800000 else 0xC00000

/-- The scratchpad limit: `LSCAP`.BYTES − CMIB MiB (08 R277). -/
def State.padLimit (s : State) (p : Nat) : Nat := s.lsBytes p - (s.pair p).cmib * 0x100000

/-! ## The issuing stream -/

/-- The engine code of an agent (01 R43). -/
def agentEng (a : Agent) : Nat :=
  match a with
  | .vector _ => 1
  | .matrix _ => 2
  | .transfer _ => 3
  | _ => 0

/-- The slot an agent acts for. -/
def agentSlot (a : Agent) : Option Nat :=
  match a with
  | .scalar k => some k
  | .vector k => some k
  | .matrix k => some k
  | .transfer k => some k
  | _ => none

/-- The core an agent runs on. -/
def agentCore (a : Agent) : Option Nat :=
  match a with
  | .firmware c => some c
  | _ => (agentSlot a).map slotCore

/-- The slot the word in issue belongs to, 0 where there is none. -/
def State.me (s : State) : Nat := (agentSlot s.turn.agent).getD 0

/-- The core the word in issue runs on. -/
def State.myCore (s : State) : Nat := (agentCore s.turn.agent).getD 0

def State.myPair (s : State) : Nat := corePair s.myCore

def State.myDie (s : State) : Nat := pairDie s.myPair

/-- The word in issue runs in a firmware context. -/
def State.inFirmware (s : State) : Bool :=
  match s.turn.agent with
  | .firmware _ => true
  | _ => false

/-- The word in issue stands in a transfer stream. -/
def State.inTransferStream (s : State) : Bool :=
  match s.turn.agent with
  | .transfer _ => true
  | _ => false

/-- The scalar-stream state the word in issue reads CSRs and predicates from. -/
def State.hart (s : State) : Hart :=
  match s.turn.agent with
  | .firmware c => (s.fw c).hart
  | a => (s.task ((agentSlot a).getD 0)).hart

/-- The same, replaced. -/
def State.setHart (s : State) (h : Hart) : State :=
  match s.turn.agent with
  | .firmware c => s.setFw c { s.fw c with hart := h }
  | a => s.setTask ((agentSlot a).getD 0) { s.task ((agentSlot a).getD 0) with hart := h }

/-- The scalar register file of the word in issue: `x` in a transfer stream, `s` elsewhere (04 R119). -/
def State.rf (s : State) : RegFile :=
  match s.turn.agent with
  | .transfer k => (s.task k).xrf
  | _ => s.hart.rf

/-- The same, replaced. -/
def State.setRf (s : State) (r : RegFile) : State :=
  match s.turn.agent with
  | .transfer k => s.setTask k { s.task k with xrf := r }
  | _ => s.setHart { s.hart with rf := r }

/-! ## Physical memory -/

/-- Keys of the physical address space: LPDDR of a die, host memory, a pair's local store, a task's private frame, a
weight-tier row, a code section. Device addresses are LPDDR keys: die in [38:36], offset below. -/
def keyLpddr (die off : Nat) : Nat := die * 2 ^ 36 + off
def keyHost (addr : Nat) : Nat := 2 ^ 64 + addr
def keyLs (pair off : Nat) : Nat := 2 ^ 66 + pair * 2 ^ 25 + off
def keyFrame (lnum idx off : Nat) : Nat := 2 ^ 67 + (lnum * 2 ^ 32 + idx) * 2 ^ 32 + off
def keyFwFrame (core off : Nat) : Nat := 2 ^ 140 + core * 2 ^ 32 + off
/-- A row has a line of its own, so that its poison is its own (18 R445). -/
def keyWeight (bank row off : Nat) : Nat := 2 ^ 150 + (bank * 2 ^ 20 + row) * 128 + off
def keyCode (desc stream off : Nat) : Nat := 2 ^ 192 + desc * 2 ^ 32 + stream * 2 ^ 26 + off

/-- The byte at a key; a byte that nothing has written reads zero (log 2). -/
def State.getByte (s : State) (key : Nat) : Byte := tget 0 s.mem key

/-- The state with the byte at a key written; the memory keeps its canonical form. -/
def State.putByte (s : State) (key : Nat) (b : Byte) : State := { s with mem := tset 0 s.mem key b }

/-- `n` bytes from a key. -/
def State.getBytes (s : State) (key n : Nat) : List Byte := (rangeFrom key n).map s.getByte

/-- Bytes written from a key on. -/
def State.putBytes (s : State) (key : Nat) : List Byte → State
  | [] => s
  | b :: t => (s.putByte key b).putBytes (key + 1) t

/-- The little-endian number in `n` bytes. -/
def State.getNat (s : State) (key n : Nat) : Nat := ofBytes (s.getBytes key n)

/-! ## Events -/

/-- Events the device holds (20 R472). -/
def eventSize : Nat := 1024

/-- An event for the host, through a function's completion ring; counted as lost beyond what the device holds. -/
def State.tellFn (s : State) (f code : Nat) (data : List Nat) : State :=
  if s.events.length < eventSize then { s with events := s.events ++ [⟨f, code, data⟩] }
  else
    let x := s.fn f
    s.setFn f { x with lost := (x.lost + 1) % 2 ^ 32 }

/-- An event about a context goes to the context's function. -/
def State.tellCtx (s : State) (c code : Nat) (data : List Nat) : State := s.tellFn (s.ctx c).fn code data

/-- Any other event goes to function 0. -/
def State.tellHost (s : State) (code : Nat) (data : List Nat) : State := s.tellFn 0 code data

/-- An event for a management core. -/
def State.tellMgmt (s : State) (code : Nat) (data : List Nat) : State :=
  { s with mgmt := s.mgmt ++ [⟨0, code, data⟩] }

end Sys2Proof.Machine
end

