-- ==== Sys2Proof/Machine/Records.lean ====
section
/-! DEFINITION. The records the device writes and reads in memory about stopped work: the stop record, the continuation block
and the words of a code section (spec 12 R323, R324, 06 R228). -/
namespace Sys2Proof.Machine

/-- Bytes laid over a run of zeros: fields (offset, size, value), little-endian. -/
def layOut (n : Nat) (fs : List (Nat × Nat × Nat)) : List Byte :=
  fs.foldl (fun l f => l.take f.1 ++ bytesOf f.2.1 f.2.2 ++ l.drop (f.1 + f.2.1)) (List.replicate n 0)

/-- The codes of WAITK (12 R324). -/
def waitCode (k : WaitK) : Nat :=
  match k with
  | .none => 0 | .twait => 1 | .waitdep => 2 | .bar => 3 | .txwait => 4 | .phase => 5 | .queue => 6
  | .lineOrRange => 7 | .extent => 8 | .matrix => 9 | .tclr => 10 | .vrecl => 11 | .exit => 12

def boolNat (b : Bool) : Nat := if b then 1 else 0

/-- A generation's GEN and TOK fields: 0 and 63 where there is none (12 R324). -/
def genFields (g : Option Gen) : List (Nat × Nat × Nat) :=
  match g with
  | none => [(4, 2, 0), (6, 1, 63)]
  | some g => [(4, 2, g.gen.toNat), (6, 1, g.tok)]

/-- What an engine raised at this stop, if it did. -/
def raisedBy (t : Task) (eng : Nat) : Option Raised := t.raised.find? fun r => r.eng == eng

/-- STAT, CAUSE of an engine's record. -/
def statFields (t : Task) (eng : Nat) (active waiting : Bool) : List (Nat × Nat × Nat) :=
  let r := raisedBy t eng
  [(0, 1, 1), (1, 1, eng), (2, 1, boolNat active + 2 * boolNat r.isSome + 4 * boolNat waiting),
    (3, 1, (r.map (·.cause)).getD 0)]

/-- VAL: the trap's value, or the address or the generation waited for, or 0. A BAR waits for neither. -/
def valField (t : Task) (eng : Nat) (h : Hold) : Nat × Nat × Nat :=
  match raisedBy t eng with
  | some r => (16, 8, r.val.toNat)
  | none => (16, 8, if h.kind = .none ∨ h.kind = .bar then 0 else h.v.toNat)

/-- The control core's record. -/
def controlRecord (t : Task) : List Byte :=
  layOut 64 (statFields t 0 true (t.hold.kind != .none) ++ genFields none
    ++ [(8, 8, t.hart.pc.toNat), valField t 0 t.hold, (24, 1, waitCode t.hold.kind), (25, 1, t.hold.a)])

/-- The record of an engine with nothing in progress. -/
def idleRecord (t : Task) (eng qd : Nat) (pc : Word) : List Byte :=
  layOut 64 (statFields t eng false false ++ genFields none ++ [(7, 1, qd), (8, 8, pc.toNat), valField t eng Hold.init])

/-- A wait of a word: for tokens, or what holds it. -/
def runningHold (r : Running) : Bool := r.hold.kind != .none

/-- The production a running word carries. -/
def runningProd (r : Running) : Option Gen :=
  match r.pre with
  | none => none
  | some p => p.prod

/-- The vector engine's record. -/
def vectorRecord (t : Task) : List Byte :=
  match t.vec.cur with
  | none => idleRecord t 1 t.vec.queue.length t.vec.pc
  | some r =>
    layOut 64 (statFields t 1 true (runningHold r) ++ genFields (runningProd r)
      ++ [(7, 1, t.vec.queue.length), (8, 8, r.pc.toNat), valField t 1 r.hold, (24, 4, r.run), (28, 4, r.blk.runs),
        (32, 8, r.blk.start.toNat), (40, 4, r.blk.n)])

/-- The transfer sequencer's record. -/
def transferRecord (t : Task) : List Byte :=
  match t.xfer.cur with
  | none => idleRecord t 3 t.xfer.queue.length t.xfer.pc
  | some r =>
    layOut 64 (statFields t 3 true (runningHold r) ++ genFields (runningProd r)
      ++ [(7, 1, t.xfer.queue.length), (8, 8, r.pc.toNat), valField t 3 r.hold, (32, 8, r.blk.start.toNat)])

/-- The matrix engine's record. A task without the engine, or with nothing in progress there, gets STAT = 0 and the MPC that
its continuation block holds. -/
def matrixRecord (t : Task) (bound : Bool) (mpc : Nat) : List Byte :=
  match bound, t.mat.cur with
  | true, some r =>
    layOut 64 (statFields t 2 true (runningHold r) ++ genFields (runningProd r)
      ++ [(7, 1, t.mat.queue.length), (8, 8, r.pc.toNat), valField t 2 r.hold])
  | _, _ => layOut 64 ([(0, 1, 1), (1, 1, 2)] ++ genFields none ++ [(7, 1, t.mat.queue.length), (8, 8, mpc)])

/-- The adapter slot of a matrix word, 0xFFF where its opcode has none (03 R100): ASTEP, ASTEPA and ARD name one. -/
def adpOf (w : Nat) : Nat := if [2, 3, 5].contains (bits w 191 184) then bits w 77 66 else 0xFFF

/-- The continuation block of a matrix operation (06 R228). KB, ADP, RANK and FLAGS are the stopped word's, read from its
bits `w`; `kb` is its effective k-block. -/
def continuation (t : Task) (m : Matrix) (r : Running) (why kb w : Nat) : List Byte :=
  let lat := m.latched
  let idx := fun l => (l, 4, r.idx.getD ((l - 32) / 4) 0)
  layOut 128 (genFields (runningProd r)
    ++ [(0, 1, 1), (1, 1, why),
      (2, 1, boolNat r.split + 2 * boolNat lat.isSome + 4 * boolNat ((lat.map (·.neg)).getD false) + 8 * boolNat (!r.cont.isEmpty)),
      (3, 1, t.ctx), (7, 1, kb), (8, 8, r.pc.toNat), (16, 8, r.start.toNat), (24, 4, r.n),
      (28, 2, if r.split then r.row else 0), (30, 1, (lat.map (·.fmt)).getD 0), (31, 1, (lat.map (·.col)).getD 0),
      idx 32, idx 36, idx 40, idx 44, idx 48, idx 52, (56, 8, (lat.map fun l => l.src.toNat).getD 0),
      (64, 8, (lat.map (·.ver)).getD 0), (72, 2, adpOf w), (74, 1, bits w 65 60), (75, 1, bits w 58 51)])

/-- The frame key of a task's byte (08 R276). -/
def frameKey (t : Task) (off : Nat) : Nat := keyFrame t.lnum t.idx off

/-- Bytes of a task's code stream: 0 scalar, 1 vector, 2 matrix, 3 transfer. -/
def State.codeBytes (s : State) (desc stream off n : Nat) : Nat := s.getNat (keyCode desc stream off) n

/-- The size in bytes of a stream section of a code object. -/
def State.sectionSize (s : State) (desc stream : Nat) : Nat :=
  match tfind s.codes desc with
  | none => 0
  | some c => match stream with | 0 => c.sizeS | 1 => c.sizeV | 2 => c.sizeM | _ => c.sizeX

end Sys2Proof.Machine
end

