-- ==== Sys2Proof/Machine/Windows.lean ====
section
/-! DEFINITION. Who accesses, the address windows, the extents of objects, and `DIEMASK` (spec 08 R274, R282, R283,
07 R235). -/
namespace Sys2Proof.Machine

/-! ## Who accesses -/

/-- The accessing agent: its context, slot, core, engine, object window and private frame. -/
structure View where
  ctx : Nat
  slot : Nat
  core : Nat
  eng : Nat
  objs : Tbl ObjDesc
  frame : Nat
  frameSize : Nat
  /-- A firmware context (07 R236). -/
  firmware : Bool
  /-- Whether its global accesses go through the pair's local-store cache (08 R295). -/
  cached : Bool
  /-- The class of the messages as which its writes to another die's LPDDR travel, for the home to apply later; none where the
  write waits for the home (09 R314, 19 R459). -/
  posts : Option Nat
  /-- Its writes claim what they touch of protected objects; the later parts of an instruction find it claimed (08 R290). -/
  claims : Bool
deriving DecidableEq, Repr

def View.pair (v : View) : Nat := corePair v.core
def View.die (v : View) : Nat := coreDie v.core

/-- The pseudo-context of firmware objects, and the slot number under which a core's firmware writes. -/
def fwCtx : Nat := 128
def fwSlot (core : Nat) : Nat := 384 + core

/-- The view of the task at a slot, for an engine. -/
def State.taskView (s : State) (k eng : Nat) : View :=
  let t := s.task k
  ⟨t.ctx, k, slotCore k, eng, t.objs, frameKey t 0, t.frame, false, eng != 3, some 2, true⟩

/-- The view of the word in issue. -/
def State.view (s : State) : View :=
  match s.turn.agent with
  | .firmware c => ⟨fwCtx, fwSlot c, c, 0, (s.fw c).objs, keyFwFrame c 0, 2 ^ 32, true, true, none, true⟩
  | a => s.taskView ((agentSlot a).getD 0) (agentEng a)

/-- The object window of a firmware context, as the die's management core loads it (08 R280). -/
def State.mapFirmware (s : State) (core : Nat) (objs : Tbl ObjDesc) : State := s.setFw core { s.fw core with objs := objs }

/-! ## Windows (08 R274) -/

inductive Window where
  | priv (off : Nat)
  | pad (tag off : Nat)
  | quad (member off : Nat)
  | weight (id off : Nat)
  | glob (h off : Nat)
deriving DecidableEq, Repr

/-- The window of a generic address, or none for an undefined code or a nonzero bit outside the fields. -/
def windowOf (a : Word) : Option Window :=
  let x := a.toNat
  match bits x 63 60 with
  | 0 => if bits x 59 32 = 0 then some (.priv (bits x 31 0)) else none
  | 1 => if bits x 59 47 = 0 ∧ bits x 39 25 = 0 then some (.pad (bits x 46 40) (bits x 24 0)) else none
  | 2 => if bits x 59 42 = 0 ∧ bits x 39 25 = 0 then some (.quad (bits x 41 40) (bits x 24 0)) else none
  | 4 => if bits x 43 40 = 0 then some (.weight (bits x 59 44) (bits x 39 0)) else none
  | 8 => some (.glob (bits x 59 52) (bits x 51 0))
  | _ => none

/-- The class of a window as a bit: private 1, scratchpad 2, quad-shared 4, weight 8, global 16 (04 R135). -/
def windowBit (w : Window) : Nat :=
  match w with | .priv _ => 1 | .pad _ _ => 2 | .quad _ _ => 4 | .weight _ _ => 8 | .glob _ _ => 16

/-! ## Extents (08 R282, R283) -/

/-- The extent number of an offset (08 R282). -/
def extOf (off : Nat) : Nat := off / 2 ^ 21

/-- First generic address of extent `x` through a handle (08 R288). -/
def extAddr (handle x : Nat) : Word := BitVec.ofNat 64 (8 * 2 ^ 60 + handle * 2 ^ 52 + x * 2 ^ 21)

/-- An extent entry: present, its location, and whether its form is one of R282's. -/
structure Extent where
  present : Bool
  host : Bool
  die : Nat
  base : Nat
  ok : Bool
deriving DecidableEq, Repr

def extentOf (e : Nat) : Extent :=
  let loc := bits e 62 60
  let frame := bits e 56 21 * 2 ^ 21
  ⟨bitOf e 63, loc == 1, bits e 59 57, frame,
    decide (loc ≤ 1) && bits e 20 0 == 0 && (loc == 1 || decide (frame < 2 ^ 36))⟩

/-- The entry as the core's extent cache holds it (08 R283). -/
def State.cachedExtent (s : State) (core ctx obj x : Nat) : Option Nat :=
  ((s.core core).xcache.find? fun e => e.ctx == ctx && e.obj == obj && e.ext == x).map (·.val)

/-- The entry of extent `x` in the object's extent list. -/
def State.walkedExtent (s : State) (o : ObjDesc) (x : Nat) : Nat := s.getNat (o.extl + 8 * x) 8

/-- An extent cache of 512 entries, the newest last. -/
def Core.fill (c : Core) (e : ExtentEnt) : Core :=
  let l := c.xcache ++ [e]
  { c with xcache := l.drop (l.length - 512) }

/-- The entry in force for an access: the cached one, or one that is walked and, when present, cached. -/
def State.findExtent (s : State) (v : View) (o : ObjDesc) (x : Nat) : Nat × State :=
  match s.cachedExtent v.core v.ctx o.idx x with
  | some e => (e, s)
  | none =>
    let e := s.walkedExtent o x
    if (extentOf e).present && (extentOf e).ok then
      (e, s.setCore v.core ((s.core v.core).fill ⟨v.ctx, o.idx, x, e⟩))
    else (e, s)

/-- Bit `d` of the context's `DIEMASK` (07 R235). -/
def State.touch (s : State) (c d : Nat) : State :=
  if c < 128 then
    let x := s.ctx c
    s.setCtx c { x with diemask := x.diemask ||| BitVec.ofNat 8 (2 ^ d) }
  else s

/-- The compute die that is the home of an address, if one is. -/
def State.homeDie (s : State) (v : View) (a : Word) : Option Nat :=
  match windowOf a with
  | none => none
  | some (.priv _) => some v.die
  | some (.pad tag _) => some (pairDie tag)
  | some (.quad _ _) => some v.die
  | some (.weight id _) => some (pairDie (s.wobj id).home)
  | some (.glob h off) =>
    (tfind v.objs h).bind fun o =>
      let e := extentOf (s.findExtent v o (extOf off)).1
      if e.present && !e.host then some e.die else none

/-- An access that its home's die does not answer sets the die's bit before it is made (07 R235, 19 R464). -/
def State.touchHome (s : State) (v : View) (a : Word) : State :=
  match s.homeDie v a with
  | none => s
  | some d => s.touch v.ctx d

end Sys2Proof.Machine
end

