-- ==== Sys2Proof/Machine/Ops.lean ====
section
/-! DEFINITION. The shared operations every meaning is written over: how an instruction ends, registers and predicates with
their exposed latencies, tokens and productions, taking a trap and returning from one (spec 01 R25–R27, R41–R56, 03
R107–R112, 12 R321–R344). -/
namespace Sys2Proof.Machine

/-- The outcome of one step of the machine. -/
abbrev Out := Host.Outcome State Fault Refusal

/-! ## How an instruction ends -/

/-- A part of an instruction: it goes on with a value, it traps, or it waits and has no effect yet. -/
inductive Res (α : Type) where
  | ok (a : α) (s : State)
  | trap (cause : Nat) (val : Word)
  | hold (h : Hold)

def Res.bind {α β : Type} (r : Res α) (f : α → State → Res β) : Res β :=
  match r with
  | .ok a s => f a s
  | .trap c v => .trap c v
  | .hold h => .hold h

/-- The first `b` traps unless it holds. -/
def Res.need (b : Bool) (cause : Nat) (val : Word) (k : Res α) : Res α := if b then k else .trap cause val

/-- Runs `f` over a list, each on the state the one before left. -/
def Res.each {α : Type} (l : List α) (s : State) (f : α → State → Res Unit) : Res Unit :=
  match l with
  | [] => .ok () s
  | a :: t => (f a s).bind fun _ s => Res.each t s f

/-- The same, collecting the values. -/
def Res.collect {α β : Type} (l : List α) (s : State) (f : α → State → Res β) : Res (List β) :=
  match l with
  | [] => .ok [] s
  | a :: t => (f a s).bind fun b s => (Res.collect t s f).bind fun bs s => .ok (b :: bs) s

/-- No effect and no wait. -/
def waitFor (k : WaitK) (a : Nat) (v : Word) : Hold := ⟨k, a, v⟩

/-! ## Cause codes (12 R321) -/

def cIllegal : Nat := 0x01
def cStallShort : Nat := 0x02
def cBadWindow : Nat := 0x03
def cSpForeign : Nat := 0x04
def cObjUnloaded : Nat := 0x05
def cObjBounds : Nat := 0x06
def cWeightWrite : Nat := 0x07
def cPageFatal : Nat := 0x08
def cAlign : Nat := 0x09
def cMatrixNotBound : Nat := 0x0A
def cAdapterGone : Nat := 0x0B
def cLoftGated : Nat := 0x0C
def cDieLost : Nat := 0x0D
def cPoison : Nat := 0x0E
def cTokenMisuse : Nat := 0x0F
def cDeferred : Nat := 0x10
def cProt : Nat := 0x11
def cBreak : Nat := 0x12
def cResource : Nat := 0x13
def cSyscall : Nat := 0x14
def cGangLate : Nat := 0x15

/-- PAGE_FATAL is the one fatal cause (12 R321). -/
def causeFatal (c : Nat) : Bool := c == cPageFatal

/-! ## Events without a code of the spec's (log 21) -/

def evHalted : Nat := 0x10001
def evFirmwareTrap : Nat := 0x10002
def evTransferFault : Nat := 0x10003
def evPreempted : Nat := 0x10004
def evPreemptRefused : Nat := 0x10005
def evResumed : Nat := 0x10006
def evStairwell : Nat := 0x10007
def evDeferredFault : Nat := 0x10008

/-! ## Writes in flight (03 R107, R108) -/

/-- Lands the writes that `due` selects, oldest first; what a landed write wrote, no earlier write overwrites. -/
def landPend {w : Nat} (due : Pend w → Bool) (vals : Tbl (BitVec w)) (pend : List (Pend w)) :
    Tbl (BitVec w) × List (Pend w) :=
  pend.foldl (fun acc e =>
    if due e then
      (tset 0 acc.1 e.reg ((tget 0 acc.1 e.reg &&& ~~~e.mask) ||| (e.val &&& e.mask)),
        acc.2.map fun o => if o.reg = e.reg then { o with mask := o.mask &&& ~~~e.mask } else o)
    else (acc.1, acc.2 ++ [e])) (vals, [])

/-- The register's value with every write in flight laid over it, the newest last. -/
def overlay {w : Nat} (reg : Nat) (v : BitVec w) (pend : List (Pend w)) : BitVec w :=
  pend.foldl (fun x e => if e.reg = reg then (x &&& ~~~e.mask) ||| (e.val &&& e.mask) else x) v

/-- A read at position `pos` would miss a write in flight (03 R110). -/
def staleAt {w : Nat} (reg pos : Nat) (pend : List (Pend w)) : Bool :=
  pend.any fun e => e.reg == reg && e.mask != 0 && decide (e.issued < pos) && decide (pos < e.due)

/-! ## Scalar registers (01 R41) -/

/-- Register 0 reads zero. -/
def RegFile.read (r : RegFile) (n : Nat) : Word := if n = 0 then 0 else tget 0 r.vals n

/-- A write of latency `lat`; register 0 ignores writes. -/
def RegFile.write (r : RegFile) (n lat : Nat) (v : Word) : RegFile :=
  if n = 0 then r else { r with pend := r.pend ++ [⟨n, BitVec.allOnes 64, v, r.pos, r.pos + lat⟩] }

/-- The issue position moves by `d`, and the writes whose latency is met land. -/
def RegFile.advance (r : RegFile) (d : Nat) : RegFile :=
  let p := landPend (fun e => decide (e.due ≤ r.pos + d)) r.vals r.pend
  ⟨p.1, p.2, r.pos + d⟩

/-- Every write in flight lands: the issue distance is unbounded (03 R108). -/
def RegFile.settle (r : RegFile) : RegFile := ⟨(landPend (fun _ => true) r.vals r.pend).1, [], r.pos⟩

/-- Register file numbers of a POISON trap: `s` 0, `p` 1, `v` 2, `x` 3 (12 R347). -/
def State.fileNum (s : State) : Nat := if s.inTransferStream then 3 else 0

/-- Whose registers the word in issue uses, as `regPoison` numbers it: a task's by its slot, a firmware context's above those. -/
def State.regOwner (s : State) : Nat :=
  match s.turn.agent with
  | .firmware c => fwSlot c
  | _ => s.me

/-- A register written is no longer poisoned (12 R347). -/
def State.unpoison (s : State) (owner file n : Nat) : State :=
  { s with regPoison := s.regPoison.filter fun e => e != (owner, file, n) }

/-- A later write of an `x` register cancels an earlier return of a remote atomic into it (03 R108). -/
def State.dropReturn (s : State) (slot n : Nat) : State :=
  { s with requests := s.requests.map fun r => if r.slot = slot ∧ r.ret = n then { r with ret := 0 } else r }

/-- The value of a scalar register of the stream in issue. -/
def State.reg (s : State) (n : BitVec 5) : Word := s.rf.read n.toNat

/-- A scalar register of the stream in issue written at latency `lat`. -/
def State.setReg (s : State) (n : BitVec 5) (lat : Nat) (v : Word) : State :=
  let s := s.setRf (s.rf.write n.toNat lat v)
  let s := if s.inTransferStream then s.dropReturn s.me n.toNat else s
  s.unpoison s.regOwner s.fileNum n.toNat

/-- The link register (04 R130). -/
def linkReg : BitVec 5 := 31

/-! ## Predicates -/

/-- A predicate as the scalar stream reads it: the newest write of either engine. -/
def State.pred (s : State) (n : BitVec 4) : PredReg :=
  match s.turn.agent with
  | .firmware c => tget 0 (s.fw c).hart.p n.toNat
  | a =>
    let t := s.task ((agentSlot a).getD 0)
    overlay n.toNat (tget 0 t.hart.p n.toNat) t.pendVP

/-- A predicate written by the scalar stream at latency 1. -/
def State.setPred (s : State) (n : BitVec 4) (v : PredReg) : State :=
  let h := s.hart
  let s := s.setHart { h with pendP := h.pendP ++ [⟨n.toNat, BitVec.allOnes 1024, v, h.rf.pos, h.rf.pos + 1⟩] }
  s.unpoison s.regOwner 1 n.toNat

/-- All 1,024 bits of a predicate. -/
def fillPred (b : Bool) : PredReg := if b then BitVec.allOnes 1024 else 0

/-- `Guard(g)` for a guard of R83; 0xF is always. -/
def State.guard (s : State) (g : BitVec 4) : Bool := g == 15 || (s.pred g).getLsbD 0

/-! ## Sticky flags (01 R46, R47) -/

/-- The scalar-stream flags of the stream in issue gain `f`. -/
def State.raiseFlags (s : State) (f : Flags) : State :=
  s.setHart { s.hart with flags := s.hart.flags ||| f }

/-- The flags of a task gain `f`. -/
def State.raiseTaskFlags (s : State) (k : Nat) (f : Flags) : State :=
  let t := s.task k
  s.setTask k { t with hart := { t.hart with flags := t.hart.flags ||| f } }

/-! ## Tokens (01 R25–R27, R55) -/

def Task.tok (t : Task) (n : Nat) : Tok := tget Tok.init t.toks n

/-- `C` has reached generation `g`: the signed 16-bit difference is not negative (R27). -/
def tokReached (c g : BitVec 16) : Bool := !(c - g).msb

/-- A captured generation is complete; token 63 never waits. -/
def Task.genDone (t : Task) (g : Gen) : Bool := g.tok == 63 || tokReached (t.tok g.tok).c g.gen

/-- `Tok.capture` from the tokens as they stood before the word. -/
def captureFrom (toks : Tbl Tok) (n : BitVec 6) : Option Gen :=
  if n = 63 then none else some ⟨n.toNat, (tget Tok.init toks n.toNat).g⟩

/-- `Tok.produce`: the task with the production outstanding, or nothing when R27 forbids it. -/
def Task.produce (t : Task) (n : BitVec 6) (serial : Option Nat) : Option (Task × Option Gen) :=
  if n = 63 then some (t, none)
  else
    let k := t.tok n.toNat
    if 32768 ≤ (k.g - k.c).toNat + 1 then none
    else
      let g : Gen := ⟨n.toNat, k.g + 1⟩
      some ({ t with toks := tset Tok.init t.toks n.toNat ⟨k.g + 1, k.c⟩, prods := t.prods ++ [⟨g, false, serial⟩] },
        some g)

/-- What a side-log entry belongs to: its own instruction, and the queue markers after it. -/
def SideEnt.owes (e : SideEnt) : List Owed := e.owed :: e.sync.map fun g => { e.owed with prod := some g, serial := none }

/-- What is in flight: stores in the store queues, side-log entries of the cores and those moved for a pre-emption, transfers, remote
atomics, arrivals at barriers, messages a home has not applied, and weight-programming requests. -/
def State.owedList (s : State) : List Owed :=
  s.queued.map (·.owed) ++ (s.cores.flatMap fun c => c.2.sidelog.flatMap SideEnt.owes)
    ++ (s.ctxs.flatMap fun c => c.2.moved.flatMap SideEnt.owes)
    ++ s.xfers.map (·.owed) ++ s.requests.map (·.owed) ++ s.arrivals.map (·.owed)
    ++ (s.chans.flatMap fun c => (c.unacked.drop c.applied).map (·.owed))
    ++ (s.dies.flatMap fun d => d.2.wq.map (·.owed))
    ++ (s.dies.flatMap fun d => match d.2.wcur with
        | some r => if r.phase = .tree then [] else [r.req.owed]
        | none => [])

/-- A production has ended and nothing in flight belongs to it. -/
def prodQuiet (owed : List Owed) (slot : Nat) (p : Prod) : Bool :=
  p.ended && !owed.any fun o => o.slot == slot
    && (o.prod == some p.gen || (p.serial.isSome && o.serial == p.serial))

/-- Completes productions in issue order, token by token (R26). -/
def settleProds (owed : List Owed) (slot : Nat) (t : Task) : Task :=
  let r := t.prods.foldl (fun (acc : Tbl Tok × List Prod) p =>
    if prodQuiet owed slot p && !acc.2.any (fun q => q.gen.tok == p.gen.tok) then
      (tset Tok.init acc.1 p.gen.tok { tget Tok.init acc.1 p.gen.tok with c := p.gen.gen }, acc.2)
    else (acc.1, acc.2 ++ [p])) (t.toks, [])
  { t with toks := r.1, prods := r.2 }

/-- `Tok.complete` of whatever may complete at slot `k`. -/
def State.settle (s : State) (k : Nat) : State :=
  if s.bound k && !(s.task k).prods.isEmpty then s.setTask k (settleProds s.owedList k (s.task k)) else s

/-- The same for the saved image of a task of an absent context (12 R339). -/
def State.settleSaved (s : State) (c : Nat) : State :=
  let x := s.ctx c
  if x.tasks.isEmpty then s
  else
    let owed := s.owedList
    s.setCtx c { x with tasks := x.tasks.map fun t => { t with task := settleProds owed t.slot t.task } }

/-- Every task's completions, present or absent. -/
def State.settleAll (s : State) : State :=
  let s := (s.tasks.map (·.1)).foldl (fun s k => s.settle k) s
  (s.ctxs.map (·.1)).foldl (fun s c => s.settleSaved c) s

/-- A production's word has ended. -/
def Task.endProd (t : Task) (g : Option Gen) : Task :=
  match g with
  | none => t
  | some g => { t with prods := t.prods.map fun p => if p.gen = g then { p with ended := true } else p }

/-! ## Firmware traps (12 R328) -/

/-- Byte address of the first bundle of a handler (01 R44). -/
def handlerOf (tvec : Word) : Word := tvec &&& ~~~3

/-- `TCAUSE` (01 R43). -/
def causeWord (orig eng code : Nat) : Word := BitVec.ofNat 64 (orig * 4096 + eng * 512 + code)

/-- A trap taken in the firmware context of core `c`; its own handler, or a halt when it is already in it. -/
def State.trapFirmware (s : State) (c cause : Nat) (val pc : Word) : State :=
  let f := s.fw c
  let h := { f.hart with tcause := causeWord 0 0 cause, tval := val, tepc := pc,
                         rf := f.hart.rf.settle, p := (landPend (fun _ => true) f.hart.p f.hart.pendP).1, pendP := [] }
  let f := if h.inhdl then { f with hart := h, halted := true }
    else { f with hart := { h with inhdl := true, pc := handlerOf h.tvec } }
  (s.setFw c f).tellMgmt evFirmwareTrap [coreDie c, c, cause, val.toNat]

/-! ## Stop records and the halt line (12 R322–R325) -/

/-- Every write in flight of a task lands (03 R108). -/
def Task.land (t : Task) : Task :=
  let p := landPend (fun _ => true) t.hart.p (t.hart.pendP ++ t.pendVP)
  { t with
    hart := { t.hart with rf := t.hart.rf.settle, p := p.1, pendP := [] },
    xrf := t.xrf.settle,
    v := (landPend (fun _ => true) t.v t.pendV).1, pendV := [], pendVP := [] }

/-- The same of the engines' writes alone: vector registers, predicates and `x` registers. -/
def Task.landEngines (t : Task) : Task :=
  { t with
    hart := { t.hart with p := (landPend (fun _ => true) t.hart.p t.pendVP).1 },
    xrf := t.xrf.settle,
    v := (landPend (fun _ => true) t.v t.pendV).1, pendV := [], pendVP := [] }

/-- `IDX(L)` of a nest level; 7 reads as 0 (06 R208, R209). -/
def idxOf (idx : List Nat) (l : Nat) : Nat := if l = 7 then 0 else idx.getD l 0

/-- The word the matrix engine is at, as a number of 192 bits. -/
def State.matrixWord (s : State) (t : Task) (r : Running) : Nat := s.codeBytes t.code 2 r.pc.toNat 24

/-- Its effective k-block number (06 R209), or the one that the block of a resumed split word gives (R224). -/
def effKb (m : Matrix) (r : Running) (kb : Nat) : Nat :=
  r.kb.getD (kb + (match m.act with | none => 0 | some a => idxOf r.idx a.klev))

/-- A continuation block with WHY 1, every other field left (13 R351). -/
def faultBlock (x : Nat) : Nat := x - bits x 15 8 * 256 + 256

/-- The continuation block of the operation that the matrix engine of a task has in progress: of an operation that traps before a row
of it has begun again, the block that it goes on from (06 R228, 13 R351). -/
def State.blockFor (s : State) (t : Task) (m : Matrix) (r : Running) (why : Nat) : Nat :=
  match r.block, raisedBy t 2 with
  | some x, some _ => faultBlock x
  | _, _ =>
    let w := s.matrixWord t r
    ofBytes (continuation t m r why (effKb m r (bits w 85 78)) w)

/-- The record of one engine of the task at `k` written into its stop area; with the matrix engine's goes the continuation
block when it has an operation in progress. -/
def State.writeRecord (s : State) (k eng why : Nat) : State :=
  let t := s.task k
  let top := t.frame
  let m := s.mat (slotPair k)
  let isBound := !slotLoft k && m.bound == some k
  match eng with
  | 0 => s.putBytes (frameKey t (top - 512)) (controlRecord t)
  | 1 => s.putBytes (frameKey t (top - 448)) (vectorRecord t)
  | 2 =>
    let s := s.putBytes (frameKey t (top - 384)) (matrixRecord t isBound (s.getNat (frameKey t (top - 248)) 8))
    (match isBound, t.mat.cur with
    | true, some r =>
      let x := s.blockFor t m r why
      (s.setTask k { t with mat := { t.mat with cur := some { r with block := some x } } }).putBytes (frameKey t (top - 256))
        (bytesOf 128 x)
    | _, _ => s)
  | _ => s.putBytes (frameKey t (top - 320)) (transferRecord t)

/-- Every record of the task at `k`, and the rest of its stop area. -/
def State.writeStop (s : State) (k why : Nat) : State :=
  let t := s.task k
  let s := [0, 1, 2, 3].foldl (fun s e => s.writeRecord k e why) s
  s.putBytes (frameKey t (t.frame - 128)) (List.replicate 128 0)

/-- The matrix engine of a task has work under way that has not stopped. -/
def Task.matrixBusy (t : Task) : Bool := t.mat.cur.isSome && !t.stopped

/-- Every engine of every task of a context has stopped, or can stop at once. -/
def State.quiet (s : State) (c : Nat) : Bool := (s.ctxSlots c).all fun k => !(s.task k).matrixBusy

/-- What the trap leaves of the matrix engine's state for a handler (06 R229): both tables invalid. -/
def State.parkMatrix (s : State) (k : Nat) : State :=
  let m := s.mat (slotPair k)
  if !slotLoft k && m.bound == some k then
    s.setMat (slotPair k)
      { m with parked := some ⟨m.act, m.shadow, m.latched⟩, act := none, shadow := none, latched := none }
  else s

/-- `TCAUSE`, `TVAL` and `TEPC` of a trap (01 R55). -/
def Hart.setTrap (h : Hart) (r : Raised) : Hart :=
  { h with tcause := causeWord r.orig r.eng r.cause, tval := r.val, tepc := r.tepc }

/-- The task at `k` enters its handler for a recorded trap (12 R325, R326). -/
def State.enterHandler (s : State) (k : Nat) (r : Raised) : State :=
  let parks := (s.task k).mat.cur.isSome
  let s := s.parkMatrix k
  let t := s.task k
  let fresh := fun (e : Eng) => (⟨[], none, e.pc⟩ : Eng)
  s.setTask k
    { t with
      aside := some ⟨t.vec, t.mat, t.xfer, t.hold, t.waits, t.serial⟩, vec := fresh t.vec, mat := fresh t.mat, xfer := fresh t.xfer,
      hold := Hold.init, waits := [],
      hart := { t.hart.setTrap r with inhdl := true, mpark := parks, pc := handlerOf t.hart.tvec } }

/-- A trap of task `k` that ends the context (12 R325, R328, R329). -/
def Task.fatalWith (t : Task) (r : Raised) : Bool :=
  t.hart.inhdl || causeFatal r.cause || (r.cause == cDeferred && causeFatal r.orig)

/-- A fatal trap's report to the host: the cause, `TVAL`, the task and the engine (12 R329). -/
def State.reportFatal (s : State) (c k : Nat) (r : Raised) : State :=
  s.tellCtx c evHalted [c, r.cause, r.val.toNat, (s.task k).lnum, (s.task k).idx, r.eng]

/-- The context stays halted and the host is told (12 R329). What its tasks have raised stands in their records. -/
def State.fatalHalt (s : State) (c k : Nat) (r : Raised) : State :=
  let s := if s.bound k then s.setTask k { s.task k with hart := (s.task k).hart.setTrap r } else s
  let s := (s.ctxSlots c).foldl (fun s k => s.setTask k { s.task k with raised := [] }) s
  (s.setCtx c { s.ctx c with st := .halted, halt := true }).reportFatal c k r

/-- The loss of a die, taken by every task of a context (12 R348). -/
def Raised.isLoss (r : Raised) : Bool := r.cause == cDieLost && r.val.msb

/-- The engines of a task go on from their records: the split matrix operation reloads its weights (12 R325). Of what it raised
behind the trap delivered, a word's trap comes again with the word; the loss of a die waits for the handler's end. -/
def State.releaseTask (s : State) (k : Nat) : State :=
  let t := s.task k
  let s := if t.mat.cur.isSome && !slotLoft k then
      s.setMat (slotPair k) { s.mat (slotPair k) with reload := true } else s
  s.setTask k { t with stopped := false, raised := [], later := t.later ++ (t.raised.drop 1).filter Raised.isLoss }

/-- WHY of a continuation written at a delivery: 3 where the task enters its handler with the operation parked, 1 where the
matrix engine's own word trapped or another task's fault stopped it (06 R228). -/
def stopWhy (l : List Raised) : Nat :=
  match l with
  | [] => 1
  | r :: _ => if r.eng = 2 then 1 else 3

/-- Delivery of every trap a context's tasks have raised, once its engines have stopped: each task's first trap. -/
def State.deliver (s : State) (c : Nat) : State :=
  let ks := s.ctxSlots c
  let hit := ks.filter fun k => !(s.task k).raised.isEmpty
  let s := hit.foldl (fun s k => s.setTask k (s.task k).land) s
  let s := ks.foldl (fun s k => s.writeStop k (stopWhy (s.task k).raised)) s
  let fatal := hit.find? fun k => match (s.task k).raised with
    | [] => false
    | r :: _ => (s.task k).fatalWith r
  match fatal with
  | some k => match (s.task k).raised with
    | [] => s
    | r :: _ => s.fatalHalt c k r
  | none =>
    let s := hit.foldl (fun s k => match (s.task k).raised with
      | [] => s
      | r :: _ => s.enterHandler k r) s
    let s := ks.foldl (fun s k => s.releaseTask k) s
    let x := s.ctx c
    s.setCtx c { x with halt := x.stage != .none }

/-- A trap of the task at `k`, raised in engine `eng`: the context's halt line rises, and the trap is delivered when every
engine has stopped (12 R325). In a context that a fatal trap has halted it joins the report (R329). -/
def State.raiseTrap (s : State) (k : Nat) (r : Raised) : State :=
  let t := s.task k
  if (s.ctx t.ctx).st = .halted then s.reportFatal t.ctx k r
  else
  let s := s.setTask k { t with raised := t.raised ++ [r] }
  let s := s.setCtx t.ctx { s.ctx t.ctx with halt := true }
  if s.quiet t.ctx then s.deliver t.ctx else s

/-- The address `TEPC` gets: the bundle, or for an engine the bundle that started its block (01 R44). -/
def State.epc (s : State) (k eng : Nat) : Word :=
  let t := s.task k
  let from_ := fun (e : Eng) => (e.cur.map (·.blk.bundle)).getD 0
  match eng with
  | 0 => t.hart.pc
  | 1 => from_ t.vec
  | 2 => from_ t.mat
  | 3 => from_ t.xfer
  | _ => t.hart.pc

/-- `Trap(c, v)` of R55: TAKING A TRAP in whichever stream is in issue. -/
def State.takeTrap (s : State) (cause : Nat) (val : Word) : State :=
  let s := if cause = cDieLost then s.touchHome s.view val else s
  match s.turn.agent with
  | .firmware c => s.trapFirmware c cause val (s.fw c).hart.pc
  | .scalar k => s.raiseTrap k ⟨0, cause, 0, val, s.epc k 0⟩
  | .vector k => s.raiseTrap k ⟨1, cause, 0, val, s.epc k 1⟩
  | .matrix k =>
    let t := s.task k
    (s.setTask k { t with stopped := true }).raiseTrap k ⟨2, cause, 0, val, s.epc k 2⟩
  | .transfer k => s.raiseTrap k ⟨3, cause, 0, val, s.epc k 3⟩
  | _ => s

/-- The age of an access that an extent holds: the age it has had since it was first held there (08 R288). -/
def State.noteHeld (s : State) (a : Agent) (h : Hold) : State :=
  if h.kind ≠ .extent then s
  else if s.heldSince.any fun e => e.1 == a && e.2.1 == h.v then s
  else { s with heldSince := (s.heldSince.filter fun e => e.1 != a) ++ [(a, h.v, s.nextId)], nextId := s.nextId + 1 }

/-- What a wait of the word in issue does: the stream keeps its place and the wait is noted. -/
def State.takeHold (s : State) (h : Hold) : State :=
  let note := fun (e : Eng) => { e with cur := e.cur.map fun r => { r with hold := h } }
  let s := s.noteHeld s.turn.agent h
  match s.turn.agent with
  | .scalar k => s.setTask k { s.task k with hold := h }
  | .vector k => s.setTask k { s.task k with vec := note (s.task k).vec }
  | .matrix k => s.setTask k { s.task k with mat := note (s.task k).mat }
  | .transfer k => s.setTask k { s.task k with xfer := note (s.task k).xfer }
  | _ => s

/-- A wait of a bundle that has issued, before the next one: TWAIT, BAR and EXIT. A second TWAIT of the bundle is kept with
it (04 R148, R156, 07 R247). -/
def State.holdAfter (s : State) (h : Hold) : State :=
  match s.turn.agent with
  | .scalar k =>
    let t := s.task k
    let asGen := fun (x : Hold) => if x.kind = .twait then [(⟨x.a, x.v.setWidth 16⟩ : Gen)] else []
    match t.hold.kind, h.kind with
    | .none, _ => s.setTask k { t with hold := h }
    | _, .twait => s.setTask k { t with waits := t.waits ++ asGen h }
    | _, _ => s.setTask k { t with hold := h, waits := t.waits ++ asGen t.hold }
  | _ => s.takeHold h

/-- How a meaning ends: it has its effect, it takes its trap with no other effect, or it waits with none. -/
def finish (s : State) (r : Res Unit) : Out :=
  match r with
  | .ok _ t => .next t
  | .trap c v => .next { s.takeTrap c v with turn := { s.turn with stop := .trapped c v } }
  | .hold h => .next { s.takeHold h with turn := { s.turn with stop := .held h } }

/-- A guarded word: a false guard has no effect (03 R83). -/
def guarded (g : BitVec 4) (s : State) (r : Res Unit) : Out := if s.guard g then finish s r else .next s

/-! ## Deferred faults (12 R343, R344) -/

/-- The trap a deferred fault raises. -/
def State.deferredTrap (s : State) (f : DefFault) : Raised :=
  ⟨f.eng, cDeferred, f.cause, f.addr, (s.task f.slot).hart.pc⟩

/-- A deferred fault against a task that is bound: at once, or after its handler, one that another trap is about to enter
among them. -/
def State.deferFault (s : State) (f : DefFault) : State :=
  let t := s.task f.slot
  if s.bound f.slot && t.ctx == f.ctx && t.lnum == f.lnum then
    if t.hart.inhdl || !t.raised.isEmpty then s.setTask f.slot { t with deferred := t.deferred ++ [f] }
    else
      let s := s.setTask f.slot { t with atEret := t.atEret ++ f.prod.toList }
      s.raiseTrap f.slot (s.deferredTrap f)
  else s.tellCtx f.ctx evDeferredFault [f.ctx, f.slot, f.cause, f.addr.toNat]

/-! ## Returning from a handler (07 R270, 12 R326, R327) -/

/-- A stop record as ERET reads it. -/
def State.recordField (s : State) (k back off n : Nat) : Nat :=
  s.getNat (frameKey (s.task k) ((s.task k).frame - back + off)) n

/-- The record's reserved bytes are zero and its version is 1 (12 R327). `last` is the first reserved byte of its tail. -/
def State.recordFormOk (s : State) (k back eng : Nat) : Bool :=
  let f := fun off n => s.recordField k back off n
  f 0 1 == 1 && (match eng with
    | 0 => f 26 38 == 0
    | 1 => f 44 20 == 0
    | 2 => f 24 40 == 0
    | _ => f 24 8 == 0 && f 40 24 == 0)

/-- ACTIVE of a record. -/
def State.recordActive (s : State) (k back : Nat) : Bool := (s.recordField k back 2 1).testBit 0

/-- The record's PC is aligned and lies within its stream section. -/
def State.recordPcOk (s : State) (k back eng : Nat) : Bool :=
  let pc := s.recordField k back 8 8
  let size := s.sectionSize (s.task k).code (match eng with | 0 => 0 | 1 => 1 | _ => 3)
  let step := if eng = 1 then 12 else 4
  let inside := pc % step == 0 && decide (pc < size)
  match eng with
  | 0 => inside
  | 1 => !s.recordActive k back || inside || pc == s.recordField k back 32 8 + 12 * s.recordField k back 40 4
  | _ => !s.recordActive k back || inside

/-- The first of the task's records that fails a check, as its offset below the frame's end. -/
def State.badRecord (s : State) (k : Nat) : Option Nat :=
  let ok := fun back eng => s.recordFormOk k back eng && (eng == 2 || s.recordPcOk k back eng)
  if !ok 512 0 then some 512 else if !ok 448 1 then some 448 else if !ok 384 2 then some 384
  else if !ok 320 3 then some 320 else none

/-- An engine restored at the PC its record now holds. A changed PC completes the recorded production, and a vector PC at the
run's end goes on with the next run, or ends the block with its last. -/
def State.restoreEngine (s : State) (k back eng : Nat) (e : Eng) : Eng × List (Option Gen) :=
  match e.cur with
  | none => (e, [])
  | some r =>
    let pc := BitVec.ofNat 64 (s.recordField k back 8 8)
    if !s.recordActive k back || pc == r.pc then (e, [])
    else
      let step := if eng = 1 then 12 else 4
      let rel := ((pc - r.start).toNat) / step
      let r' := { r with pc := pc, word := rel, pre := none, hold := Hold.init }
      if eng = 1 && rel == r.n && pc == r.start + BitVec.ofNat 64 (12 * r.n) then
        if r.run + 1 < r.blk.runs then
          ({ e with cur := some { r' with pc := r.start, word := 0, run := r.run + 1 } }, [runningProd r])
        else ({ e with cur := none, pc := pc }, [runningProd r, r.blk.prod])
      else ({ e with cur := some r' }, [runningProd r])

/-- The engines run nothing and have nothing queued. -/
def Task.enginesIdle (t : Task) : Bool :=
  t.vec.cur.isNone && t.mat.cur.isNone && t.xfer.cur.isNone && t.vec.queue.isEmpty && t.mat.queue.isEmpty
    && t.xfer.queue.isEmpty

/-- Every block the handler started has completed, its transfers with it (12 R326, 04 R141). -/
def State.handlerBlocksDone (s : State) (k : Nat) : Bool :=
  let t := s.task k
  let from_ := (t.aside.map (·.serial)).getD t.serial
  t.enginesIdle && !s.owedList.any fun o => o.slot == k && (o.serial.any fun n => decide (from_ ≤ n))

/-- The matrix state a handler entry set aside goes back, its weights to be reloaded (06 R229). -/
def State.unparkMatrix (s : State) (k : Nat) : State :=
  let m := s.mat (slotPair k)
  match m.parked with
  | some p =>
    let m := { m with act := p.act, shadow := p.shadow, latched := p.latched, parked := none }
    s.setMat (slotPair k) { m with reload := (s.task k).hart.mpark }
  | none => s

/-- The return of a task from its handler: what was set aside is restored, and control goes on at `TEPC` or at the PC of the
control core's record. -/
def State.leaveHandler (s : State) (k : Nat) : State :=
  let t := s.task k
  let eng := bits t.hart.tcause.toNat 11 9
  let own := BitVec.ofNat 64 (s.recordField k 512 8 8)
  let target := if eng = 0 then t.hart.tepc else own
  let a := t.aside.getD ⟨t.vec, t.mat, t.xfer, Hold.init, [], t.serial⟩
  let v := s.restoreEngine k 448 1 a.vec
  let x := s.restoreEngine k 320 3 a.xfer
  let s := s.unparkMatrix k
  let t := t.landEngines
  let t := { t with
    vec := v.1, mat := a.mat, xfer := x.1, aside := none,
    hold := if target == own then a.hold else Hold.init,
    waits := if target == own then a.waits else [],
    hart := { t.hart with inhdl := false, mpark := false } }
  let t := (v.2 ++ x.2).foldl Task.endProd t
  let t := { (t.atEret.foldl (fun t g => t.endProd (some g)) t) with atEret := [] }
  let s := (s.setTask k t).settle k
  s.setTurn { s.turn with next := target }

/-- RETURNING FROM A TRAP: ERET in whichever stream is in issue. -/
def State.returnFromTrap (s : State) : Res Unit :=
  if !s.hart.inhdl then .trap cIllegal s.turn.wordPc
  else
    match s.turn.agent with
    | .scalar k =>
      if !s.handlerBlocksDone k then .hold Hold.init
      else
        match s.badRecord k with
        | some back => .trap cIllegal (BitVec.ofNat 64 ((s.task k).frame - back))
        | none => .ok () (s.leaveHandler k)
    | _ =>
      let h := s.hart
      let s := s.setHart { h with inhdl := false }
      .ok () (s.setTurn { s.turn with next := h.tepc })

/-- A fault waits for the task's next ERET. -/
def Task.faultPending (t : Task) : Bool := !t.deferred.isEmpty || !t.later.isEmpty

/-- The next fault that waits for the end of the handler of the task at `k` is delivered, if its handler has ended. -/
def State.nextDeferred (s : State) (k : Nat) : State :=
  let t := s.task k
  match t.later, t.deferred with
  | r :: rest, _ => if t.hart.inhdl then s else (s.setTask k { t with later := rest }).raiseTrap k { r with tepc := t.hart.pc }
  | [], [] => s
  | [], f :: rest =>
    if t.hart.inhdl then s
    else
      let s := s.setTask k { t with deferred := rest, atEret := f.prod.toList }
      s.raiseTrap k (s.deferredTrap f)

end Sys2Proof.Machine
end

