-- ==== Sys2Proof/Machine/Csr.lean ====
section
/-! DEFINITION. The control and status registers: what each number reads as and what a write of it changes (spec 01
R42–R54). -/
namespace Sys2Proof.Machine

/-- A field of a register value: the value placed at bit `lo`. -/
def at_ (x lo : Nat) : Nat := x * 2 ^ lo

/-- `TSTAT` (01 R45). -/
def State.csrTstat (s : State) : Nat :=
  let h := s.hart
  let slot := if s.inFirmware then 0xF else slotIndex s.me
  at_ (boolNat (coreLoft s.myCore)) 16 + at_ (boolNat h.hres) 15 + at_ (boolNat h.inhdl) 14
    + at_ (boolNat h.mpark) 13 + at_ (boolNat s.inFirmware) 12 + at_ slot 8

/-- `FCSR` (01 R46). -/
def Hart.csrFcsr (h : Hart) : Nat := at_ h.rm.toNat 6 + h.flags.toNat

/-- `TERR`: while time is not locked the bound reads 0x7FFF_FFFF (01 R49, R50). -/
def Die.csrTerr (d : Die) : Nat := if d.unlk then 0xFFFFFFFF else d.bound % 2 ^ 31

/-- `LSCAP` (01 R51). -/
def State.csrLscap (s : State) : Nat := at_ (boolNat (s.die s.myDie).loft) 32 + s.lsBytes s.myPair

/-- `LSSPLIT` (01 R51). -/
def Pair.csrLssplit (p : Pair) : Nat := at_ (boolNat p.mov) 16 + at_ p.tgt 8 + p.cmib

/-- `MGOV`; a loft core reads zero (01 R14, R51). -/
def State.csrMgov (s : State) : Nat :=
  let m := s.mat s.myPair
  if coreLoft s.myCore then 0 else at_ m.step 16 + m.budget

/-- The stairwell's STATE code (01 R51). -/
def stairCode (x : StairState) : Nat := match x with | .opened => 0 | .closing => 1 | .closed => 2

/-- `VFCFG` (01 R51). -/
def State.csrVfcfg (s : State) : Nat :=
  at_ (stairCode (s.pair s.myPair).stair) 14 + boolNat (s.core s.myCore).en

/-- Entries in a core's outbound FIFO: upward from the floor, downward from the loft (01 R16). -/
def State.outbound (s : State) (c : Nat) : List VecReg :=
  if coreLoft c then (s.pair (corePair c)).down else (s.pair (corePair c)).up

/-- Entries in a core's inbound FIFO. -/
def State.inbound (s : State) (c : Nat) : List VecReg :=
  if coreLoft c then (s.pair (corePair c)).up else (s.pair (corePair c)).down

/-- `WPSTAT` (01 R54). -/
def Task.csrWpstat (t : Task) : Nat :=
  at_ t.wseq.toNat 16 + at_ t.witer.toNat 8 + at_ (boolNat (decide (0 < t.wbusy))) 4 + t.wres.toNat

/-- `CORENUM` (01 R53). -/
def State.csrCorenum (s : State) : Nat := at_ (boolNat (coreLoft s.myCore)) 15 + s.myPair

/-- A register that the task slot alone has; the firmware context reads its reset value (log 20). -/
def State.slotCsr (s : State) (reset : Nat) (f : Task → Nat) : Nat :=
  if s.inFirmware then reset else f (s.task s.me)

/-- The value of a CSR by number, or none for a number that R42 does not list. -/
def State.csr (s : State) (n : Nat) : Option Word :=
  let h := s.hart
  let d := s.die s.myDie
  let nat := fun (x : Nat) => some (BitVec.ofNat 64 x)
  match n with
  | 0x000 => some h.tvec
  | 0x001 => some h.tcause
  | 0x002 => some h.tval
  | 0x003 => some h.tepc
  | 0x004 => nat s.csrTstat
  | 0x005 => nat (s.slotCsr 0 fun t => t.hart.csrFcsr)
  | 0x010 => some d.cycle
  | 0x011 => some d.ptime
  | 0x012 => nat h.frac.toNat
  | 0x013 => nat d.csrTerr
  | 0x020 => nat s.csrLscap
  | 0x021 => nat (s.pair s.myPair).csrLssplit
  | 0x030 => nat s.csrMgov
  | 0x031 => nat (if coreLoft s.myCore then 0 else (s.mat s.myPair).stalls)
  | 0x032 => nat s.csrVfcfg
  | 0x033 => nat (32 - (s.outbound s.myCore).length)
  | 0x034 => nat (s.core s.myCore).fwN
  | 0x040 => nat (s.slotCsr 0 fun t => (s.ctx t.ctx).diemask.toNat)
  | 0x041 => nat (s.slotCsr 0 fun t => t.ctx)
  | 0x042 => nat (s.slotCsr 0 fun t => t.idx)
  | 0x043 => nat s.csrCorenum
  | 0x050 => nat (s.slotCsr 0 fun t => boolNat t.hart.scb)
  | 0x051 => nat (s.slotCsr 0 fun t => t.csrWpstat)
  | 0x052 => nat (s.slotCsr 0xFF00000FFF fun t => at_ t.model.toNat 32 + t.adpt.toNat)
  | _ => none

/-- Whether R42 lists the number. -/
def csrListed (n : Nat) : Bool :=
  [0x000, 0x001, 0x002, 0x003, 0x004, 0x005, 0x010, 0x011, 0x012, 0x013, 0x020, 0x021, 0x030, 0x031, 0x032, 0x033,
    0x034, 0x040, 0x041, 0x042, 0x043, 0x050, 0x051, 0x052].contains n

/-- A firmware write of 1 to 32: 0 is stored as 1, above 32 as 32 (01 R52). -/
def clampBeats (x : Nat) : Nat := max 1 (min 32 x)

/-- A firmware write of a register of its core (01 R42, R51, R53); from a task it is ignored (R19). -/
def State.writeCoreCsr (s : State) (n : Nat) (v : Word) : State :=
  if !s.inFirmware then s
  else if n = 0x034 then s.setCore s.myCore { s.core s.myCore with fwN := min 64 (bits v.toNat 6 0) }
  else if coreLoft s.myCore then s
  else if n = 0x030 then
    s.setMat s.myPair { s.mat s.myPair with
      budget := clampBeats (bits v.toNat 5 0), step := clampBeats (bits v.toNat 21 16) }
  else if n = 0x031 then s.setMat s.myPair { s.mat s.myPair with stalls := v.toNat }
  else s

/-- The RW fields of a CSR take the matching bits of `v` (04 R139). -/
def State.writeCsr (s : State) (n : Nat) (v : Word) : State :=
  let h := s.hart
  match n with
  | 0x000 => s.setHart { h with tvec := handlerOf v }
  | 0x001 => s.setHart { h with tcause := v &&& 0xFFEFF }
  | 0x002 => s.setHart { h with tval := v }
  | 0x003 => s.setHart { h with tepc := v }
  | 0x004 => s.setHart { h with hres := v.getLsbD 15, inhdl := v.getLsbD 14 }
  | 0x005 =>
    if s.inFirmware then s
    else s.setHart { h with rm := v.extractLsb' 6 2, flags := v.setWidth 5 }
  | 0x050 => if s.inFirmware then s else s.setHart { h with scb := v.getLsbD 0 }
  | _ => s.writeCoreCsr n v

/-- A write that later bundles see: CSRW's, and with number 0x112 the latch of `PTIMEF` (01 R50, 03 R111). -/
def State.applyCsr (s : State) (e : Nat × Word) : State :=
  if e.1 = 0x112 then s.setHart { s.hart with frac := e.2.setWidth 16 } else s.writeCsr e.1 e.2

/-- The bundle's CSR writes take effect. -/
def State.landCsr (s : State) : State :=
  let l := s.hart.pendCsr
  let s := s.setHart { s.hart with pendCsr := [] }
  l.foldl (fun s e => s.applyCsr e) s

/-- A CSR write noted for the end of the bundle. -/
def State.noteCsr (s : State) (n : Nat) (v : Word) : State :=
  s.setHart { s.hart with pendCsr := s.hart.pendCsr ++ [(n, v)] }

end Sys2Proof.Machine
end

