-- ==== Sys2Proof/Machine/Flags.lean ====
section
/-! DEFINITION. Scalar comparisons, and the scalar results that set a flag (spec 04 R125, R127, 02 R68). -/
namespace Sys2Proof.Machine

/-- The condition codes of CMP, CMPI and the command words (04 R127). -/
def condHolds (c : Nat) (x y : Word) : Bool :=
  match c with
  | 0 => x == y
  | 1 => x != y
  | 2 => x.slt y
  | 3 => x.ult y
  | 4 => y.sle x
  | _ => y.ule x

/-- Signed division truncating toward zero, division by zero and the overflow case as R68 gives them; the flag is NV. -/
def divS (x y : Word) : Word × Flags := if y = 0 then (BitVec.allOnes 64, fNV) else (x.sdiv y, fNone)

def divU (x y : Word) : Word × Flags := if y = 0 then (BitVec.allOnes 64, fNV) else (x.udiv y, fNone)

def remS (x y : Word) : Word × Flags := if y = 0 then (x, fNV) else (x.srem y, fNone)

def remU (x y : Word) : Word × Flags := if y = 0 then (x, fNV) else (x.umod y, fNone)

/-- Leading zero bits of the low `n` bits, from the top. -/
def clzFrom : Nat → Word → Nat
  | 0, _ => 0
  | n + 1, x => if x.getLsbD n then 0 else 1 + clzFrom n x

/-- One bits among the low `n`. -/
def popcFrom : Nat → Word → Nat
  | 0, _ => 0
  | n + 1, x => (if x.getLsbD n then 1 else 0) + popcFrom n x

end Sys2Proof.Machine
end

