-- ==== Sys2Proof/Machine/Crypto.lean ====
section
/-! DEFINITION. The two functions of FIPS that the spec names: SHA-256 (14 R369, 18 R446, 20 R475) and the AES-256 block cipher (08
R289). Logs 7 and 8. -/
namespace Sys2Proof.Machine

/-! ## SHA-256 -/

/-- A 32-bit word of the hash. -/
abbrev HashWord := BitVec 32

/-- The constants of rounds 0 to 63. -/
def shaRounds : List HashWord :=
  [0x428a2f98, 0x71374491, 0xb5c0fbcf, 0xe9b5dba5, 0x3956c25b, 0x59f111f1, 0x923f82a4, 0xab1c5ed5,
    0xd807aa98, 0x12835b01, 0x243185be, 0x550c7dc3, 0x72be5d74, 0x80deb1fe, 0x9bdc06a7, 0xc19bf174]
  ++ [0xe49b69c1, 0xefbe4786, 0x0fc19dc6, 0x240ca1cc, 0x2de92c6f, 0x4a7484aa, 0x5cb0a9dc, 0x76f988da,
    0x983e5152, 0xa831c66d, 0xb00327c8, 0xbf597fc7, 0xc6e00bf3, 0xd5a79147, 0x06ca6351, 0x14292967]
  ++ [0x27b70a85, 0x2e1b2138, 0x4d2c6dfc, 0x53380d13, 0x650a7354, 0x766a0abb, 0x81c2c92e, 0x92722c85,
    0xa2bfe8a1, 0xa81a664b, 0xc24b8b70, 0xc76c51a3, 0xd192e819, 0xd6990624, 0xf40e3585, 0x106aa070]
  ++ [0x19a4c116, 0x1e376c08, 0x2748774c, 0x34b0bcb5, 0x391c0cb3, 0x4ed8aa4a, 0x5b9cca4f, 0x682e6ff3,
    0x748f82ee, 0x78a5636f, 0x84c87814, 0x8cc70208, 0x90befffa, 0xa4506ceb, 0xbef9a3f7, 0xc67178f2]

/-- The hash value before the first block. -/
def shaInit : List HashWord :=
  [0x6a09e667, 0xbb67ae85, 0x3c6ef372, 0xa54ff53a, 0x510e527f, 0x9b05688c, 0x1f83d9ab, 0x5be0cd19]

/-- The exclusive or of three rotations to the right. -/
def shaSum (a b c : Nat) (x : HashWord) : HashWord := x.rotateRight a ^^^ x.rotateRight b ^^^ x.rotateRight c

/-- The exclusive or of two rotations and a shift to the right. -/
def shaSigma (a b c : Nat) (x : HashWord) : HashWord := x.rotateRight a ^^^ x.rotateRight b ^^^ (x >>> c)

/-- The message schedule carried on for `n` words: the words so far, newest first. -/
def shaSchedule (n : Nat) (w : List HashWord) : List HashWord :=
  match n with
  | 0 => w
  | k + 1 =>
    let at_ := fun i => w.getD i 0
    shaSchedule k ((shaSigma 17 19 10 (at_ 1) + at_ 6 + shaSigma 7 18 3 (at_ 14) + at_ 15) :: w)

/-- One round: the eight words with a constant plus its schedule word. -/
def shaRound (v : List HashWord) (k : HashWord) : List HashWord :=
  match v with
  | [a, b, c, d, e, f, g, h] =>
    let t1 := h + shaSum 6 11 25 e + ((e &&& f) ^^^ (~~~e &&& g)) + k
    let t2 := shaSum 2 13 22 a + ((a &&& b) ^^^ (a &&& c) ^^^ (b &&& c))
    [t1 + t2, a, b, c, d + t1, e, f, g]
  | v => v

/-- A word from four bytes, the most significant first. -/
def shaWord (b : List Byte) : HashWord := BitVec.ofNat 32 (b.foldl (fun n x => n * 256 + x.toNat) 0)

/-- Runs of `n` elements. -/
def chunksOf {α : Type} (n fuel : Nat) (l : List α) : List (List α) :=
  match fuel with
  | 0 => []
  | k + 1 => l.take n :: chunksOf n k (l.drop n)

/-- The hash value after one block of 64 bytes. -/
def shaBlock (v : List HashWord) (b : List Byte) : List HashWord :=
  let w := (shaSchedule 48 ((chunksOf 4 16 b).map shaWord).reverse).reverse
  let r := (List.zipWith (· + ·) shaRounds w).foldl shaRound v
  List.zipWith (· + ·) v r

/-- A number as `n` bytes, the most significant first. -/
def bytesBig (n x : Nat) : List Byte := (List.range n).map fun i => BitVec.ofNat 8 (x / 256 ^ (n - 1 - i))

/-- A message padded to whole blocks: a one bit, zeros, and its length in bits. -/
def shaPad (b : List Byte) : List Byte :=
  b ++ [0x80] ++ List.replicate ((119 - b.length % 64) % 64) 0 ++ bytesBig 8 (8 * b.length)

/-- SHA-256 of a byte string, the first byte of the digest the most significant. -/
@[irreducible] def sha256 (b : List Byte) : BitVec 256 :=
  let p := shaPad b
  BitVec.ofNat 256 (((chunksOf 64 (p.length / 64) p).foldl shaBlock shaInit).foldl (fun n x => n * 2 ^ 32 + x.toNat) 0)

/-! ## AES-256 -/

/-- The substitution table, 32 bytes a number, the first lowest. -/
def aesTable : List Nat :=
  [0xc072a49cafa2d4adf04759fa7dc982ca76abd7fe2b670130c56f6bf27b777c63,
    0x75b227ebe28012079a059618c323c7041531d871f1e5a534ccf73f362693fdb7,
    0xcf584c4a39becb6a5bb1fc20ed00d153842fe329b3d63b52a05a6e1b1a2c8309,
    0xd2f3ff1021dab6bcf5389d928f40a351a89f3c507f02f94585334d43fbaaefd0,
    0xdb0b5ede14b8ee4688902a22dc4f816073195d643d7ea7c41744975fec130ccd,
    0x08ae7a65eaf4566ca94ed58d6d37c8e779e4959162acd3c25c2406490a3a32e0,
    0x9e1dc186b95735610ef6034866b53e708a8bbd4b1f74dde8c6b4a61c2e2578ba,
    0x16bb54b00f2d99416842e6bf0d89a18cdf2855cee9871e9b948ed9691198f8e1]

/-- A byte substituted. -/
def aesSub (b : Byte) : Byte := BitVec.ofNat 8 (aesTable.getD (b.toNat / 32) 0 / 256 ^ (b.toNat % 32))

/-- A byte as a polynomial, times x. -/
def aesTimes (b : Byte) : Byte := (b <<< 1) ^^^ (if b.msb then 0x1B else 0)

/-- Bytes added. -/
def aesAdd (a b : List Byte) : List Byte := List.zipWith (· ^^^ ·) a b

/-- A column of four bytes mixed. -/
def aesMix (c : List Byte) : List Byte :=
  match c with
  | [a, b, c, d] =>
    let x := fun (p q r s : Byte) => aesTimes p ^^^ aesTimes q ^^^ q ^^^ r ^^^ s
    [x a b c d, x b c d a, x c d a b, x d a b c]
  | c => c

/-- The 16 bytes of the state, column after column, with its rows shifted. -/
def aesShift (s : List Byte) : List Byte := (List.range 16).map fun i => s.getD (5 * i % 16) 0

/-- A round before its key is added; the last mixes no columns. -/
def aesRound (last : Bool) (s : List Byte) : List Byte :=
  let t := aesShift (s.map aesSub)
  if last then t else (chunksOf 4 4 t).flatMap aesMix

/-- The key schedule carried on for `n` words from word `i`: the words so far, newest first. -/
def aesExpand (n i : Nat) (rcon : Byte) (w : List (List Byte)) : List (List Byte) :=
  match n with
  | 0 => w
  | k + 1 =>
    let t := w.getD 0 []
    let t := if i % 8 = 0 then aesAdd ((t.drop 1 ++ t.take 1).map aesSub) [rcon, 0, 0, 0]
      else if i % 8 = 4 then t.map aesSub else t
    aesExpand k (i + 1) (if i % 8 = 0 then aesTimes rcon else rcon) (aesAdd (w.getD 7 []) t :: w)

/-- The round keys of a key of 32 bytes. -/
def aesKeys (key : List Byte) : List (List Byte) :=
  (chunksOf 4 15 (aesExpand 52 8 1 (chunksOf 4 8 key).reverse).reverse).map List.flatten

/-- AES-256 of a block of 16 bytes under a key of 32. -/
@[irreducible] def aes256 (key block : List Byte) : List Byte :=
  match aesKeys key with
  | [] => block
  | k0 :: ks =>
    let s := (ks.take 13).foldl (fun s k => aesAdd (aesRound false s) k) (aesAdd block k0)
    aesAdd (aesRound true s) (ks.getD 13 [])

end Sys2Proof.Machine
end

