-- ==== Sys2Proof/Machine/Links.lean ====
section
/-! DEFINITION. The links of the package: modules, routes and permits (spec 19 R455–R460). -/
namespace Sys2Proof.Machine

/-! ## Modules and routes (19 R455, R456) -/

/-- The die at the other end of a compute die's module. -/
def linkTo (d m : Nat) : Nat :=
  let h := d / 4 * 4
  match m with
  | 0 => h + (d + 1) % 4
  | 1 => h + (d + 3) % 4
  | 2 => (d + 4) % 8
  | _ => 8 + d / 4

/-- The module by which the other end has the link. -/
def backModule (m : Nat) : Nat := match m with | 0 => 1 | 1 => 0 | m => m

/-- An I/O die works. -/
def State.ioUp (s : State) (k : Nat) : Bool := (s.die (8 + k)).st != .lost

/-- A module is trained. -/
def State.moduleUp (s : State) (d m : Nat) : Bool := (s.die d).modules.getLsbD m

/-- The link at a module of a compute die is up. -/
def State.linkUp (s : State) (d m : Nat) : Bool :=
  s.moduleUp d m && (if m = 3 then s.ioUp (d / 4) else s.moduleUp (linkTo d m) (backModule m))

/-- The hops of a ring segment of a half from die `d`, `n` times by module `m`. -/
def ringHops (d m n : Nat) : List (Nat × Nat) :=
  match n with
  | 0 => []
  | k + 1 => (d, m) :: ringHops (linkTo d m) m k

/-- Ring distance within a half. -/
def ringDist (d e : Nat) : Nat := (e + 4 - d % 4) % 4

/-- Route 1 and, with `other`, route 2: the link to the other half first, then the ring. -/
def ringRoute (other : Bool) (d e : Nat) : List (Nat × Nat) :=
  let cross := d / 4 != e / 4
  let x := if cross then (d + 4) % 8 else d
  let ring :=
    match other, ringDist x e with
    | _, 0 => []
    | false, 1 => ringHops x 0 1
    | false, 3 => ringHops x 1 1
    | false, _ => ringHops x 0 2
    | true, 1 => ringHops x 1 3
    | true, 3 => ringHops x 0 3
    | true, _ => ringHops x 1 2
  (if cross then [(d, 2)] else []) ++ ring

/-- Every link of a route is up and every die between its ends online. -/
def State.routeUp (s : State) (l : List (Nat × Nat)) : Bool :=
  l.all (fun h => s.linkUp h.1 h.2) && (l.drop 1).all fun h => (s.die h.1).st == .online

/-- Route 3, over the I/O dies. -/
def State.ioRouteUp (s : State) (d e : Nat) : Bool :=
  s.linkUp d 3 && s.linkUp e 3 && (d / 4 == e / 4 || (s.iodLink && s.ioUp 0 && s.ioUp 1))

/-- The two links between I/O die `k` and a compute die of the other half, by that die's counterpart, are up. -/
def State.crossUp (s : State) (d : Nat) : Bool :=
  let x := (d + 4) % 8
  s.linkUp d 2 && (s.die x).st == .online && s.linkUp x 3

/-- The module by which a message to I/O die `k` leaves. -/
def State.hopToIo (s : State) (d k : Nat) : Option Nat :=
  if 8 ≤ d then (if s.iodLink then some 4 else none)
  else if d / 4 = k then (if s.linkUp d 3 then some 3 else none)
  else if s.crossUp d then some 2 else none

/-- The link by which a message from I/O die `k` to a compute die leaves, by the number of the die that it leads to in its half:
the way of a message to the I/O die, backwards (DEDUCED, log 80). -/
def State.hopFromIo (s : State) (k e : Nat) : Option Nat :=
  if e / 4 = k then (if s.linkUp e 3 then some (e % 4) else none)
  else if s.crossUp e then some (e % 4) else none

/-- The module by which a message from one die to another leaves, on the first route that is up. -/
def State.firstHop (s : State) (d e : Nat) : Option Nat :=
  let take := fun (l : List (Nat × Nat)) => (l.head?).map (·.2)
  if 8 ≤ e then s.hopToIo d (e - 8)
  else if 8 ≤ d then s.hopFromIo (d - 8) e
  else if s.routeUp (ringRoute false d e) then take (ringRoute false d e)
  else if s.routeUp (ringRoute true d e) then take (ringRoute true d e)
  else if s.ioRouteUp d e then some 3 else none

/-! ## Permits (19 R459, R460) -/

/-- Reserved permits of a class: request, response, write-data, release, management. -/
def reserveOf (c : Nat) : Nat := match c with | 0 => 16 | 1 => 32 | 2 => 32 | _ => 8

/-- Shared permits of a direction. -/
def sharedPermits : Nat := 160

/-- The classes of messages. -/
def classes : List Nat := [0, 1, 2, 3, 4]

/-- Permits that a class holds in the direction that leaves a die by a module. -/
def State.permitsHeld (s : State) (d m c : Nat) : Nat := tget 0 (s.die d).permits (8 * m + c)

/-- Shared permits that the classes of a direction hold. -/
def State.sharedHeld (s : State) (d m : Nat) : Nat :=
  classes.foldl (fun n c => n + (s.permitsHeld d m c - reserveOf c)) 0

/-- A message of a class can take a permit. -/
def State.permitFree (s : State) (d m c : Nat) : Bool :=
  decide (s.permitsHeld d m c < reserveOf c) || decide (s.sharedHeld d m < sharedPermits)

/-- One more, or one fewer, permit held. -/
def State.setPermits (s : State) (d m c n : Nat) : State :=
  let x := s.die d
  s.setDie d { x with permits := tset 0 x.permits (8 * m + c) n }

/-- A message of a class sent from one die to another: it takes a permit, or waits in its channel for one that a
message before it passes on. None while no route is up. -/
def State.takePermit (s : State) (d e c : Nat) : Option State :=
  (s.firstHop d e).map fun m => if s.permitFree d m c then s.setPermits d m c (s.permitsHeld d m c + 1) else s

end Sys2Proof.Machine
end

