-- ==== Sys2Proof/Machine/Memory.lean ====
section
/-! DEFINITION. `Mem.read` and `Mem.write`: windows, objects, extents, claims, pads, the local-store cache, the side log and
messages to other dies (spec 08 R274–R297, 07 R232–R236, 09 R299–R304, 18 R433–R442). -/
namespace Sys2Proof.Machine

/-! ## What an access asks for -/

structure Want where
  n : Nat
  align : Nat
  rd : Bool
  wr : Bool
  /-- Transfers may name any pair (07 R254). -/
  foreign : Bool
  /-- Windows accepted, as a mask of `windowBit`. -/
  wins : Nat
deriving DecidableEq, Repr

/-- Windows of scalar and vector loads and stores (07 R233). -/
def allWins : Nat := 31

def wantRead (n : Nat) : Want := ⟨n, n, true, false, false, allWins⟩
def wantWrite (n : Nat) : Want := ⟨n, n, false, true, false, allWins⟩
/-- An atomic reads and writes (09 R303). -/
def wantAtomic (n : Nat) : Want := ⟨n, n, true, true, false, allWins⟩

/-! ## Where a byte stands -/

inductive Home where
  | frame (die : Nat)
  | store (pair off : Nat)
  | lpddr (die : Nat)
  | host
  | weight (bank row : Nat)
deriving DecidableEq, Repr

/-- A checked access: its address, its home and key when its extent is present, and its object. -/
structure Place where
  addr : Word
  n : Nat
  key : Nat
  home : Home
  obj : Option ObjDesc
  handle : Nat
  off : Nat
  /-- The extent is mapped, or the window has none. -/
  there : Bool
deriving DecidableEq, Repr

/-! ## Local store (08 R277, R278, 04 R153) -/

/-- The region a PHASE move is moving, as bounds in bytes. -/
def State.movingRegion (s : State) (p : Nat) : Nat × Nat :=
  let x := s.pair p
  let l := s.lsBytes p
  (l - max x.cmib x.tgt * 0x100000, l - min x.cmib x.tgt * 0x100000)

/-- The access touches the moving region, and stalls. -/
def State.moving (s : State) (p off n : Nat) : Bool :=
  (s.pair p).mov && decide (off < (s.movingRegion p).2) && decide ((s.movingRegion p).1 < off + n)

/-- The pair admits a context: its owner, or one in its mask. -/
def State.admits (s : State) (p c : Nat) : Bool :=
  (s.pair p).owner == some c || (s.pair p).guests.getLsbD c

/-- A die is online, so that its homes answer (19 R463). -/
def State.dieUp (s : State) (d : Nat) : Bool := (s.die d).st == .online

/-- A die takes new work: its readiness bit is set (19 R463, R466). -/
def State.dieOpen (s : State) (d : Nat) : Bool := s.dieUp d && (s.die d).ready

/-- A stall on local store: full/empty, scoreboard, a moving region. -/
def storeHold (a : Word) : Hold := ⟨.lineOrRange, 0, a⟩

/-! ## The store of an absent owner (12 R331, R337, R338) -/

/-- One byte written at a home, or one of its half-bytes (05 R164). -/
def State.putNib (s : State) (key : Nat) (nib : BitVec 2) (b : Byte) : State :=
  match nib.toNat with
  | 3 => s.putByte key b
  | 1 => s.putByte key ((s.getByte key &&& 0xF0) ||| (b &&& 0x0F))
  | 2 => s.putByte key ((s.getByte key &&& 0x0F) ||| (b &&& 0xF0))
  | _ => s

/-- The bytes written at a home from a base key. -/
def State.putNibs (s : State) (key : Nat) (l : List NibWrite) : State :=
  l.foldl (fun s b => s.putNib (key + b.off) b.nib b.byte) s

/-- The section of a context for a pair. -/
def State.section (s : State) (c p : Nat) : Option Saved := (s.ctx c).saved.find? fun v => v.pair == p

def State.setSection (s : State) (c : Nat) (v : Saved) : State :=
  let x := s.ctx c
  s.setCtx c { x with saved := x.saved.map fun u => if u.pair = v.pair then v else u }

/-- The diversion entry of a pair for the epoch that a request carries. -/
def State.diversion (s : State) (p : Nat) (ep : BitVec 16) : Option Diversion :=
  (s.pair p).diversions.find? fun d => d.epoch == ep

/-- The section that takes what reaches a pair's store under its present epoch: its owner's, from arming to freeing. -/
def State.diverted (s : State) (p : Nat) : Option (Nat × Saved) :=
  (s.diversion p (s.pair p).epoch).bind fun d =>
    if (s.pair p).owner = some d.ctx then (s.section d.ctx p).map fun v => (d.ctx, v) else none

/-- A log entry lies in a line of [off, off+n). -/
def LogEnt.within (e : LogEnt) (off n : Nat) : Bool := decide (e.line < off + n) && decide (off < e.line + 128)

/-- The log's entries for [off, off+n) applied to the image in log order. -/
def State.applyLog (s : State) (v : Saved) (off n : Nat) : State :=
  (v.log.filter fun e => e.within off n).foldl (fun s e => s.putNibs (v.section_ + e.line) e.bytes) s

/-- The same, folded, and the barriers of the range after them: the entries are freed (12 R337, R338, R340). -/
def State.foldSection (s : State) (c : Nat) (v : Saved) (off n : Nat) : State :=
  let hit := fun (e : Nat × BitVec 128) => decide (e.1 < off + n) && decide (off < e.1 + 16)
  if (v.log.any fun e => e.within off n) || v.bars.any hit then
    let s := (v.bars.filter hit).foldl (fun s e => s.putBytes (v.section_ + e.1) (bytesOf 16 e.2.toNat)) (s.applyLog v off n)
    s.setSection c { v with log := v.log.filter fun e => !e.within off n, bars := v.bars.filter fun e => !hit e }
  else s

def State.storePlace (s : State) (v : View) (a : Word) (w : Want) (p off : Nat) : Res Place :=
  if s.moving p off w.n then .hold (storeHold a)
  else if s.padLimit p < off + w.n then .trap cObjBounds a
  else if !s.admits p v.ctx then .trap cProt a
  else if !s.dieUp (pairDie p) then .trap cDieLost a
  else
    let s := s.touch v.ctx (pairDie p)
    match s.diverted p with
    | none => .ok ⟨a, w.n, keyLs p off, .store p off, none, 0, off, true⟩ s
    | some d => .ok ⟨a, w.n, d.2.section_ + off, .store p off, none, 0, off, true⟩ (s.foldSection d.1 d.2 off w.n)

/-! ## Weight rows (18 R433–R437, R442) -/

/-- The bank of a logical row of a column: column × 128 + bank. -/
def rowBank (column l : Nat) : Nat := column * 128 + bits l 5 0 + 64 * bits l 24 24

/-- The row within its bank. -/
def rowInBank (l : Nat) : Nat := bits l 23 6

/-- The physical row that a bank row maps. -/
def Bank.phys (b : Bank) (row : Nat) : Nat := tget row b.map row

/-- The context may name the object: it is mapped and readable by it (18 R436). -/
def State.weightMapped (s : State) (id c : Nat) : Bool :=
  let o := s.wobj id
  o.st == 1 && o.rd.getLsbD c

def State.weightPlace (s : State) (v : View) (a : Word) (w : Want) (id off : Nat) : Res Place :=
  let o := s.wobj id
  if v.firmware || !s.weightMapped id v.ctx then .trap cObjUnloaded a
  else if o.size < off + w.n then .trap cObjBounds a
  else if w.wr then .trap cWeightWrite a
  else
    let l := o.lrow + off / 64
    let b := rowBank o.home l
    let r := (s.bank b).phys (rowInBank l)
    if !s.dieUp (pairDie o.home) then .trap cDieLost a
    else .ok ⟨a, w.n, keyWeight b r (off % 64), .weight b r, none, 0, off, true⟩ s

/-! ## Claims (08 R290) -/

/-- The object-table entry of an object. -/
def State.objRow (s : State) (c idx : Nat) : Option ObjRow := tfind (s.ctx c).objs idx

/-- Part size of a bulk object. -/
def partSize (size : Nat) : Nat := 128 * cdiv size 8192

/-- The parts that [lo, hi) touches. -/
def partsOf (size lo hi : Nat) : List Nat :=
  if hi ≤ lo then [] else rangeFrom (lo / partSize size) ((hi - 1) / partSize size + 1 - lo / partSize size)

/-- A claim of the byte ranges of one instruction in one object: the table entry afterwards, or none when it fails. -/
def claimRow (o : ObjDesc) (r : ObjRow) (ranges : List (Nat × Nat)) : Option ObjRow :=
  match ranges with
  | [] => some r
  | (lo, hi) :: t =>
    if o.mode = 1 then
      let low := t.foldl (fun m e => min m e.1) lo
      let high := t.foldl (fun m e => max m e.2) hi
      if r.hwm ≤ low then some { r with hwm := roundUp high 16 } else none
    else
      let ps := ((lo, hi) :: t).flatMap fun e => partsOf o.size e.1 e.2
      if ps.any fun p => bitOf r.wmap p then none
      else some { r with wmap := ps.foldl (fun m p => m ||| 2 ^ p) r.wmap }

/-- A write of [lo, hi) of a protected object cannot claim what it touches. The claim of an instruction fails where that of one of
its elements does. -/
def State.claimFails (s : State) (c : Nat) (o : ObjDesc) (lo hi : Nat) : Bool :=
  o.prot && (match s.objRow c o.idx with
    | none => true
    | some r => (claimRow o r [(lo, hi)]).isNone)

/-! ## Objects and extents (08 R279–R283, R293) -/

/-- The key slot of a protected object holds a key and is assigned to the context. -/
def State.keyOf (s : State) (o : ObjDesc) (c : Nat) : Option (BitVec 256) :=
  match tfind s.keys o.key with
  | none => none
  | some k => if k.ctx = some c then some k.key else none

/-- A channel of a die serves: its readiness bit is set (21 R485, R486). -/
def State.channelUp (s : State) (d off : Nat) : Bool := (s.die d).lpReady.getLsbD (off / 2 ^ 32)

/-- A channel is being retrained: its accesses stall (21 R489). -/
def State.channelBusy (s : State) (d off : Nat) : Bool := (s.die d).lpRetrain.getLsbD (off / 2 ^ 32)

/-- The object's rights and key, before its extents (08 R281, R293). -/
def State.objDenied (s : State) (v : View) (o : ObjDesc) (w : Want) : Bool :=
  (w.rd && !w.wr && !o.rd) || (w.wr && !o.wr) || (o.prot && (s.keyOf o v.ctx).isNone)

def State.globPlace (s : State) (v : View) (a : Word) (w : Want) (h off : Nat) : Res Place :=
  match tfind v.objs h with
  | none => .trap cObjUnloaded a
  | some o =>
    if o.size < off + w.n then .trap cObjBounds a
    else if s.objDenied v o w || (w.wr && v.claims && s.claimFails v.ctx o off (off + w.n)) then .trap cProt a
    else
      let x := extOf off
      let es := s.findExtent v o x
      let e := extentOf es.1
      let away : Place := ⟨a, w.n, 0, .host, some o, h, off, false⟩
      if !e.present then .ok away es.2
      else if !e.ok then .trap cPageFatal (extAddr h x)
      else if e.host then
        .ok ⟨a, w.n, keyHost (e.base + off % 2 ^ 21), .host, some o, h, off, true⟩ es.2
      else
        let phys := e.base + off % 2 ^ 21
        if !s.dieUp e.die then .trap cDieLost a
        else if s.channelBusy e.die phys then .hold Hold.init
        else if !s.channelUp e.die phys then .trap cDieLost a
        else .ok ⟨a, w.n, keyLpddr e.die phys, .lpddr e.die, some o, h, off, true⟩ (es.2.touch v.ctx e.die)

/-- Checks 1 to 8 of R275 for one element. -/
def State.place (s : State) (v : View) (a : Word) (w : Want) : Res Place :=
  match windowOf a with
  | none => .trap cBadWindow a
  | some win =>
    if windowBit win &&& w.wins = 0 ∨ (v.firmware ∧ windowBit win &&& 17 = 0) then .trap cBadWindow a
    else if a.toNat % w.align ≠ 0 then .trap cAlign a
    else
      match win with
      | .priv off =>
        if v.frameSize < off + w.n then .trap cObjBounds a
        else if !v.firmware && !s.dieUp v.die then .trap cDieLost a
        else .ok ⟨a, w.n, v.frame + off, .frame v.die, none, 0, off, true⟩ (s.touch v.ctx v.die)
      | .pad tag off =>
        if tag ≠ v.pair ∧ !w.foreign then .trap cSpForeign a else s.storePlace v a w tag off
      | .quad member off => s.storePlace v a w (v.pair / 4 * 4 + member) off
      | .weight id off => (s.weightPlace v a w id off).bind fun p s =>
          .ok p (s.touch v.ctx (pairDie (s.wobj id).home))
      | .glob h off => s.globPlace v a w h off

/-! ## Step 9 and 10: what an access waits for -/

/-- A local-store line is full (08 R294). -/
def State.lineFull (s : State) (p off : Nat) : Bool :=
  let t := match s.diverted p with | some v => v.2.empty | none => (s.pair p).empty
  !tget false t (off / 128)

/-- A range-scoreboard entry overlaps [off, off+n) (07 R255). -/
def State.scoreboardHit (s : State) (p off n : Nat) : Bool :=
  let l := (match s.diverted p with | some v => v.2.sb | none => []) ++ (s.pair p).sb
  l.any fun e => decide (e.lo < off + n) && decide (off < e.hi)

/-- Scoreboards without the entries of what is no longer in flight. -/
def State.sweepBoards (s : State) : State :=
  let ids := s.xfers.map (·.id) ++ s.requests.map (·.id)
  let keep := fun (l : List SbEnt) => l.filter fun e => ids.contains e.id
  { s with
    pairs := s.pairs.map fun e => (e.1, { e.2 with sb := keep e.2.sb })
    ctxs := s.ctxs.map fun e => (e.1, { e.2 with saved := e.2.saved.map fun v => { v with sb := keep v.sb } }) }

/-- Every local-store line an access touches is full. -/
def State.linesFull (s : State) (p off n : Nat) : Bool :=
  (rangeFrom (off / 128) ((off + n + 127) / 128 - off / 128)).all fun l => s.lineFull p (l * 128)

/-- Poisoned data lie in [key, key+n); poison is kept per 128-byte line (08 R297, 12 R346). -/
def State.poisoned (s : State) (key n : Nat) : Bool :=
  (rangeFrom (key / 128) ((key + n + 127) / 128 - key / 128)).any fun l => tget false s.poison l

/-- A line marked as uncorrectable. -/
def State.poisonLine (s : State) (line : Nat) : State := { s with poison := tset false s.poison line true }

/-- The address of the generic line that holds `a`. -/
def lineAddr (a : Word) : Word := a &&& ~~~127

/-- A side-log entry holds a byte of [a, a+n) as the context's object names it. -/
def SideEnt.overlaps (e : SideEnt) (ctx obj off n : Nat) : Bool :=
  e.ctx == ctx && e.obj == obj && e.bytes.any fun b =>
    let o := e.addr.toNat % 2 ^ 52 + b.off
    decide (off ≤ o) && decide (o < off + n)

/-- The side log a read must wait on: the core's, and once the context has resumed what was moved from its tasks (08 R285, R287). -/
def State.logsFor (s : State) (v : View) : List SideEnt :=
  (s.core v.core).sidelog ++ (if (s.ctx v.ctx).saved.isEmpty then (s.ctx v.ctx).moved else [])

/-- A write the side log holds overlaps the access. -/
def State.parkedOver (s : State) (v : View) (p : Place) : Bool :=
  match p.obj with
  | none => false
  | some o => (s.logsFor v).any fun e => e.overlaps v.ctx o.idx p.off p.n

/-- A read, or the read half of an atomic, waits for its extent, its line and the writes that overlap it, and a weight row's for
its bank's re-calibration (18 R445). -/
def State.readWait (s : State) (v : View) (p : Place) : Option Hold :=
  if s.parkedOver v p then some ⟨.extent, 0, p.addr⟩
  else if !p.there then some ⟨.extent, 0, p.addr⟩
  else
    match p.home with
    | .store q off => if s.linesFull q off p.n then none else some (storeHold p.addr)
    | .weight b _ => if (s.bank b).rcal = 2 then some Hold.init else none
    | _ => none

/-- A local-store store waits for an empty line and for a transfer's range (08 R294, 07 R234). -/
def State.writeWait (s : State) (p : Place) : Option Hold :=
  match p.home with
  | .store q off =>
    if s.linesFull q off p.n && !s.scoreboardHit q off p.n then none else some (storeHold p.addr)
  | _ => none

/-! ## Pads (08 R289) -/

/-- The counter block of the unit that holds byte `off`. -/
def counterBlock (gid ver off : Nat) : BitVec 128 :=
  BitVec.ofNat 128 (gid % 2 ^ 48 * 2 ^ 80 + ver % 2 ^ 32 * 2 ^ 48 + off / 16 % 2 ^ 48)

/-- The pad byte of offset `off` of a protected object, a byte of the counter block encrypted, both in the order of FIPS 197 with the
block's most significant byte first (log 7); zero for any other object. -/
def State.padByte (s : State) (c : Nat) (o : Option ObjDesc) (off : Nat) : Byte :=
  match o with
  | none => 0
  | some o =>
    if !o.prot then 0
    else
      let key := ((tfind s.keys o.key).map (·.key)).getD 0
      let ver := ((s.objRow c o.idx).map (·.ver)).getD 0
      (aes256 (bytesOf 32 key.toNat) (bytesBig 16 (counterBlock o.gid ver off).toNat)).getD (off % 16) 0

/-! ## Messages to other homes (09 R314, 19 R458, R459) -/

/-- The compute die that answers for a home; none for host memory. -/
def Home.die (h : Home) : Option Nat :=
  match h with
  | .frame d => some d
  | .store p _ => some (pairDie p)
  | .lpddr d => some d
  | .host => none
  | .weight b _ => some (pairDie (b / 128))

/-- The home of a global byte by its key. -/
def keyHome (key : Nat) : Home := if key < keyLpddr 8 0 then .lpddr (key / 2 ^ 36) else .host

/-- A message sent on a channel, in the channel's order. -/
def sendOn (l : List Chan) (ch : Channel) (m : BitVec 32 → Message) : List Chan :=
  match l with
  | [] => [⟨ch, 1, 0, [m 0], 0⟩]
  | c :: t =>
    if c.ch = ch then { c with next := c.next + 1, unacked := c.unacked ++ [m c.next] } :: t
    else c :: sendOn t ch m

/-- Messages of a channel not acknowledged. -/
def State.unackedOn (s : State) (ch : Channel) : Nat :=
  ((s.chans.find? fun c => c.ch == ch).map (·.unacked.length)).getD 0

/-- A write sent to a home on another die. -/
def State.post (s : State) (v : View) (dst key : Nat) (l : List NibWrite) (owed : Owed) : State :=
  { s with chans := sendOn s.chans ⟨v.posts.getD 2, v.die, dst⟩ fun n => ⟨n, key, l, owed⟩ }

/-- A write still on its way to the home of these bytes from the same pair. -/
def State.sentOver (s : State) (pair key n : Nat) : Bool :=
  s.chans.any fun c => (c.unacked.drop c.applied).any fun m =>
    slotPair m.owed.slot == pair
      && m.bytes.any fun b => decide (key ≤ m.key + b.off) && decide (m.key + b.off < key + n)

/-- The home applies the next message of a channel. -/
def State.applyNext (s : State) (c : Chan) : State × Chan :=
  match c.unacked.drop c.applied with
  | [] => (s, c)
  | m :: _ => (s.putNibs m.key m.bytes, { c with applied := c.applied + 1, expect := c.expect + 1 })

/-- The home applies every message of a channel. -/
def State.applyAll (s : State) (c : Chan) : State × Chan :=
  ((c.unacked.drop c.applied).foldl (fun s m => s.putNibs m.key m.bytes) s,
    { c with applied := c.unacked.length, expect := c.next })

/-- Every message of the channels that `sel` selects is applied: one of the orders in which homes may answer. -/
def State.drainWhere (s : State) (sel : Chan → Bool) : State :=
  s.chans.foldl (fun s c =>
    if sel c then
      let r := s.applyAll c
      { r.1 with chans := r.1.chans ++ [r.2] }
    else { s with chans := s.chans ++ [c] }) { s with chans := [] }

/-- A channel carries a message of the slot that its home has not applied. -/
def Chan.carries (c : Chan) (slot : Nat) : Bool := (c.unacked.drop c.applied).any fun m => m.owed.slot == slot

/-- The pair's writes to these bytes are performed at their home before it is read for the pair (09 R305). -/
def State.drainPair (s : State) (pair key n : Nat) : State :=
  if s.sentOver pair key n then
    s.drainWhere fun c => (c.unacked.drop c.applied).any fun m => slotPair m.owed.slot == pair
  else s

/-- The slot's writes under way are applied at their homes, but for those on channel `keep`. -/
def State.drainSent (s : State) (slot : Nat) (keep : Option Channel) : State :=
  if s.chans.any fun c => c.carries slot && keep != some c.ch then
    s.drainWhere fun c => c.carries slot && keep != some c.ch
  else s

/-- A channel's numbers move past a message that its home applies and answers at once. -/
def passOn (l : List Chan) (ch : Channel) : List Chan :=
  match l with
  | [] => [⟨ch, 1, 1, [], 0⟩]
  | c :: t => if c.ch = ch then { c with next := c.next + 1, expect := c.expect + 1 } :: t else c :: passOn t ch

/-- What a message of a class from a die does at a home that applies and answers it at once: to another die it takes its
channel's next number, after every message before it (09 R314). -/
def State.numbered (s : State) (src : Nat) (h : Home) (cls : Nat) : State :=
  match h.die with
  | none => s
  | some d =>
    if d = src then s
    else
      let s := s.drainWhere fun c => c.ch == ⟨cls, src, d⟩
      { s with chans := passOn s.chans ⟨cls, src, d⟩ }

/-- The messages of a channel that its sender may have unacknowledged (09 R314). -/
def chanSize : Nat := 4096

/-- The same from an issuing agent: it waits for room in the channel and for a permit. -/
def State.sendNow (s : State) (src : Nat) (h : Home) (cls : Nat) : Option State :=
  match h.die with
  | none => some s
  | some d =>
    if d = src then some s
    else if chanSize ≤ s.unackedOn ⟨cls, src, d⟩ then none
    else (s.takePermit src d cls).map fun s => s.numbered src h cls

/-! ## The pair's local-store cache (08 R295, R301, R302) -/

/-- The cache serves this access. -/
def State.cacheable (s : State) (v : View) (p : Place) : Bool :=
  v.cached && decide (0 < (s.pair v.pair).cmib) && (match p.obj with | some o => !o.prot | none => false)

/-- Lines the cache can hold. -/
def Pair.cacheLines (p : Pair) : Nat := p.cmib * 0x2000

/-- A line of a home as one number. -/
def State.homeLine (s : State) (line : Nat) : BitVec 1024 := BitVec.ofNat 1024 (s.getNat (line * 128) 128)

/-- The dirty bytes of a cache line, as writes. -/
def CacheLine.writes (l : CacheLine) : List NibWrite :=
  (List.range 128).filterMap fun i =>
    let n := l.dirty.extractLsb' (2 * i) 2
    if n = 0 then none else some ⟨i, n, l.data.extractLsb' (8 * i) 8⟩

/-- A dirty line goes back to its home and leaves the cache. -/
def State.writeBack (s : State) (p line : Nat) : State :=
  match tfind (s.pair p).cache line with
  | none => s
  | some l =>
    let s := if l.dirty = 0 then s else (s.numbered (pairDie p) (keyHome (line * 128)) 2).putNibs (line * 128) l.writes
    s.setPair p { s.pair p with cache := terase (s.pair p).cache line }

/-- Room for one more line: the lowest-numbered line leaves. -/
def State.cacheRoom (s : State) (p : Nat) : State :=
  let x := s.pair p
  if x.cache.length < x.cacheLines then s
  else match x.cache with
    | [] => s
    | (l, _) :: _ => s.writeBack p l

/-- The line brought into the cache of a pair. -/
def State.allocate (s : State) (p line : Nat) : State :=
  if (tfind (s.pair p).cache line).isSome then s
  else
    let s := (s.cacheRoom p).drainPair p (line * 128) 128
    s.setPair p { s.pair p with cache := tput (s.pair p).cache line ⟨s.homeLine line, 0, []⟩ }

/-- One byte written into a cache line. -/
def CacheLine.put (l : CacheLine) (i : Nat) (nib : BitVec 2) (b : Byte) (slot : Nat) : CacheLine :=
  let m : BitVec 8 := (if nib.getLsbD 0 then 0x0F else 0) ||| (if nib.getLsbD 1 then 0xF0 else 0)
  let mask := m.setWidth 1024 <<< (8 * i)
  { data := (l.data &&& ~~~mask) ||| (((b &&& m).setWidth 1024) <<< (8 * i)),
    dirty := l.dirty ||| (nib.setWidth 256 <<< (2 * i)),
    by_ := if l.by_.contains slot then l.by_ else l.by_ ++ [slot] }

/-- Bytes written through the cache; they lie in one line. -/
def State.cachePut (s : State) (p slot key : Nat) (l : List NibWrite) : State :=
  let line := key / 128
  let s := s.allocate p line
  let x := tget ⟨0, 0, []⟩ (s.pair p).cache line
  let x := l.foldl (fun x b => x.put ((key + b.off) % 128) b.nib b.byte slot) x
  s.setPair p { s.pair p with cache := tput (s.pair p).cache line x }

/-! ## The store queues (09 R303) -/

/-- The writer's copy of data loses its poison where a whole line is written. -/
def State.clearPoison (s : State) (key n : Nat) : State :=
  if s.poison.isEmpty then s
  else
    let lines := rangeFrom ((key + 127) / 128) ((key + n) / 128 - (key + 127) / 128)
    { s with poison := lines.foldl (fun t l => terase t l) s.poison }

/-- A store of a store queue is performed, after what its slot has sent before it. -/
def State.performStore (s : State) (q : QStore) : State :=
  let p := corePair q.core
  let s := s.drainSent q.owed.slot none
  if q.cached && decide (0 < (s.pair p).cmib) then s.cachePut p q.owed.slot q.key q.bytes
  else ((s.writeBack p (q.key / 128)).putNibs q.key q.bytes).clearPoison q.key q.n

/-- The stores of the store queues that `sel` selects, which are whole queues, are performed in their order. -/
def State.performWhere (s : State) (sel : QStore → Bool) : State :=
  if s.queued.any sel then
    (s.queued.filter sel).foldl State.performStore { s with queued := s.queued.filter fun q => !sel q }
  else s

/-- The slot's earlier stores are performed, but for those on channel `keep`: a later store is never performed before them
(09 R303). -/
def State.drain (s : State) (slot : Nat) (keep : Option Channel) : State :=
  (s.performWhere fun q => q.owed.slot == slot).drainSent slot keep

/-- A stream's read of these bytes finds them written by its own earlier stores, and by what its pair has sent (09 R303, R305). -/
def State.drainOver (s : State) (v : View) (key n : Nat) : State :=
  let mine := fun (q : QStore) => q.owed.slot == v.slot && q.eng == v.eng
  let s := if s.queued.any fun q => mine q && decide (q.key < key + n) && decide (key < q.key + q.n) then s.performWhere mine else s
  s.drainPair v.pair key n

/-- The oldest store of an engine's store queue is performed, once its lines are full and no transfer covers them. -/
def State.performNext (s : State) (slot eng : Nat) : State :=
  match s.queued.find? fun q => q.owed.slot == slot && q.eng == eng with
  | none => s
  | some q => ({ s with queued := s.queued.erase q }).performStore q

/-! ## Reading -/

/-- A byte as the pair sees it: its cache's copy, or the home's. -/
def State.seenByte (s : State) (pair key : Nat) : Byte :=
  match tfind (s.pair pair).cache (key / 128) with
  | some l => l.data.extractLsb' (8 * (key % 128)) 8
  | none => s.getByte key

/-- The bytes of a place, decrypted. -/
def State.bytesAt (s : State) (v : View) (p : Place) : List Byte :=
  (List.range p.n).map fun i =>
    let raw := if s.cacheable v p then s.seenByte v.pair (p.key + i) else s.getByte (p.key + i)
    raw ^^^ s.padByte v.ctx p.obj (p.off + i)

/-- The pair's copy of a line leaves its cache before an operation at the home (08 R295, R296). -/
def State.flushLine (s : State) (v : View) (p : Place) : State :=
  if s.cacheable { v with cached := true } p then s.writeBack v.pair (p.key / 128) else s

/-- Waits, poison, then the bytes; a cached read brings its line in. -/
def State.readPlace (s : State) (v : View) (p : Place) : Res (List Byte) :=
  match s.readWait v p with
  | some h => .hold h
  | none =>
    if s.poisoned p.key p.n then .trap cPoison p.addr
    else
      let s := s.drainOver v p.key p.n
      let s := if s.cacheable v p then s.allocate v.pair (p.key / 128) else s.flushLine v p
      .ok (s.bytesAt v p) s

/-- `Mem.read`. -/
def State.memRead (s : State) (v : View) (a : Word) (w : Want) : Res Nat :=
  (s.place v a w).bind fun p s => (s.readPlace v p).bind fun l s => .ok (ofBytes l) s

/-- A place read with poisoned data as zeros: the bytes as a number, and the poisoned line's address. -/
def State.softRead (s : State) (v : View) (p : Place) : Res (Nat × Option Word) :=
  match s.readWait v p with
  | some h => .hold h
  | none =>
    if s.poisoned p.key p.n then .ok (0, some (lineAddr p.addr)) s
    else (s.readPlace v p).bind fun l s => .ok (ofBytes l, none) s

/-- The protected objects among places, each once, by table index. -/
def protectedOf (ps : List Place) : List ObjDesc :=
  ps.foldl (fun acc p => match p.obj with
    | some o => if o.prot && !acc.any (fun q => q.idx == o.idx) then acc ++ [o] else acc
    | none => acc) []

/-- The ranges of an object among places. -/
def rangesIn (idx : Nat) (ps : List Place) : List (Nat × Nat) :=
  ps.filterMap fun p => match p.obj with
    | some o => if o.idx = idx then some (p.off, p.off + p.n) else none
    | none => none

/-- The claims of one instruction, on every protected object it writes, all or none. -/
def State.claim (s : State) (c : Nat) (ps : List Place) : Option State :=
  (protectedOf ps).foldl (fun acc o => acc.bind fun s =>
    match s.objRow c o.idx with
    | none => none
    | some r => (claimRow o r (rangesIn o.idx ps)).map fun r' =>
        s.setCtx c { s.ctx c with objs := tput (s.ctx c).objs o.idx r' }) (some s)

/-- Rising offsets as runs (first, count), the last run first. -/
def addRun (l : List (Nat × Nat)) (o : Nat) : List (Nat × Nat) :=
  match l with
  | [] => [(o, 1)]
  | e :: t => if e.1 + e.2 = o then (e.1, e.2 + 1) :: t else (o, 1) :: e :: t

/-- Byte runs (first, count), none longer than a line, of claimed units or parts that the instruction does not write: they
are written as zero. -/
def zeroRanges (o : ObjDesc) (ranges : List (Nat × Nat)) : List (Nat × Nat) :=
  let unit := if o.mode = 1 then 16 else partSize o.size
  let units := ranges.foldl (fun acc e =>
    if e.2 ≤ e.1 then acc
    else (rangeFrom (e.1 / unit) ((e.2 - 1) / unit + 1 - e.1 / unit)).foldl
      (fun acc u => if acc.contains u then acc else acc ++ [u]) acc) []
  let step := min unit 128
  units.flatMap fun u => (List.range (unit / step)).flatMap fun i =>
    let b := u * unit + i * step
    let hit := ranges.filter fun e => decide (e.1 < b + step) && decide (b < e.2)
    (((rangeFrom b step).filter fun o' =>
      decide (o' < o.size) && !hit.any fun e => decide (e.1 ≤ o') && decide (o' < e.2)).foldl addRun []).reverse

/-! ## Writing -/

/-- What a write of one place carries: the bytes and their half-byte mask, plaintext. -/
structure Store where
  place : Place
  nib : BitVec 2
  data : List Byte
deriving DecidableEq, Repr

/-- The bytes with their pads, as writes from the place's key. -/
def State.nibsOf (s : State) (v : View) (x : Store) : List NibWrite :=
  (List.range x.data.length).map fun i =>
    ⟨i, x.nib, x.data.getD i 0 ^^^ s.padByte v.ctx x.place.obj (x.place.off + i)⟩

/-- Stores younger than parked ones of the same extent park behind them (08 R285). -/
def State.extentParked (s : State) (v : View) (o : ObjDesc) (x : Nat) : Bool :=
  (s.logsFor v).any fun e => e.ctx == v.ctx && e.obj == o.idx && e.ext == x

/-- Entries of the side log in use (08 R285). -/
def sideLogSize : Nat := 256

/-- A write that parks: into the entry that this instruction already has for its line, or a new one. `base` is how many
entries the log held before the instruction. Bytes are kept as plaintext; their pads are applied at replay. -/
def parkIn (base : Nat) (l : List SideEnt) (e : SideEnt) : List SideEnt :=
  if (l.drop base).any fun q => q.obj == e.obj && q.addr == e.addr then
    l.take base ++ (l.drop base).map fun q =>
      if q.obj = e.obj ∧ q.addr = e.addr then { q with bytes := q.bytes ++ e.bytes, bad := q.bad || e.bad } else q
  else l ++ [e]

/-- The core's side log with a write parked; none while it has no room. -/
def State.park (s : State) (core base : Nat) (e : SideEnt) : Option State :=
  let c := s.core core
  let l := parkIn base c.sidelog { e with age := s.nextId }
  if sideLogSize < l.length then none else some { s.setCore core { c with sidelog := l } with nextId := s.nextId + 1 }

/-- A write to an extent that is not present, or that has entries in the log, parks (08 R234, R285). -/
def State.mustPark (s : State) (v : View) (p : Place) : Option ObjDesc :=
  p.obj.bind fun o => if !p.there || s.extentParked v o (extOf p.off) then some o else none

/-- The entry that bytes written at a place park as. -/
def Place.entry (p : Place) (v : View) (o : ObjDesc) (owed : Owed) (nib : BitVec 2) (data : List Byte) : SideEnt :=
  ⟨v.ctx, v.eng, o.idx, extOf p.off, lineAddr p.addr,
    (List.range data.length).map fun i => ⟨p.off % 128 + i, nib, data.getD i 0⟩, owed, none, none, false, 0, []⟩

/-- A write performed at its home, as a message of write data where that is another die's. -/
def State.performHere (s : State) (v : View) (p : Place) (l : List NibWrite) : State :=
  (((s.drain v.slot none).numbered v.die p.home 2).putNibs p.key l).clearPoison p.key p.n

/-- A write goes on its way: into its engine's store queue, into the cache, to another die, or to its home. -/
def State.storeGo (s : State) (v : View) (owed : Owed) (p : Place) (l : List NibWrite) : Res Unit :=
  let away := match p.home, v.posts with
    | .lpddr d, some c => if d = v.die then none else some (d, c)
    | _, _ => none
  let inCache := s.cacheable v p
  match away, inCache with
  | some (d, c), false =>
    let ch : Channel := ⟨c, v.die, d⟩
    if chanSize ≤ s.unackedOn ch then .hold Hold.init
    else
      (match (s.flushLine v p).takePermit v.die d c with
      | none => .hold Hold.init
      | some s => .ok () ((s.drain v.slot (some ch)).post v d p.key l owed))
  | _, _ =>
    if v.posts == some 2 && s.slips.contains s.turn.agent then
      .ok () { s with queued := s.queued ++ [⟨v.eng, v.core, p.key, p.n, l, inCache, owed⟩] }
    else if inCache then .ok () ((s.drain v.slot none).cachePut v.pair v.slot p.key l)
    else .ok () ((s.flushLine v p).performHere v p l)

/-- One place's write: parked, or on its way once nothing of local store keeps it. -/
def State.storeOne (s : State) (v : View) (owed : Owed) (base : Nat) (x : Store) : Res Unit :=
  match s.mustPark v x.place with
  | some o =>
    (match s.park v.core base (x.place.entry v o owed x.nib x.data) with
    | none => .hold ⟨.extent, 0, x.place.addr⟩
    | some s => .ok () s)
  | none =>
    match s.writeWait x.place with
    | some h => .hold h
    | none => s.storeGo v owed x.place (s.nibsOf v x)

/-- The zero bytes a claim adds, as stores of a line or less (08 R290). -/
def State.zeroStores (s : State) (v : View) (ps : List Place) : Res (List Store) :=
  let offs := (protectedOf ps).flatMap fun o =>
    ((ps.find? fun p => p.obj == some o).map (·.handle)).toList.flatMap fun h =>
      (zeroRanges o (rangesIn o.idx ps)).map fun e => (h, e)
  Res.collect offs s fun e s =>
    (s.place v (BitVec.ofNat 64 (8 * 2 ^ 60 + e.1 * 2 ^ 52 + e.2.1)) ⟨e.2.2, 1, false, true, true, allWins⟩).bind
      fun p s => .ok ⟨p, 3, List.replicate e.2.2 0⟩ s

/-- The claim of an instruction on what it writes, and the zero bytes it adds; a failing claim names the first element that
fails (05 R166, 08 R290). A view that claims nothing writes what has been claimed. -/
def State.claimStores (s : State) (v : View) (ps : List Place) : Res (List Store) :=
  if !v.claims then .ok [] s
  else
    match s.claim v.ctx ps with
    | none => .trap cProt ((ps.find? fun p => p.obj.any fun o => s.claimFails v.ctx o p.off (p.off + p.n)).map (·.addr) |>.getD 0)
    | some t => t.zeroStores { v with claims := false } ps

/-- The stores of one instruction: claimed together, then performed or parked in order. -/
def State.storeAll (s : State) (v : View) (owed : Owed) (l : List Store) : Res Unit :=
  (s.claimStores v (l.map (·.place))).bind fun z t =>
    Res.each (l ++ z) t fun x t => t.storeOne v owed (s.core v.core).sidelog.length x

/-- `Mem.write` of `n` bytes. -/
def State.memWrite (s : State) (v : View) (owed : Owed) (a : Word) (w : Want) (x : Nat) : Res Unit :=
  (s.place v a w).bind fun p s => s.storeAll v owed [⟨p, 3, bytesOf w.n x⟩]

/-! ## Indivisible operations at a home (07 R238, R240) -/

/-- What an operation at a home waits for: its extent with the writes parked there, its line, transfers over it. -/
def State.atomicWait (s : State) (v : View) (p : Place) : Option Hold :=
  if (s.mustPark v p).isSome then some ⟨.extent, 0, p.addr⟩ else (s.readWait v p).or (s.writeWait p)

/-- The decrypted bytes of a place at its home, as a number. -/
def State.homeNat (s : State) (v : View) (p : Place) : Nat :=
  ofBytes ((List.range p.n).map fun i => s.getByte (p.key + i) ^^^ s.padByte v.ctx p.obj (p.off + i))

/-- A read and a write of one location as one step: `f` gives the new value, or none to leave it (07 R239). -/
def State.memAtomic (s : State) (v : View) (owed : Owed) (a : Word) (w : Want) (f : Nat → Option Nat) : Res Nat :=
  (s.place v a w).bind fun p s =>
    match s.atomicWait v p, s.sendNow v.die p.home 0 with
    | some h, _ => .hold h
    | none, none => .hold Hold.init
    | none, some s =>
      if s.poisoned p.key p.n then .trap cPoison a
      else
        let s := (s.drain v.slot none).flushLine v p
        let old := s.homeNat v p
        match f old with
        | none => .ok old s
        | some x =>
          (s.claimStores v [p]).bind fun z t =>
            (Res.each z t fun x t => t.storeOne v owed (s.core v.core).sidelog.length x).bind fun _ t =>
              .ok old (t.putNibs p.key (t.nibsOf v ⟨p, 3, bytesOf w.n x⟩))

/-- A read at the home, around the pair's cache (07 R241, 08 R295). -/
def State.memReadHome (s : State) (v : View) (a : Word) (w : Want) : Res Nat :=
  (s.place v a w).bind fun p s =>
    match s.readWait v p with
    | some h => .hold h
    | none =>
      if s.poisoned p.key p.n then .trap cPoison a
      else
        let s := (s.drainOver v p.key p.n).flushLine v p
        .ok (s.homeNat v p) s

/-- `Mem.write` at the home, around the pair's cache, as a release message to another die's (07 R242, R244, 08 R295). -/
def State.memWriteHome (s : State) (v : View) (owed : Owed) (a : Word) (w : Want) (x : Nat) : Res Unit :=
  (s.place v a w).bind fun p s =>
    (s.flushLine v p).storeAll { v with cached := false, posts := v.posts.map fun _ => 3 } owed [⟨p, 3, bytesOf w.n x⟩]

/-! ## Releases and acquires (07 R242, R243) -/

/-- A write of this stream's own words: its engine's, and no part of a transfer, which a release covers only through its
token (07 R242). -/
def Owed.plainOf (o : Owed) (slot : Nat) : Bool := o.slot == slot && o.prod.isNone

/-- Writes that a release at a scope covers and that are not yet performed there: side-log entries, and messages that the
home of another die has not applied, or for a scope wider than the pair not acknowledged; arrivals at barriers; those of the launches whose signals the
task has waited for among them. -/
def State.releasePending (s : State) (slot eng scope : Nat) : Bool :=
  let t := s.task slot
  let covered := fun (o : Owed) => o.slot == slot || t.covers.contains o.lnum
  (s.cores.any fun c => c.2.sidelog.any fun e => e.owed.plainOf slot && e.eng == eng)
    || ((s.ctx t.ctx).moved.any fun e => e.owed.plainOf slot && e.eng == eng)
    || (s.arrivals.any fun a => a.owed.slot == slot && a.eng == eng)
    || s.chans.any fun c => (if scope ≤ 2 then c.unacked.drop c.applied else c.unacked).any fun m => covered m.owed

/-- The task's dirty lines go back to their homes when the scope is wider than the pair. -/
def State.releaseLines (s : State) (slot pair scope : Nat) : State :=
  if scope ≤ 2 then s
  else (s.pair pair).cache.foldl (fun s e => if e.2.by_.contains slot then s.writeBack pair e.1 else s) s

/-- A release at a scope: the engine's stores are performed, and it is held until what it covers is performed. -/
def State.release (s : State) (scope : Nat) : Res Unit :=
  let v := s.view
  let s := s.performWhere fun q => q.owed.slot == v.slot && q.eng == v.eng
  if s.releasePending v.slot v.eng scope then .hold Hold.init
  else .ok () (s.releaseLines v.slot s.myPair scope)

/-- Clean lines go; a line with dirty bytes keeps those and takes the others from its home again (09 R302). -/
def State.refreshLine (s : State) (l : Nat × CacheLine) : Option (Nat × CacheLine) :=
  if l.2.dirty = 0 then none
  else
    let home := s.homeLine l.1
    let kept := l.2.writes.foldl (fun (x : CacheLine) b => x.put b.off b.nib b.byte 0) ⟨home, 0, []⟩
    some (l.1, { kept with by_ := l.2.by_, dirty := l.2.dirty })

/-- An acquire at a scope. -/
def State.acquire (s : State) (scope : Nat) : State :=
  if scope ≤ 2 then s
  else s.setPair s.myPair { s.pair s.myPair with cache := (s.pair s.myPair).cache.filterMap s.refreshLine }

end Sys2Proof.Machine
end

