-- ==== Sys2Proof/Machine/Operands.lean ====
section
/-! DEFINITION. The operand forms of the scalar words: immediates with and without LIMM, effective addresses, targets, and the
word shapes that share an effect (spec 03 R82–R88, 07 R232). -/
namespace Sys2Proof.Machine

/-- The I-form immediate: 12 bits, or 34 after a LIMM, sign-extended (03 R87). -/
def State.imm (s : State) (i : BitVec 12) : Word :=
  match s.turn.limm with
  | none => i.signExtend 64
  | some k => (k ++ i).signExtend 64

/-- The effective address of a load or store (07 R232). -/
def State.ea (s : State) (a : BitVec 5) (i : BitVec 12) : Word := s.reg a + s.imm i

/-- The address of the word plus 4 × a signed displacement in words (03 R88). -/
def State.target {n : Nat} (s : State) (d : BitVec n) : Word := s.turn.wordPc + d.signExtend 64 * 4

/-- The next bundle is fetched at `a`. -/
def State.jump (s : State) (a : Word) : State := s.setTurn { s.turn with next := a }

/-- An R-form word over two registers. -/
def binary (lat : Nat) (f : Word → Word → Word) (rd a b : BitVec 5) (g : BitVec 4) (s : State) : Out :=
  guarded g s (.ok () (s.setReg rd lat (f (s.reg a) (s.reg b))))

/-- An R-form word over one register. -/
def unary (lat : Nat) (f : Word → Word) (rd a : BitVec 5) (g : BitVec 4) (s : State) : Out :=
  guarded g s (.ok () (s.setReg rd lat (f (s.reg a))))

/-- An I-form word, not guarded. -/
def immediate (f : Word → Word → Word) (rd a : BitVec 5) (i : BitVec 12) (s : State) : Out :=
  finish s (.ok () (s.setReg rd 1 (f (s.reg a) (s.imm i))))

/-- A shift by an immediate amount. -/
def shiftBy (f : Word → Nat → Word) (rd a : BitVec 5) (n : BitVec 6) (s : State) : Out :=
  finish s (.ok () (s.setReg rd 1 (f (s.reg a) n.toNat)))

/-- A shift by the low six bits of a register (04 R122). -/
def amount (y : Word) : Nat := (y.setWidth 6).toNat

/-- A divide word; its flag is set when the result is written (04 R125). -/
def divide (f : Word → Word → Word × Flags) (rd a b : BitVec 5) (g : BitVec 4) (s : State) : Out :=
  guarded g s (.ok () ((s.setReg rd 1 (f (s.reg a) (s.reg b)).1).raiseFlags (f (s.reg a) (s.reg b)).2))

/-- A compare under condition `c`. -/
def compare (c : Nat) (pd : BitVec 4) (a b : BitVec 5) (g : BitVec 4) (s : State) : Out :=
  guarded g s (.ok () (s.setPred pd (fillPred (condHolds c (s.reg a) (s.reg b)))))

/-- A PRED-group word over two predicates. -/
def predBinary (f : PredReg → PredReg → PredReg) (pd pa pb g : BitVec 4) (s : State) : Out :=
  guarded g s (.ok () (s.setPred pd (f (s.pred pa) (s.pred pb))))

/-- A trap whose value is a 10-bit code (04 R133, 07 R269). -/
def trapCode (cause : Nat) (code : BitVec 10) (g : BitVec 4) (s : State) : Out :=
  guarded g s (.trap cause (code.setWidth 64))

/-- `ILLEGAL` with the bundle's address (01 R14, R19, R42). -/
def illegalBundle (s : State) : Res Unit := .trap cIllegal s.turn.pc

/-- The scalar stream's production of a side-log entry: none, its slot, and in a transfer stream the block (07 R258). -/
def State.owedPlain (s : State) : Owed :=
  match s.turn.agent with
  | .transfer k => ⟨k, none, (s.task k).xfer.cur.map (·.blk.serial), 0, (s.task k).lnum⟩
  | .firmware c => ⟨fwSlot c, none, none, 0, 0⟩
  | _ => ⟨s.me, none, none, (s.task s.me).serial, (s.task s.me).lnum⟩

end Sys2Proof.Machine
end

