-- ==== Sys2Proof/Machine/ScalarControl.lean ====
section
/-! DEFINITION. Control flow, address formation, TWAIT and TCLR, bank lending, PHASE and the task words but LAUNCH (spec 04
R130–R157, 01 R25–R40). -/
namespace Sys2Proof.Machine

/-! ## Control flow -/

/-- 04 R130. -/
def execBr (g : BitVec 4) (disp : BitVec 17) (s : State) : Out := guarded g s (.ok () (s.jump (s.target disp)))

/-- 04 R130. The link is the address after the bundle. -/
def execCall (g : BitVec 4) (disp : BitVec 17) (s : State) : Out :=
  guarded g s (.ok () ((s.setReg linkReg 1 s.turn.next).jump (s.target disp)))

/-- The firmware context's code section; a firmware image has no stated end (log 20). -/
def fwCode (core : Nat) : Nat := 2 ^ 32 + core

/-- Code descriptor, stream and size of the section that the stream in issue fetches from. -/
def State.codeOf (s : State) : Nat × Nat × Nat :=
  match s.turn.agent with
  | .firmware c => (fwCode c, 0, 2 ^ 26)
  | .scalar k => ((s.task k).code, 0, s.sectionSize (s.task k).code 0)
  | .vector k => ((s.task k).code, 1, s.sectionSize (s.task k).code 1)
  | .matrix k => ((s.task k).code, 2, s.sectionSize (s.task k).code 2)
  | .transfer k => ((s.task k).code, 3, s.sectionSize (s.task k).code 3)
  | _ => (0, 0, 0)

/-- 04 R131. A misaligned target traps; so does one outside the stream's section, with this bundle's address in `TEPC`. -/
def execJr (rd a : BitVec 5) (g : BitVec 4) (s : State) : Out :=
  let target := s.reg a
  guarded g s
    (if target.toNat % 4 ≠ 0 then .trap cAlign target
    else if s.codeOf.2.2 ≤ target.toNat then .trap cIllegal target
    else .ok () ((s.setReg rd 1 s.turn.next).jump target))

/-- 04 R132. -/
def execLoop (rd : BitVec 5) (imm : BitVec 12) (s : State) : Out :=
  let c := s.reg rd
  finish s
    (if c = 0 then .ok () s
    else
      let t := s.setReg rd 1 (c - 1)
      .ok () (if c - 1 = 0 then t else t.jump (s.target imm)))

/-- 04 R133. -/
def execBrk (code : BitVec 10) (g : BitVec 4) (s : State) : Out := trapCode cBreak code g s

/-! ## Address formation -/

/-- 04 R134. -/
def execGaddr (rd a w : BitVec 5) (g : BitVec 4) (s : State) : Out :=
  let x := s.reg a
  let n := s.csrCorenum
  guarded g s
    (match w.toNat with
    | 0 => Res.need (decide (x.toNat < 2 ^ 32)) cBadWindow x (.ok () (s.setReg rd 2 x))
    | 1 => Res.need (decide (x.toNat < 2 ^ 25)) cBadWindow x
        (.ok () (s.setReg rd 2 (BitVec.ofNat 64 (2 ^ 60 + bits n 6 0 * 2 ^ 40) ||| x)))
    | _ => Res.need (decide (x.toNat < 2 ^ 25)) cBadWindow x
        (.ok () (s.setReg rd 2 (BitVec.ofNat 64 (2 * 2 ^ 60 + bits n 1 0 * 2 ^ 40) ||| x))))

/-- Class bit of a window code, 0 for an undefined code (04 R135). -/
def classBit (code : Nat) : Nat :=
  match code with
  | 0 => 1 | 1 => 2 | 2 => 4 | 4 => 8 | 8 => 16 | _ => 0

/-- 04 R135. -/
def execSptest (pd : BitVec 4) (a classes : BitVec 5) (g : BitVec 4) (s : State) : Out :=
  guarded g s (.ok () (s.setPred pd (fillPred (classBit (bits (s.reg a).toNat 63 60) &&& classes.toNat != 0))))

/-- 04 R136. -/
def execSpcast (rd a dir : BitVec 5) (g : BitVec 4) (s : State) : Out :=
  let x := s.reg a
  let n := x.toNat
  let c := s.csrCorenum
  let off := bits n 24 0
  guarded g s
    (if dir = 0 then
      if bits n 63 60 ≠ 1 ∨ bits n 59 47 ≠ 0 ∨ bits n 39 25 ≠ 0 then .trap cBadWindow x
      else if bits n 46 42 ≠ bits c 6 2 then .trap cSpForeign x
      else .ok () (s.setReg rd 2 (BitVec.ofNat 64 (2 * 2 ^ 60 + bits n 41 40 * 2 ^ 40 + off)))
    else
      if bits n 63 60 ≠ 2 ∨ bits n 59 42 ≠ 0 ∨ bits n 39 25 ≠ 0 then .trap cBadWindow x
      else .ok () (s.setReg rd 2 (BitVec.ofNat 64 (2 ^ 60 + (bits c 6 2 * 4 + bits n 41 40) * 2 ^ 40 + off))))

/-- 04 R137. The offset bits are ignored. -/
def execObjsz (rd a : BitVec 5) (g : BitVec 4) (s : State) : Out :=
  let x := s.reg a
  let v := s.view
  guarded g s
    (match windowOf x with
    | some (.glob h _) =>
      match tfind v.objs h with
      | some o => .ok () (s.setReg rd 2 (BitVec.ofNat 64 o.size))
      | none => .trap cObjUnloaded x
    | some (.weight id _) =>
      if !v.firmware && s.weightMapped id v.ctx then .ok () (s.setReg rd 2 (BitVec.ofNat 64 (s.wobj id).size))
      else .trap cObjUnloaded x
    | _ => .trap cBadWindow x)

/-- An address names the object, through the task's window. -/
def namesObject (objs : Tbl ObjDesc) (idx : Nat) (a : Word) : Bool :=
  match windowOf a with
  | some (.glob h _) => (tfind objs h).any fun o => o.idx == idx
  | _ => false

/-- A write to the object that the task has issued is not yet performed at its home (04 R138). -/
def State.objectBusy (s : State) (slot : Nat) (objs : Tbl ObjDesc) (ctx idx : Nat) : Bool :=
  (s.cores.any fun c => c.2.sidelog.any fun e => e.ctx == ctx && e.obj == idx && e.owed.slot == slot)
    || ((s.ctx ctx).moved.any fun e => e.obj == idx && e.owed.slot == slot)
    || (s.xfers.any fun x => x.slot == slot && x.ctx == ctx && namesObject objs idx x.dst)
    || (s.requests.any fun r => r.slot == slot && r.ctx == ctx && namesObject objs idx r.addr)
    || (s.chans.any fun c => c.carries slot) || s.queued.any fun q => q.owed.slot == slot

/-- 04 R138. -/
def execObjver (rd a : BitVec 5) (g : BitVec 4) (s : State) : Out :=
  let x := s.reg a
  let v := s.view
  guarded g s
    (match windowOf x with
    | some (.glob h _) =>
      match tfind v.objs h with
      | none => .trap cObjUnloaded x
      | some o =>
        if s.objectBusy s.me v.objs v.ctx o.idx then .hold Hold.init
        else if !o.prot then .ok () (s.setReg rd 1 0)
        else
          match s.objRow v.ctx o.idx with
          | none => .trap cObjUnloaded x
          | some r =>
            if r.ver = 0xFFFFFFFF then .trap cProt x
            else
              let r := { r with ver := r.ver + 1, wmap := if o.mode = 2 then 0 else r.wmap,
                                hwm := if o.mode = 1 then 0 else r.hwm }
              let t := s.setCtx v.ctx { s.ctx v.ctx with objs := tput (s.ctx v.ctx).objs o.idx r }
              .ok () (t.setReg rd 1 (BitVec.ofNat 64 r.ver))
    | _ => .trap cBadWindow x)

/-! ## Tokens -/

/-- 04 R148. The slot holds before its next bundle until the captured generation completes. -/
def execTwait (tk : BitVec 6) (s : State) : Out :=
  finish s
    (if s.inFirmware then illegalBundle s
    else match captureFrom s.turn.toks tk with
      | none => .ok () s
      | some g =>
        if (s.task s.me).genDone g then .ok () s
        else .ok () (s.holdAfter ⟨.twait, g.tok, g.gen.setWidth 64⟩))

/-- The generations that queued and running blocks of an engine still hold, a TWAIT of the transfer stream among them. -/
def Eng.held (e : Eng) : List Gen :=
  (e.queue.flatMap (·.waits)) ++ (match e.cur with
    | none => []
    | some r => (match r.pre with | none => [] | some p => p.waits)
      ++ if r.hold.kind = .twait then [⟨r.hold.a, r.hold.v.setWidth 16⟩] else [])

/-- No production of the token is outstanding and no word waits with a generation of it (04 R149). -/
def Task.tokenIdle (t : Task) (n : Nat) : Bool :=
  let engs := [t.vec, t.mat, t.xfer] ++ (match t.aside with | none => [] | some a => [a.vec, a.mat, a.xfer])
  !(t.prods.any fun p => p.gen.tok == n) && !engs.any fun e => e.held.any fun g => g.tok == n

/-- 04 R149. -/
def execTclr (tk : BitVec 6) (s : State) : Out :=
  finish s
    (if s.inFirmware then illegalBundle s
    else if tk = 63 then .ok () s
    else
      let t := s.task s.me
      if t.tokenIdle tk.toNat then .ok () (s.setTask s.me { t with toks := terase t.toks tk.toNat })
      else .hold ⟨.tclr, tk.toNat, 0⟩)

/-! ## Bank lending (01 R29–R34, 04 R150) -/

/-- The checks that come before any use of the matrix engine by a scalar word (01 R14, R19, R29, R31). -/
def State.matrixGate (s : State) (k : Res Unit) : Res Unit :=
  if s.inFirmware || coreLoft s.myCore then illegalBundle s
  else if (s.mat s.myPair).bound == some s.me then k
  else if (s.task s.me).wantsMat then .hold ⟨.matrix, 0, 0⟩
  else .trap cMatrixNotBound s.turn.pc

/-- A result of the vector block that runs is in flight to a register of the bank. What an ended block wrote is in the bank: its
token has completed (05 R169). -/
def Task.bankInFlight (t : Task) (bank : Nat) : Bool :=
  t.vec.cur.any fun r => t.pendV.any fun e => e.reg / 8 == bank && e.mask != 0 && decide (r.from_ ≤ e.issued)

/-- 04 R150, 01 R33. -/
def execVlend (bank : BitVec 2) (role : BitVec 1) (g : BitVec 4) (s : State) : Out :=
  let t := s.task s.me
  let b := bank.toNat
  guarded g s (s.matrixGate
    (if t.bankInFlight b || t.lentSrc == some b || t.lentTgt == some b
        || (if role = 0 then t.lentSrc.isSome else t.lentTgt.isSome) then
      .trap cResource (bank.setWidth 64)
    else .ok () (s.setTask s.me (if role = 0 then { t with lentSrc := some b } else { t with lentTgt := some b }))))

/-- A block that captured the bank as lent has words left to run. -/
def Task.bankInUse (t : Task) (b : Nat) : Bool :=
  let uses := fun (x : Block) => x.lentSrc == some b || x.lentTgt == some b
  let eng := fun (e : Eng) => e.queue.any uses || e.cur.any fun r => uses r.blk
  eng t.mat || t.aside.any fun a => eng a.mat

/-- 04 R150. -/
def execVrecl (bank : BitVec 2) (g : BitVec 4) (s : State) : Out :=
  let t := s.task s.me
  let b := bank.toNat
  guarded g s
    (if s.inFirmware || coreLoft s.myCore then illegalBundle s
    else if !(t.lentSrc == some b) && !(t.lentTgt == some b) then .trap cResource (bank.setWidth 64)
    else if t.bankInUse b then .hold ⟨.vrecl, b, 0⟩
    else .ok () (s.setTask s.me { t with
      lentSrc := if t.lentSrc == some b then none else t.lentSrc,
      lentTgt := if t.lentTgt == some b then none else t.lentTgt }))

/-! ## PHASE (04 R152) -/

/-- A task of a context other than `c` is bound on the pair. -/
def State.otherContextOn (s : State) (p c : Nat) : Bool :=
  (pairSlots p).any fun k => s.bound k && (s.task k).ctx != c

/-- 04 R152. -/
def execPhase (a : BitVec 5) (g : BitVec 4) (s : State) : Out :=
  let x := s.reg a
  let p := s.pair s.myPair
  let t := x.toNat
  let l := s.lsBytes s.myPair / 0x100000
  let busy := p.sb.any fun e => decide (e.lo < (l - p.cmib) * 0x100000) && decide ((l - t) * 0x100000 < e.hi)
  guarded g s
    (if l < t then .trap cResource x
    else if s.otherContextOn s.myPair s.view.ctx then .trap cResource x
    else if p.mov then .hold ⟨.phase, 0, 0⟩
    else if p.cmib < t ∧ busy then .hold ⟨.phase, 0, 0⟩
    else if t = p.cmib then .ok () s
    else
      let u := s.performWhere fun _ => true
      .ok () (u.setPair s.myPair { u.pair s.myPair with tgt := t, mov := true, movStart := (s.die s.myDie).cycle }))

/-! ## Tasks -/

/-- The TASK group traps in the firmware context (04, TASK group). -/
def taskWord (s : State) (r : Res Unit) : Res Unit := if s.inFirmware then .trap cIllegal s.turn.wordPc else r

/-- Every task of a launch has triggered or exited; a launch no longer listed has ended. -/
def State.launchTriggered (s : State) (n : Nat) : Bool :=
  match tfind s.launches n with
  | none => true
  | some l => decide (l.record.n ≤ l.trigged)

/-- Every task of every producer launch of a launch has triggered or exited (01 R39, R40). -/
def State.producersDone (s : State) (lnum : Nat) : Bool :=
  match tfind s.launches lnum with
  | none => true
  | some l => l.producers.all s.launchTriggered

/-- The launches that a launch depends on. -/
def State.producersOf (s : State) (lnum : Nat) : List Nat := ((tfind s.launches lnum).map (·.producers)).getD []

/-- What the producers have done is among what the task's releases cover from now on (07 R242). -/
def State.coverProducers (s : State) (k : Nat) : State :=
  let t := s.task k
  let l := (s.producersOf t.lnum).filter fun n => !t.covers.contains n
  if l.isEmpty then s else s.setTask k { t with covers := t.covers ++ l }

/-- 04 R154, 01 R39. -/
def execWaitdep (g : BitVec 4) (s : State) : Out :=
  guarded g s (taskWord s
    (if s.producersDone (s.task s.me).lnum then .ok () (s.coverProducers s.me) else .hold ⟨.waitdep, 0, 0⟩))

/-- 04 R154. The signal is sent when the task's earlier work has completed; a second TRIG does nothing. -/
def execTrig (g : BitVec 4) (s : State) : Out :=
  let t := s.task s.me
  guarded g s (taskWord s (.ok ()
    (if t.trig || t.trigPend then s else s.setTask s.me { t with trigPend := true, trigAt := t.serial + 1, serial := t.serial + 1 })))

/-- 04 R156. The bundle issues, and the slot holds until the task's work is done; `PC` goes on naming the bundle. -/
def execExit (g : BitVec 4) (s : State) : Out :=
  guarded g s (taskWord s (.ok () ((s.holdAfter ⟨.exit, 0, 0⟩).jump s.turn.pc)))

/-- 04 R157. -/
def execYield (g : BitVec 4) (s : State) : Out :=
  guarded g s (taskWord s (.ok () (s.setTask s.me { s.task s.me with skip := true })))

/-! ## System words (07 R268–R273) -/

/-- 07 R269. -/
def execTrap (code : BitVec 10) (g : BitVec 4) (s : State) : Out := trapCode cSyscall code g s

/-- 07 R270. -/
def execEret (g : BitVec 4) (s : State) : Out := guarded g s s.returnFromTrap

/-- 07 R271. -/
def execHalt (g : BitVec 4) (s : State) : Out :=
  guarded g s
    (match s.turn.agent with
    | .firmware c =>
      let f := s.fw c
      .ok () (s.setFw c { f with halted := true, hart := { f.hart with tepc := s.turn.next } })
    | _ => .trap cIllegal s.turn.wordPc)

/-- Both FIFOs of the pair are empty. -/
def Pair.fifosEmpty (p : Pair) : Bool := p.up.isEmpty && p.down.isEmpty

/-- 07 R272, enable. Saved entries that a resume could not put back return now (log 91). -/
def execVfcfgEnable (g : BitVec 4) (s : State) : Out :=
  let p := s.pair s.myPair
  let c := s.view.ctx
  guarded g s
    (if p.stair ≠ .opened ∨ !(s.die s.myDie).loft ∨ (p.stairOwner.isSome ∧ p.stairOwner ≠ some c) then .trap cResource 0
    else
      let back := tget ([], []) (s.ctx c).stairs s.myPair
      let t := (s.setCore s.myCore { s.core s.myCore with en := true }).setPair s.myPair
        { p with stairOwner := some c, up := p.up ++ back.1, down := p.down ++ back.2 }
      .ok () (if (tfind (s.ctx c).stairs s.myPair).isNone then t
        else t.setCtx c { s.ctx c with stairs := terase (s.ctx c).stairs s.myPair }))

/-- 07 R272, disable. -/
def execVfcfgDisable (g : BitVec 4) (s : State) : Out :=
  let p := s.pair s.myPair
  let other := if coreLoft s.myCore then s.myCore - 1 else s.myCore + 1
  guarded g s
    (if !p.fifosEmpty then .trap cResource 1
    else
      let t := s.setCore s.myCore { s.core s.myCore with en := false }
      .ok () (if (s.core other).en then t else t.setPair s.myPair { p with stairOwner := none }))

/-- 07 R272, gate; firmware only. -/
def execVfcfgGate (g : BitVec 4) (s : State) : Out :=
  let p := s.pair s.myPair
  guarded g s
    (if !s.inFirmware then .trap cIllegal s.turn.wordPc
    else if p.stair ≠ .opened then .trap cResource 2
    else .ok () ((s.setPair s.myPair { p with stair := .closing, gateAt := (s.die s.myDie).ptime, gateAsked := false }).tellMgmt
      evStairwell [s.myDie, s.myPair, 1]))

/-- 07 R272, reopen; firmware only. -/
def execVfcfgReopen (g : BitVec 4) (s : State) : Out :=
  let p := s.pair s.myPair
  let c := 2 * s.myPair
  guarded g s
    (if !s.inFirmware then .trap cIllegal s.turn.wordPc
    else if p.stair ≠ .closed then .trap cResource 3
    else
      let t := s.setPair s.myPair { p with stair := .opened, stairOwner := none }
      let t := t.setCore c { t.core c with en := false }
      let t := t.setCore (c + 1) { t.core (c + 1) with en := false }
      .ok () (t.tellMgmt evStairwell [s.myDie, s.myPair, 0]))

end Sys2Proof.Machine
end

