-- ==== Sys2Proof/Machine/Engines.lean ====
section
/-! DEFINITION. Engine starts, block queues, the preamble of an engine word, and XEND (spec 01 R22–R28, R55, R56, 04
R140–R147, 06 R207). -/
namespace Sys2Proof.Machine

/-! ## One engine of a task -/

def Task.eng (t : Task) (e : Nat) : Eng := match e with | 1 => t.vec | 2 => t.mat | _ => t.xfer

def Task.setEng (t : Task) (e : Nat) (x : Eng) : Task :=
  match e with | 1 => { t with vec := x } | 2 => { t with mat := x } | _ => { t with xfer := x }

/-- The engine, slot and block of the word in issue. -/
def State.running (s : State) : Option Running := ((s.task s.me).eng (agentEng s.turn.agent)).cur

/-- The running block replaced. -/
def State.setRunning (s : State) (r : Option Running) : State :=
  let e := agentEng s.turn.agent
  let t := s.task s.me
  s.setTask s.me (t.setEng e { t.eng e with cur := r })

/-! ## Starting a block -/

/-- The generations that a word's consumed tokens capture (01 R25). -/
def capture (toks : Tbl Tok) (f : TokenFields) : List Gen :=
  (captureFrom toks f.c1).toList ++ (captureFrom toks f.c2).toList ++ (captureFrom toks f.c3).toList

/-- Blocks an engine's queue holds for one slot (01 R23). -/
def queueDepth : Nat := 4

/-- The last step of every engine start: a free entry, the token preamble, the entry with its snapshot (04 R141, R142). -/
def State.startBlock (s : State) (eng : Nat) (tok : TokenFields) (b : Block) : Res Unit :=
  let k := s.me
  let t := s.task k
  if queueDepth ≤ (t.eng eng).queue.length then .hold ⟨.queue, 0, 0⟩
  else
    match t.produce tok.prod (some t.serial) with
    | none => .trap cTokenMisuse (tok.prod.setWidth 64)
    | some (t, g) =>
      let b := { b with
        serial := t.serial, waits := capture s.turn.toks tok, prod := g, sregs := t.hart.rf.vals, rm := t.hart.rm,
        scb := t.hart.scb, lentSrc := t.lentSrc, lentTgt := t.lentTgt, bundle := s.turn.pc, handler := t.hart.inhdl,
        bad := (s.regPoison.filter fun e => e.1 == k && e.2.1 == 0).map fun e => e.2.2 }
      let e := t.eng eng
      .ok () (s.setTask k { t.setEng eng { e with queue := e.queue ++ [b] } with serial := t.serial + 1 })

/-- A block not yet filled in. -/
def Block.blank : Block :=
  { nest := false, serial := 0, waits := [], prod := none, start := 0, n := 0, runs := 1, sregs := [], rm := 0,
    scb := false, x1 := 0, x2 := 0, lentSrc := none, lentTgt := none, bundle := 0, handler := false, bad := [] }

/-- Alignment from the section base, then the section's end: `n` words of `size` bytes from `a` (04 R140). -/
def State.blockRange (s : State) (stream size n : Nat) (a : Word) (k : Res Unit) : Res Unit :=
  let len := s.sectionSize (s.task s.me).code stream
  if a.toNat % size ≠ 0 then .trap cAlign a
  else if len ≤ a.toNat ∨ len < a.toNat + n * size then .trap cIllegal a
  else k

/-- 04 R140. -/
def execVexec (w : TWord) (s : State) : Out :=
  let a := s.reg w.a
  let runs := if w.b = 0 then 1 else (s.reg w.b).toNat
  let n := w.par.toNat
  finish s
    (if s.inFirmware then illegalBundle s
    else s.blockRange 1 12 n a
      (if 2 ^ 32 ≤ runs then illegalBundle s
      else s.startBlock 1 w.tok { Block.blank with start := a, n := n, runs := runs }))

/-- 04 R140, R144. -/
def execMexec (w : TWord) (s : State) : Out :=
  let a := s.reg w.a
  let n := w.par.toNat
  finish s (s.matrixGate (s.blockRange 2 24 n a (s.startBlock 2 w.tok { Block.blank with start := a, n := n })))

/-- 04 R140. `x1` and `x2` are placed when the block begins. -/
def execXexec (w : TWord) (s : State) : Out :=
  let a := s.reg w.a
  finish s
    (if s.inFirmware then illegalBundle s
    else s.blockRange 3 4 0 a
      (s.startBlock 3 w.tok { Block.blank with start := a, x1 := s.reg w.b, x2 := w.par.setWidth 64 }))

/-- The record address of an MNEST: this pair's scratchpad, under either window (06 R207). -/
def State.nestAddr (s : State) (a : Word) (k : Res Unit) : Res Unit :=
  match windowOf a with
  | some (.pad tag _) =>
    if a.toNat % 256 ≠ 0 then .trap cAlign a else if tag ≠ s.myPair then .trap cSpForeign a else k
  | some (.quad m _) =>
    if m ≠ s.myPair % 4 then .trap cBadWindow a else if a.toNat % 256 ≠ 0 then .trap cAlign a else k
  | _ => .trap cBadWindow a

/-- 06 R207. -/
def execMnest (w : TWord) (s : State) : Out :=
  let a := s.reg w.a
  finish s (s.matrixGate (s.nestAddr a (s.startBlock 2 w.tok { Block.blank with nest := true, start := a })))

/-! ## Taking up the issue -/

/-- Agent `a` takes up the bundle or word at `pc`; `next` is the address after it. -/
def State.beginTurn (s : State) (a : Agent) (pc next : Word) : State :=
  let toks := match agentSlot a with | some k => (s.task k).toks | none => []
  s.setTurn { s.turn with agent := a, pc := pc, wordPc := pc, next := next, limm := none, toks := toks, stop := .none }

/-- The matrix word the engine of slot `k` is at, if its bits are one of R98's; none at an MNEST. -/
def State.matrixInstr (s : State) (k : Nat) : Option Instr :=
  match (s.task k).mat.cur with
  | none => none
  | some r => if r.blk.nest then none else (decodeMatrix (s.matrixWord (s.task k) r)).toOption

/-! ## Beginning and ending a block -/

/-- A block as its engine begins it. -/
def Block.begun (b : Block) : Running :=
  ⟨b, b.start, 0, 0, List.replicate 6 0, none, Hold.init, b.start, b.n, [], false, 0, none, none, 0⟩

/-- A register set for a block, whatever is in flight to it. -/
def RegFile.place (r : RegFile) (n : Nat) (v : Word) : RegFile :=
  { r with vals := tset 0 r.vals n v, pend := r.pend.filter fun e => e.reg != n }

/-- The block of an engine that is running ends: its start's production completes with its words (04 R141). -/
def State.endBlock (s : State) (k eng : Nat) : State :=
  let t := s.task k
  match (t.eng eng).cur with
  | none => s
  | some r =>
    let t := t.endProd r.blk.prod
    (s.setTask k (t.setEng eng { t.eng eng with cur := none, pc := r.pc })).settle k

/-- The engine begins its next queued block when every captured generation has completed (04 R141, R146). A matrix block
exchanges the nest tables as it begins (06 R208). -/
def State.beginBlock (s : State) (k eng : Nat) : State :=
  let t := s.task k
  let e := t.eng eng
  match e.cur, e.queue with
  | none, b :: rest =>
    if b.waits.all t.genDone then
      let s := s.drain k none
      let t := s.task k
      let t := t.setEng eng { e with queue := rest, cur := some { b.begun with from_ := t.posV }, pc := b.start }
      let t := if eng = 3 then { t with xrf := (t.xrf.place 1 b.x1).place 2 b.x2 } else t
      let s := s.setTask k t
      let s := if eng = 2 && !b.nest then
          let m := s.mat (slotPair k)
          s.setMat (slotPair k) { m with act := m.shadow, shadow := m.act } else s
      if eng = 1 && b.runs == 0 then s.endBlock k 1 else s
    else s
  | _, _ => s

/-- 04 R145. -/
def execXend (s : State) : Out :=
  match s.turn.agent with
  | .transfer k => .next (s.endBlock k 3)
  | _ => finish s (.trap cIllegal s.turn.wordPc)

/-! ## The preamble of an engine word (01 R55, R56) -/

/-- Capture and production, once for a word: a word that was held or stopped goes on with what it recorded. -/
def State.preamble (s : State) (f : TokenFields) : Res Pre :=
  match s.running with
  | none => .ok ⟨[], none⟩ s
  | some r =>
    match r.pre with
    | some p => .ok p s
    | none =>
      match (s.task s.me).produce f.prod none with
      | none => .trap cTokenMisuse (f.prod.setWidth 64)
      | some (t, g) =>
        let p : Pre := ⟨capture s.turn.toks f, g⟩
        let s := s.setTask s.me t
        .ok p (s.setRunning (some { r with pre := some p, hold := Hold.init }))

/-- The place of a word that has ended: nothing of it is left to resume. -/
def Running.wordDone (r : Running) : Running :=
  { r with pre := none, hold := Hold.init, split := false, row := 0, kb := none, block := none }

/-- The word's production has ended; it completes when nothing in flight belongs to it. -/
def State.endWord (s : State) (g : Option Gen) : State :=
  let s := s.setTask s.me ((s.task s.me).endProd g)
  let s :=
    match s.running with
    | none => s
    | some r => s.setRunning (some r.wordDone)
  s.settle s.me

/-- A wait of an engine word: what its preamble recorded stays. -/
def holdWord (s : State) (h : Hold) : Out :=
  .next { s.takeHold h with turn := { s.turn with stop := .held h } }

/-- The first captured generation that is not complete. -/
def State.unmet (s : State) (p : Pre) : Option Gen := p.waits.find? fun g => !(s.task s.me).genDone g

/-- An engine word: the preamble, its waits, its effect, its completion. -/
def engineWord (f : TokenFields) (s : State) (effect : Pre → State → Res Unit) : Out :=
  match s.preamble f with
  | .trap c v => finish s (.trap c v)
  | .hold h => holdWord s h
  | .ok p t =>
    match t.unmet p with
    | some g => holdWord t ⟨.twait, g.tok, g.gen.setWidth 64⟩
    | none =>
      match effect p t with
      | .ok _ u => .next (u.endWord p.prod)
      | .trap c v => finish t (.trap c v)
      | .hold h => holdWord t h

/-- Side-log entries of an engine of a slot belong to a queue marker's production too. -/
def marked (k eng : Nat) (g : Gen) (l : List SideEnt) : List SideEnt :=
  l.map fun e => if e.owed.slot = k ∧ e.eng = eng then { e with sync := e.sync ++ [g] } else e

/-- A queue marker's production waits for the parked stores of its engine; the engine goes on (05 R169, R200, 06 R223, 09 R304). -/
def State.markParked (s : State) (eng : Nat) (g : Option Gen) : State :=
  match g with
  | none => s
  | some g =>
    let c := (s.task s.me).ctx
    let s := { s with cores := s.cores.map fun e => (e.1, { e.2 with sidelog := marked s.me eng g e.2.sidelog }) }
    if (s.ctx c).moved.isEmpty then s else s.setCtx c { s.ctx c with moved := marked s.me eng g (s.ctx c).moved }

/-- What an engine word's accesses belong to. -/
def State.owedWord (s : State) (p : Pre) : Owed := ⟨s.me, p.prod, s.running.map (·.blk.serial), 0, (s.task s.me).lnum⟩

end Sys2Proof.Machine
end

