-- ==== Sys2Proof/Machine/VectorOperands.lean ====
section
/-! DEFINITION. The operands of vector words: lanes, masks, the four descriptor kinds as sources and as destinations, and the
checks that come before any access (spec 01 R34, 03 R95, R96, R110, 05 R158–R171, R197, R198, 15 R400). -/
namespace Sys2Proof.Machine

/-! ## Lanes -/

/-- Lanes of a register in a format (05 R158). -/
def lanesOf (f : Nat) : Nat := 4096 / fmtWidth f

/-- Lane `i` of width `w`. -/
def laneAt (w i : Nat) (v : VecReg) : Nat := (v.extractLsb' (w * i) w).toNat

/-- A value of `w` bits in every lane. -/
def spread (w x : Nat) : VecReg := BitVec.ofNat 4096 (x % 2 ^ w * ((2 ^ 4096 - 1) / (2 ^ w - 1)))

/-- What a word computed: the bits it writes, their value, the flags it raises. -/
structure Lanes where
  mask : VecReg
  val : VecReg
  flags : Flags
deriving DecidableEq, Repr

def Lanes.none : Lanes := ⟨0, 0, fNone⟩

def Lanes.put (r : Lanes) (w i x : Nat) (f : Flags) : Lanes :=
  ⟨r.mask ||| BitVec.ofNat 4096 ((2 ^ w - 1) <<< (w * i)), r.val ||| BitVec.ofNat 4096 ((x % 2 ^ w) <<< (w * i)),
    r.flags ||| f⟩

/-- The lanes of a list, each computed. -/
def lanesFrom (w : Nat) (on : List Nat) (f : Nat → Nat × Flags) : Lanes :=
  on.foldl (fun r i => let x := f i; r.put w i x.1 x.2) Lanes.none

/-! ## The word in issue -/

/-- The block that runs. -/
def State.blk (s : State) : Block := (s.running.map (·.blk)).getD Block.blank

/-- The run index `j` (04 R143). -/
def State.runIndex (s : State) : Nat := (s.running.map (·.run)).getD 0

/-- The snapshot's rounding mode. -/
def State.rmode (s : State) : BitVec 2 := s.blk.rm

/-- A scalar register of the snapshot (04 R142). -/
def State.snap (s : State) (n : Nat) : Word := tget 0 s.blk.sregs n

/-- The signed 64-bit value of a kind-11 source: its register, or its immediate. -/
def State.scalarOf (s : State) (d : BitVec 18) : Word :=
  if dReg d = 0 then BitVec.ofInt 64 (dSigned d) else s.snap (dReg d)

/-- A predicate as the vector engine reads it. -/
def State.vpred (s : State) (n : Nat) : PredReg := tget 0 (s.task s.me).hart.p n

/-- Lane `i` is enabled (05 R160). -/
def State.laneOn (s : State) (w : VWord) (i : Nat) : Bool := w.mask == 15 || (s.vpred w.mask.toNat).getLsbD i

/-- The enabled lanes among the first `e`. -/
def State.lanesOn (s : State) (w : VWord) (e : Nat) : List Nat := (List.range e).filter (s.laneOn w)

/-! ## Operands -/

/-- A source: its descriptor, element format and count, the elements read, and element indices that a gather gives. -/
structure VSrc where
  d : BitVec 18
  f : Nat
  e : Nat
  on : List Nat
  idx : Option VecReg

/-- Where a word writes. -/
inductive VDest where
  | nothing
  | vec (d : BitVec 18) (f e : Nat) (on : List Nat) (idx : Option VecReg)
  | pred (n : Nat)
  | scalar (n : Nat)

/-- A register as a source: lane `i` reads lane `i` + rotation (03 R95). -/
def State.regLanes (s : State) (d : BitVec 18) (f : Nat) : VecReg :=
  let v := tget 0 (s.task s.me).v (dReg d)
  v.rotateRight (((dSigned d) % (lanesOf f : Int)).toNat * fmtWidth f)

/-- Bytes of an element in memory; a 4-bit element lies in one byte. -/
def elemBytes (f : Nat) : Nat := max 1 (fmtWidth f / 8)

/-- Address of element `i` of a kind-01 operand of `e` elements, and which half of its byte a 4-bit element is (04 R143, 05
R164, R195). -/
def State.elemAddr (s : State) (d : BitVec 18) (f e : Nat) (idx : Option VecReg) (i : Nat) : Word × Nat :=
  let q : Int := (fmtWidth f / 4 : Nat)
  let n : Int :=
    match idx with
    | none => ((s.runIndex * e + i : Nat) : Int) * dSigned d * q
    | some v => ((s.runIndex * e : Nat) : Int) * dSigned d * q + signedOf 32 (laneAt 32 i v) * q
  (s.snap (dReg d) + BitVec.ofInt 64 (n / 2), (n % 2).toNat)

/-- The base of a kind-01 operand is aligned to its element (05 R164); a gather checks each element instead (R195). -/
def State.baseOk (s : State) (d : BitVec 18) (f : Nat) (idx : Option VecReg) : Bool :=
  idx.isSome || (s.snap (dReg d)).toNat % elemBytes f == 0

/-- Every element's address translated and checked, in lane order (05 R166). A base that is not aligned traps with itself, where
the first element's window is one (05 R164, 08 R275). -/
def State.placeElems (s : State) (d : BitVec 18) (f e : Nat) (on : List Nat) (idx : Option VecReg) (rd wr : Bool) :
    Res (List (Nat × Nat × Place)) :=
  if dKind d ≠ 1 then .ok [] s
  else if !s.baseOk d f idx then
    match on with
    | [] => .trap cAlign (s.snap (dReg d))
    | i :: _ =>
      let a := (s.elemAddr d f e idx i).1
      if (windowOf a).isNone then .trap cBadWindow a else .trap cAlign (s.snap (dReg d))
  else
    let n := elemBytes f
    Res.collect on s fun i s =>
      let a := s.elemAddr d f e idx i
      (s.place s.view a.1 ⟨n, n, rd, wr, false, allWins⟩).bind fun p s => .ok (i, a.2, p) s

def VSrc.check (x : VSrc) (s : State) : Res (List (Nat × Nat × Place)) := s.placeElems x.d x.f x.e x.on x.idx true false

def VDest.check (x : VDest) (s : State) : Res (List (Nat × Nat × Place)) :=
  match x with
  | .vec d f e on idx => s.placeElems d f e on idx false true
  | _ => .ok [] s

/-- The value of one element read. -/
def nibbleOf (f half x : Nat) : Nat := if fmtWidth f = 4 then x / 16 ^ half % 16 else x

/-- The elements of a memory source, read in lane order. -/
def State.readElems (s : State) (f : Nat) (l : List (Nat × Nat × Place)) : Res VecReg :=
  (Res.collect l s fun x s =>
    (s.readPlace s.view x.2.2).bind fun b s => .ok (x.1, nibbleOf f x.2.1 (ofBytes b)) s).bind fun vs s =>
      .ok (BitVec.ofNat 4096 (vs.foldl (fun acc x => acc ||| (x.2 <<< (fmtWidth f * x.1))) 0)) s

/-! ## The stairwell (05 R197, R198) -/

/-- Entries of a stairwell FIFO (01 R16). -/
def stairDepth : Nat := 32

def State.setInbound (s : State) (l : List VecReg) : State :=
  let p := s.pair s.myPair
  s.setPair s.myPair (if coreLoft s.myCore then { p with up := l } else { p with down := l })

def State.setOutbound (s : State) (l : List VecReg) : State :=
  let p := s.pair s.myPair
  s.setPair s.myPair (if coreLoft s.myCore then { p with down := l } else { p with up := l })

/-- Both cores of the pair are enabled and the loft is present. -/
def State.stairOn (s : State) (p : Nat) : Bool :=
  (s.die (pairDie p)).loft && (s.core (2 * p)).en && (s.core (2 * p + 1)).en

/-- The checks of a kind-10 operand: `pop` is the number `TVAL` gets. -/
def State.stairCheck (s : State) (pop : Bool) : Res Unit :=
  let p := s.pair s.myPair
  let v : Word := if pop then 1 else 0
  let foreign := match p.stairOwner with | some c => c != (s.task s.me).ctx | none => false
  if foreign then .trap cResource v
  else if !s.stairOn s.myPair || p.stair == .closed then .trap cLoftGated v
  else if p.stair == .closing then
    (if pop && !(s.inbound s.myCore).isEmpty then .ok () s else .trap cLoftGated v)
  else if pop then (if (s.inbound s.myCore).isEmpty then .hold Hold.init else .ok () s)
  else if stairDepth ≤ (s.outbound s.myCore).length then .hold Hold.init else .ok () s

/-! ## Reading sources -/

/-- A source's lanes in its format, and the flags of a scalar's conversion (05 R163). Log 92: the conversion is made whatever lanes
are enabled. -/
def VSrc.fetch (x : VSrc) (l : List (Nat × Nat × Place)) (s : State) : Res (VecReg × Flags) :=
  match dKind x.d with
  | 0 => .ok (s.regLanes x.d x.f, fNone) s
  | 1 => (s.readElems x.f l).bind fun v s => .ok (v, fNone) s
  | 2 =>
    match s.inbound s.myCore with
    | [] => .hold Hold.init
    | v :: rest => .ok (v, fNone) (s.setInbound rest)
  | _ =>
    let c := convertNum x.f s.rmode false (numOfInt (s.scalarOf x.d).toInt)
    .ok (spread (fmtWidth x.f) c.1, c.2) s

/-! ## What is checked before any access -/

/-- An operation of a vector word: its sources, the registers it also reads or names, where it writes, its latency. -/
structure VOp where
  srcs : List VSrc
  also : List Nat
  names : List Nat
  dest : VDest
  lat : Nat

/-- Vector registers that are read. -/
def VOp.reads (o : VOp) : List Nat := (o.srcs.filter fun x => dKind x.d == 0).map (fun x => dReg x.d) ++ o.also

/-- Vector registers that are named. -/
def VOp.named (o : VOp) : List Nat :=
  o.reads ++ o.names ++ (match o.dest with | .vec d _ _ _ _ => if dKind d = 0 then [dReg d] else [] | _ => [])

/-- Some operand is of kind 01 or 10: the word is interlocked (03 R112). -/
def VOp.interlocked (o : VOp) : Bool :=
  (o.srcs.any fun x => dKind x.d == 1 || dKind x.d == 2)
    || (match o.dest with | .vec d _ _ _ _ => dKind d == 1 || dKind d == 2 | _ => false)

def VOp.latency (o : VOp) : Nat := if o.interlocked then 1 else o.lat

/-- The lowest-numbered register the task may not name: one of a lent bank, or of a bank that is not its own. -/
def State.foreignReg (s : State) (l : List Nat) : Option Nat :=
  let t := s.task s.me
  let bad := l.filter fun n => t.lentSrc == some (n / 8) || t.lentTgt == some (n / 8) || decide (t.banks ≤ n / 8)
  bad.foldl (fun m n => match m with | none => some n | some k => some (min k n)) none

/-- The mask predicate of a word that reads one. -/
def maskReads (w : VWord) : List Nat := if w.mask = 15 then [] else [w.mask.toNat]

/-- A source that `SCBCHK` would find stale (03 R110). -/
def State.vectorStale (s : State) (w : VWord) (o : VOp) : Bool :=
  let t := s.task s.me
  s.blk.scb && ((o.reads.any fun n => staleAt n t.posV t.pendV) || (maskReads w).any fun n => staleAt n t.posV t.pendVP)

/-- Scalar registers of the snapshot that a word reads: bases of memory operands and kind-11 values. -/
def scalarReads (w : VWord) : List Nat :=
  (([w.a, w.b].filter fun d => dKind d == 1 || dKind d == 3) ++ [w.d].filter fun d => dKind d == 1).map dReg

/-- The first uncorrectable register the word reads, as `TVAL` names it (12 R347). -/
def State.vectorPoison (s : State) (w : VWord) (o : VOp) : Option Word :=
  let bad := fun (file n : Nat) => s.regPoison.contains (s.me, file, n)
  if s.regPoison.isEmpty && s.blk.bad.isEmpty then none
  else
    (((scalarReads w).filter s.blk.bad.contains).map (fun n => BitVec.ofNat 64 (2 ^ 62 + n))
      ++ ((maskReads w).filter (bad 1)).map (fun n => BitVec.ofNat 64 (2 ^ 62 + 256 + n))
      ++ (o.reads.filter (bad 2)).map (fun n => BitVec.ofNat 64 (2 ^ 62 + 512 + n))).head?

def State.vectorGate (s : State) (w : VWord) (o : VOp) : Res Unit :=
  match s.foreignReg o.named with
  | some n => .trap cResource (BitVec.ofNat 64 n)
  | none =>
    if s.vectorStale w o then .trap cStallShort s.turn.wordPc
    else match s.vectorPoison w o with
      | some v => .trap cPoison v
      | none => .ok () s

/-- Every kind-10 operand's check. -/
def State.stairGate (s : State) (o : VOp) : Res Unit :=
  if o.srcs.any fun x => dKind x.d == 2 then s.stairCheck true
  else match o.dest with
    | .vec d _ _ _ _ => if dKind d = 2 then s.stairCheck false else .ok () s
    | _ => .ok () s

/-! ## Writing the destination -/

/-- A scalar register of the task, as the vector engine writes it: it enters the live register (05 R188). Log 92: a write of the
control core that issued before and is in flight does not come after it. -/
def State.putScalar (s : State) (n : Nat) (v : Word) : State :=
  if n = 0 then s
  else
    let t := s.task s.me
    let s := s.setTask s.me { t with hart := { t.hart with rf :=
      { t.hart.rf with vals := tset 0 t.hart.rf.vals n v, pend := t.hart.rf.pend.filter fun e => e.reg != n } } }
    s.unpoison s.me 0 n

/-- A vector register's bits, seen `lat` words later. -/
def State.putVec (s : State) (n lat : Nat) (r : Lanes) : State :=
  let t := s.task s.me
  (s.setTask s.me { t with pendV := t.pendV ++ [⟨n, r.mask, r.val, t.posV, t.posV + lat⟩] }).unpoison s.me 2 n

/-- A predicate's bits, likewise. -/
def State.putVPred (s : State) (n lat : Nat) (r : Lanes) : State :=
  let t := s.task s.me
  (s.setTask s.me { t with pendVP := t.pendVP ++ [⟨n, r.mask.setWidth 1024, r.val.setWidth 1024, t.posV, t.posV + lat⟩] }).unpoison
    s.me 1 n

/-- The stores of the elements of a memory destination. -/
def elemStores (f : Nat) (r : Lanes) (l : List (Nat × Nat × Place)) : List Store :=
  l.map fun x =>
    let v := laneAt (fmtWidth f) x.1 r.val
    if fmtWidth f = 4 then ⟨x.2.2, BitVec.ofNat 2 (2 ^ x.2.1), [BitVec.ofNat 8 (v * 16 ^ x.2.1)]⟩
    else ⟨x.2.2, 3, bytesOf (elemBytes f) v⟩

def VDest.write (x : VDest) (owed : Owed) (lat : Nat) (l : List (Nat × Nat × Place)) (r : Lanes) (s : State) : Res Unit :=
  match x with
  | .nothing => .ok () s
  | .pred n => .ok () (s.putVPred n lat r)
  | .scalar n => .ok () (s.putScalar n (r.val.setWidth 64))
  | .vec d f _ _ _ =>
    match dKind d with
    | 0 => .ok () (s.putVec (dReg d) lat r)
    | 1 => s.storeAll s.view owed (elemStores f r l)
    | _ => .ok () (s.setOutbound (s.outbound s.myCore ++ [r.val &&& r.mask]))

/-! ## A vector word -/

/-- Sources before the destination, all checks before any access, all reads before the write. Log 92: a kind-11 source's
conversion sets flags in every word that takes one. -/
def vectorOp (w : VWord) (o : State → VOp) (f : State → List VecReg → Lanes) (s : State) : Out :=
  engineWord w.tok s fun p s =>
    let op := o s
    (s.vectorGate w op).bind fun _ s =>
    (Res.collect op.srcs s fun x s => x.check s).bind fun ps s =>
    (op.dest.check s).bind fun dp s =>
    (s.stairGate op).bind fun _ s =>
    (Res.collect (op.srcs.zip ps) s fun x s => x.1.fetch x.2 s).bind fun vs s =>
      let r := f s (vs.map (·.1))
      let fl := vs.foldl (fun m v => m ||| v.2) r.flags
      (op.dest.write (s.owedWord p) op.latency dp r s).bind fun _ s => .ok () (s.raiseTaskFlags s.me fl)

end Sys2Proof.Machine
end

