-- ==== Sys2Proof/Machine/Vector.lean ====
section
/-! DEFINITION. The vector words (spec 05 R172–R200). -/
namespace Sys2Proof

/-- Element format of a word. -/
def VWord.f (w : VWord) : Nat := w.fmt.toNat

/-- The word's element width. -/
def VWord.width (w : VWord) : Nat := fmtWidth w.f

end Sys2Proof

namespace Sys2Proof.Machine

/-! ## Word shapes -/

/-- A source in the word's format over its enabled lanes. -/
def State.plainSrc (s : State) (w : VWord) (d : BitVec 18) : VSrc := ⟨d, w.f, lanesOf w.f, s.lanesOn w (lanesOf w.f), none⟩

/-- A source that reads every lane. -/
def everySrc (w : VWord) (d : BitVec 18) : VSrc := ⟨d, w.f, lanesOf w.f, List.range (lanesOf w.f), none⟩

/-- The word's destination over its enabled lanes. -/
def State.plainDest (s : State) (w : VWord) : VDest := .vec w.d w.f (lanesOf w.f) (s.lanesOn w (lanesOf w.f)) none

/-- A destination that every lane of is written. -/
def everyDest (w : VWord) : VDest := .vec w.d w.f (lanesOf w.f) (List.range (lanesOf w.f)) none

/-- The `k`-th source value. -/
def srcAt (l : List VecReg) (k : Nat) : VecReg := l.getD k 0

/-- A word over the lanes of A. -/
def lanewise1 (lat : Nat) (g : BitVec 2 → Nat → Nat × Flags) (w : VWord) (s : State) : Out :=
  vectorOp w (fun s => ⟨[s.plainSrc w w.a], [], [], s.plainDest w, lat⟩)
    (fun s l => lanesFrom w.width (s.lanesOn w (lanesOf w.f)) fun i => g s.rmode (laneAt w.width i (srcAt l 0))) s

/-- A word over the lanes of A and B. -/
def lanewise2 (lat : Nat) (g : BitVec 2 → Nat → Nat → Nat × Flags) (w : VWord) (s : State) : Out :=
  vectorOp w (fun s => ⟨[s.plainSrc w w.a, s.plainSrc w w.b], [], [], s.plainDest w, lat⟩)
    (fun s l => lanesFrom w.width (s.lanesOn w (lanesOf w.f)) fun i =>
      g s.rmode (laneAt w.width i (srcAt l 0)) (laneAt w.width i (srcAt l 1))) s

/-- A word over the lanes of A, B and D. -/
def lanewise3 (lat : Nat) (g : BitVec 2 → Nat → Nat → Nat → Nat × Flags) (w : VWord) (s : State) : Out :=
  vectorOp w (fun s => ⟨[s.plainSrc w w.a, s.plainSrc w w.b, s.plainSrc w w.d], [], [], s.plainDest w, lat⟩)
    (fun s l => lanesFrom w.width (s.lanesOn w (lanesOf w.f)) fun i =>
      g s.rmode (laneAt w.width i (srcAt l 0)) (laneAt w.width i (srcAt l 1)) (laneAt w.width i (srcAt l 2))) s

/-- A word that writes a predicate from lanes of A and B; bits past the last lane are written with 0 (05 R179). -/
def predWrite (w : VWord) (on : List Nat) (g : Nat → Bool) : Lanes :=
  let r := lanesFrom 1 on fun i => ((if g i then 1 else 0), fNone)
  { r with mask := r.mask ||| BitVec.ofNat 4096 (2 ^ 1024 - 2 ^ lanesOf w.f) }

/-! ## Lane arithmetic -/

/-- A value and the flags of `Round` to a float format. -/
def roundLane (L : FltLayout) (rm : BitVec 2) (x : Num × Flags) : Nat × Flags :=
  let r := roundNum L rm false x.1
  (r.1, x.2 ||| r.2)

/-- An integer lane's value: UINT8 unsigned, the others two's complement. -/
def intLane (f x : Nat) : Int := if fmtUnsigned f then (x : Int) else signedOf (fmtWidth f) x

/-- 05 R173. -/
def laneAdd (f : Nat) (rm : BitVec 2) (x y : Nat) : Nat × Flags :=
  match fltOf f with
  | some L => roundLane L rm (addNum rm (fltValue L x) (fltValue L y))
  | none => (unsignedOf (fmtWidth f) (x + y), fNone)

def laneSub (f : Nat) (rm : BitVec 2) (x y : Nat) : Nat × Flags :=
  match fltOf f with
  | some L => roundLane L rm (addNum rm (fltValue L x) (negNum (fltValue L y)))
  | none => (unsignedOf (fmtWidth f) ((x : Int) - y), fNone)

def laneMul (f : Nat) (rm : BitVec 2) (x y : Nat) : Nat × Flags :=
  match fltOf f with
  | some L => roundLane L rm (mulNum (fltValue L x) (fltValue L y))
  | none => (unsignedOf (fmtWidth f) (x * y), fNone)

/-- x × y + d, or d − x × y, rounded once (05 R174). Log 92: 0 × ∞ sets NV with a NaN to be added too. -/
def laneFma (sub : Bool) (f : Nat) (rm : BitVec 2) (x y d : Nat) : Nat × Flags :=
  match fltOf f with
  | some L =>
    let p := mulNum (fltValue L x) (fltValue L y)
    let z := addNum rm (fltValue L d) (if sub then negNum p.1 else p.1)
    roundLane L rm (z.1, p.2 ||| z.2)
  | none => (unsignedOf (fmtWidth f) (if sub then (d : Int) - x * y else x * y + d), fNone)

/-- The lesser or the greater lane (05 R175). -/
def laneMax (greater : Bool) (f : Nat) (x y : Nat) : Nat :=
  match fltOf f with
  | some L =>
    let u := fltValue L x
    let v := fltValue L y
    (roundNum L 0 false (if greater then maxNum u v else minNum u v)).1
  | none =>
    if intLane f x < intLane f y then (if greater then y else x) else (if greater then x else y)

/-- |x| or −x of a lane (05 R176). -/
def laneSign (abs : Bool) (f x : Nat) : Nat :=
  match fltOf f with
  | some L =>
    if isNan (fltValue L x) then L.nan
    else
      let top := 2 ^ (fmtWidth f - 1)
      if abs then x % top else (if top ≤ x then x - top else x + top)
  | none =>
    if abs && fmtUnsigned f then x
    else
      let v := signedOf (fmtWidth f) x
      unsignedOf (fmtWidth f) (if abs && decide (0 ≤ v) then v else -v)

/-- 05 R173. -/
def execVadd (w : VWord) (s : State) : Out := lanewise2 2 (laneAdd w.f) w s
/-- 05 R173. -/
def execVsub (w : VWord) (s : State) : Out := lanewise2 2 (laneSub w.f) w s
/-- 05 R173. -/
def execVmul (w : VWord) (s : State) : Out := lanewise2 4 (laneMul w.f) w s
/-- 05 R174. -/
def execVfma (w : VWord) (s : State) : Out := lanewise3 4 (laneFma false w.f) w s
/-- 05 R174. -/
def execVfms (w : VWord) (s : State) : Out := lanewise3 4 (laneFma true w.f) w s
/-- 05 R175. -/
def execVmin (w : VWord) (s : State) : Out := lanewise2 2 (fun _ x y => (laneMax false w.f x y, fNone)) w s
/-- 05 R175. -/
def execVmax (w : VWord) (s : State) : Out := lanewise2 2 (fun _ x y => (laneMax true w.f x y, fNone)) w s
/-- 05 R176. -/
def execVabs (w : VWord) (s : State) : Out := lanewise1 2 (fun _ x => (laneSign true w.f x, fNone)) w s
/-- 05 R176. -/
def execVneg (w : VWord) (s : State) : Out := lanewise1 2 (fun _ x => (laneSign false w.f x, fNone)) w s

/-- A special function over the lanes of A (05 R177, R178). -/
def special (fn : SpecialFn) (w : VWord) (s : State) : Out :=
  lanewise1 8 (fun rm x => match fltOf w.f with | some L => specialLane fn L rm x | none => (x, fNone)) w s

/-- 05 R177. -/
def execVrcp (w : VWord) (s : State) : Out := special .rcp w s
/-- 05 R177. -/
def execVrsq (w : VWord) (s : State) : Out := special .rsq w s
/-- 05 R177. -/
def execVexp2 (w : VWord) (s : State) : Out := special .exp2 w s
/-- 05 R177. -/
def execVlog2 (w : VWord) (s : State) : Out := special .log2 w s
/-- 05 R177. -/
def execVtanh (w : VWord) (s : State) : Out := special .tanh w s

/-! ## Moves and lane operations -/

/-- 05 R184. -/
def execVmov (w : VWord) (s : State) : Out := lanewise1 2 (fun _ x => (x, fNone)) w s

/-- 05 R185. -/
def execVbcast (w : VWord) (s : State) : Out :=
  vectorOp w (fun s => ⟨[everySrc w w.a], [], [], s.plainDest w, 3⟩)
    (fun s l => lanesFrom w.width (s.lanesOn w (lanesOf w.f)) fun _ =>
      (laneAt w.width ((s.scalarOf w.b).toNat % lanesOf w.f) (srcAt l 0), fNone)) s

/-- 05 R186. -/
def execVperm (w : VWord) (s : State) : Out :=
  vectorOp w (fun s => ⟨[everySrc w w.a, everySrc w w.b], [], [], s.plainDest w, 3⟩)
    (fun s l => lanesFrom w.width (s.lanesOn w (lanesOf w.f)) fun i =>
      (laneAt w.width (laneAt w.width i (srcAt l 1) % lanesOf w.f) (srcAt l 0), fNone)) s

/-- 05 R181. The mask predicate selects; every lane is read and written. -/
def execVsel (w : VWord) (s : State) : Out :=
  vectorOp w (fun _ => ⟨[everySrc w w.a, everySrc w w.b], [], [], everyDest w, 2⟩)
    (fun s l => lanesFrom w.width (List.range (lanesOf w.f)) fun i =>
      (laneAt w.width i (srcAt l (if s.laneOn w i then 0 else 1)), fNone)) s

/-- A compare of A and B into a predicate (05 R179). -/
def vcompare (g : Num → Num → Bool) (w : VWord) (s : State) : Out :=
  vectorOp w (fun s => ⟨[s.plainSrc w w.a, s.plainSrc w w.b], [], [], .pred (dReg w.d), 2⟩)
    (fun s l => predWrite w (s.lanesOn w (lanesOf w.f)) fun i =>
      g (elemValue w.f (laneAt w.width i (srcAt l 0))).1 (elemValue w.f (laneAt w.width i (srcAt l 1))).1) s

/-- 05 R179. -/
def execVcmpEq (w : VWord) (s : State) : Out := vcompare eqNum w s
/-- 05 R179. -/
def execVcmpNe (w : VWord) (s : State) : Out := vcompare (fun x y => !eqNum x y) w s
/-- 05 R179. -/
def execVcmpLt (w : VWord) (s : State) : Out := vcompare ltNum w s
/-- 05 R179. -/
def execVcmpGe (w : VWord) (s : State) : Out := vcompare (fun x y => !isNan x && !isNan y && !ltNum x y) w s

/-- 05 R182. -/
def execVand (w : VWord) (s : State) : Out := lanewise2 2 (fun _ x y => (x &&& y, fNone)) w s
/-- 05 R182. -/
def execVor (w : VWord) (s : State) : Out := lanewise2 2 (fun _ x y => (x ||| y, fNone)) w s
/-- 05 R182. -/
def execVxor (w : VWord) (s : State) : Out := lanewise2 2 (fun _ x y => (x ^^^ y, fNone)) w s

/-- 05 R183. -/
def execVshl (w : VWord) (s : State) : Out :=
  lanewise2 2 (fun _ x k => (if w.width ≤ k then 0 else x <<< k, fNone)) w s
/-- 05 R183. -/
def execVshr (w : VWord) (s : State) : Out :=
  lanewise2 2 (fun _ x k => (if w.width ≤ k then 0 else x >>> k, fNone)) w s
/-- 05 R183. -/
def execVsra (w : VWord) (s : State) : Out :=
  lanewise2 2 (fun _ x k => (unsignedOf w.width (signedOf w.width x / (2 ^ min k w.width : Int)), fNone)) w s

/-- 05 R187. -/
def execViota (w : VWord) (s : State) : Out :=
  vectorOp w (fun s => ⟨[], [], [], s.plainDest w, 3⟩)
    (fun s _ => lanesFrom w.width (s.lanesOn w (lanesOf w.f)) fun i =>
      let x : Int := (s.scalarOf w.a).toInt + i * (s.scalarOf w.b).toInt
      match fltOf w.f with
      | some L => roundNum L s.rmode false (numOfInt x)
      | none => (unsignedOf w.width x, fNone)) s

/-- 05 R180. -/
def execVmaskw (w : VWord) (s : State) : Out :=
  vectorOp w (fun _ => ⟨[], [], [], .pred (dReg w.d), 3⟩)
    (fun s _ => predWrite w (s.lanesOn w (lanesOf w.f)) fun i =>
      let x : Int := (s.scalarOf w.a).toInt + i
      decide (0 ≤ x) && decide (x < (s.scalarOf w.b).toInt)) s

/-- A lane as VEXT extends it to 64 bits (05 R188). -/
def extendLane (f x : Nat) : Nat := if inSInt f then unsignedOf 64 (signedOf (fmtWidth f) x) else x

/-- 05 R188. -/
def execVext (w : VWord) (s : State) : Out :=
  vectorOp { w with mask := 15 } (fun _ => ⟨[everySrc w w.a], [], [], .scalar (dReg w.d), 3⟩)
    (fun s l => Lanes.none.put 64 0
      (extendLane w.f (laneAt w.width ((s.scalarOf w.b).toNat % lanesOf w.f) (srcAt l 0))) fNone) s

/-- 05 R188. -/
def execVins (w : VWord) (s : State) : Out :=
  vectorOp w (fun s => ⟨[], [dReg w.d], [], s.plainDest w, 3⟩)
    (fun s _ =>
      let k := (s.scalarOf w.b).toNat % lanesOf w.f
      lanesFrom w.width (if s.laneOn w k then [k] else []) fun _ => ((s.scalarOf w.a).toNat, fNone)) s

/-! ## Conversion and block scaling -/

/-- Conversion of one element; a code equal to the destination's copies, but for NaNs (05 R189). -/
def convertLane (src dst : Nat) (rm : BitVec 2) (sat : Bool) (x : Nat) : Nat × Flags :=
  if src = dst then
    match fltOf dst with
    | some L => (if isNan (fltValue L x) then L.nan else x, fNone)
    | none => (x, fNone)
  else
    let v := elemValue src x
    let r := convertNum dst rm sat v.1
    (r.1, v.2 ||| r.2)

/-- 05 R189. The narrower side, when a register or a stairwell entry, holds its elements from lane p × e on. -/
def execVcvt (w : VWord) (s : State) : Out :=
  let g := vcvtSrc w
  let ws := fmtWidth g
  let wd := w.width
  let e := 4096 / max ws wd
  let off := fun (narrow : Bool) (d : BitVec 18) => if narrow && dKind d != 1 then vcvtPart w * e else 0
  vectorOp w (fun s => ⟨[⟨w.a, g, e, s.lanesOn w e, none⟩], [], [], .vec w.d w.f e (s.lanesOn w e) none, 4⟩)
    (fun s l => (s.lanesOn w e).foldl (fun r i =>
      let x := convertLane g w.f s.rmode (vcvtSat w) (laneAt ws (off (decide (ws < wd)) w.a + i) (srcAt l 0))
      r.put wd (off (decide (wd < ws)) w.d + i) x.1 x.2) Lanes.none) s

/-- Largest finite magnitude of a block-scaled element format, as significand and exponent (02 R73). -/
def blockMax (f : Nat) : Nat × Int := match f with | 12 => (7, 6) | 13 => (3, 1) | _ => (127, 0)

/-- ⌈log₂(a / M)⌉ for a positive finite `a` (02 R73). -/
def scaleExp (f man : Nat) (exp : Int) : Int :=
  let m := blockMax f
  let k : Int := (Nat.log2 man : Int) + exp - (Nat.log2 m.1 : Int) - m.2
  let fits := fun (k : Int) => !ltNum (.fin false m.1 (m.2 + k)) (.fin false man exp)
  if fits (k - 1) then k - 1 else if fits k then k else k + 1

/-- The larger magnitude of two values. -/
def maxMag (x y : Num) : Num :=
  let a := fun (z : Num) => match z with | .fin _ m e => Num.fin false m e | .inf _ => .inf false | .nan => .nan
  if isNan x || isNan y then .nan else if ltNum (a x) (a y) then a y else a x

/-- One element of a block under scale byte `e` (02 R73 step 5). Log 92: a zero keeps its sign in a float element format. -/
def quantElem (f : Nat) (rm : BitVec 2) (e : Nat) (x : Num) : Nat × Flags :=
  let y := scaleNum x (127 - (e : Int))
  match fltOf f, y with
  | some L, _ => roundNum L rm true y
  | none, .fin s m k =>
    let r := roundToInt rm s m k
    let c := satInt (-127) 127 r.1
    (intBits f c.1, c.2 ||| (if r.2 then fNX else fNone))
  | none, _ => (0, fNone)

/-- The scale of a block (02 R73 steps 1 to 4), and whether it holds a NaN or an infinity. -/
def blockScale (f : Nat) (xs : List Num) : Nat × Bool :=
  match xs.foldl maxMag (.fin false 0 0) with
  | .fin _ 0 _ => (0x7F, false)
  | .fin _ m e => (min 0xFE (max 0 (127 + scaleExp f m e)).toNat, false)
  | _ => (0xFF, true)

/-- 05 R191, 02 R73. -/
def execVquant (w : VWord) (s : State) : Out :=
  let g := vqPlain w
  let e := lanesOf g
  let p := vqPart w
  let comp := dReg w.b
  let blocks := fun (s : State) (v : VecReg) => (List.range (e / 32)).map fun q =>
    let xs := (List.range 32).map fun i => (elemValue g (laneAt (fmtWidth g) (32 * q + i) v)).1
    let sc := blockScale w.f xs
    (q, sc.1, xs.map fun x => if sc.2 then (0, fNV) else quantElem w.f s.rmode sc.1 x)
  let scales := fun (s : State) (v : VecReg) =>
    (blocks s v).foldl (fun r b => r.put 8 (p * e / 32 + b.1) b.2.1 fNone) Lanes.none
  engineWord w.tok s fun pre s =>
    let op : VOp := ⟨[⟨w.a, g, e, List.range e, none⟩], [], [comp], .vec w.d w.f e (List.range e) none, 4⟩
    (s.vectorGate w op).bind fun _ s =>
      let v := s.regLanes w.a g
      let r := (blocks s v).foldl (fun r b =>
        ((List.range 32).zip b.2.2).foldl (fun r x => r.put w.width (p * e + 32 * b.1 + x.1) x.2.1 x.2.2) r) Lanes.none
      (op.dest.write (s.owedWord pre) 4 [] r s).bind fun _ t =>
        .ok () ((t.putVec comp 4 (scales s v)).raiseTaskFlags s.me r.flags)

/-- 05 R192. -/
def execVdequant (w : VWord) (s : State) : Out :=
  let g := vqPlain w
  let e := lanesOf g
  let p := vqPart w
  vectorOp w (fun s => ⟨[⟨w.a, w.f, lanesOf w.f, [], none⟩], [dReg w.b], [], .vec w.d g e (s.lanesOn w e) none, 4⟩)
    (fun s l => lanesFrom (fmtWidth g) (s.lanesOn w e) fun i =>
      let k := p * e + i
      let sc := laneAt 8 (k / 32) (tget 0 (s.task s.me).v (dReg w.b))
      let x := (elemValue w.f (laneAt w.width k (srcAt l 0))).1
      convertNum g s.rmode false (if sc = 0xFF then .nan else scaleNum x ((sc : Int) - 127))) s

/-! ## Reductions and scans -/

/-- One level of the tree of 02 R77. -/
def pairUp {α : Type} (g : α → α → α) : List α → List α
  | a :: b :: t => g a b :: pairUp g t
  | l => l

/-- `n` levels. -/
def treeOf {α : Type} (g : α → α → α) : Nat → List α → List α
  | 0, l => l
  | n + 1, l => treeOf g n (pairUp g l)

/-- Reduces a list by the tree; `z` for an empty one. -/
def reduceTree {α : Type} (g : α → α → α) (z : α) (l : List α) : α := (treeOf g 10 l).headD z

/-- The identity of a maximum (02 R77). -/
def maxIdentity (f : Nat) : Num :=
  match fltOf f with
  | some L => if L.hasInf then .inf true else fltValue L (maxFinite L true)
  | none => numOfInt (intRange f).1

/-- The lanes of A, a disabled one as the identity. -/
def reduceInput {α : Type} (w : VWord) (s : State) (v : VecReg) (z : α) (g : Nat → α) : List α :=
  (List.range (lanesOf w.f)).map fun i => if s.laneOn w i then g (laneAt w.width i v) else z

/-- The sum of 05 R193: FP32 bits, or an INT32. -/
def vsumOf (w : VWord) (s : State) (v : VecReg) : Nat × Flags :=
  match fltOf w.f with
  | some L =>
    let add := fun (x y : Num × Flags) =>
      let z := addNum s.rmode x.1 y.1
      let r := roundNum fp32 s.rmode false z.1
      ((fltValue fp32 r.1, x.2 ||| y.2 ||| z.2 ||| r.2) : Num × Flags)
    let t := reduceTree add (.fin true 0 0, fNone) (reduceInput w s v (.fin true 0 0, fNone) fun x => (fltValue L x, fNone))
    ((roundNum fp32 s.rmode false t.1).1, t.2)
  | none => (unsignedOf 32 ((reduceInput w s v 0 (intLane w.f)).foldl (· + ·) 0), fNone)

/-- The maximum of 05 R193, in the input format. -/
def vmaxOf (w : VWord) (s : State) (v : VecReg) : Nat :=
  (convertNum w.f 0 false (reduceTree maxNum (maxIdentity w.f)
    (reduceInput w s v (maxIdentity w.f) fun x => (elemValue w.f x).1))).1

/-- A reduction: lane 0 of a register, every other lane 0, or a scalar register. -/
def reduction (width : Nat) (g : VWord → State → VecReg → Nat × Flags) (w : VWord) (s : State) : Out :=
  vectorOp w (fun s => ⟨[s.plainSrc w w.a], [], [],
      if dKind w.d = 3 then .scalar (dReg w.d) else .vec w.d w.f (lanesOf w.f) [] none, 6⟩)
    (fun s l => let x := g w s (srcAt l 0); ⟨BitVec.allOnes 4096, BitVec.ofNat 4096 (x.1 % 2 ^ width), x.2⟩) s

/-- 05 R193. -/
def execVsum (w : VWord) (s : State) : Out := reduction 32 vsumOf w s
/-- 05 R193. -/
def execVmaxr (w : VWord) (s : State) : Out := reduction w.width (fun w s v => (vmaxOf w s v, fNone)) w s

/-- The running values of a scan from lane 0 (02 R78). -/
def scanFrom (g : Nat → Nat → Nat × Flags) : Option Nat → List Nat → List (Nat × Flags)
  | _, [] => []
  | none, x :: t => (x, fNone) :: scanFrom g (some x) t
  | some y, x :: t => let r := g y x; r :: scanFrom g (some r.1) t

/-- The identity of a scan as lane bits. -/
def scanIdentity (f : Nat) (isMax : Bool) : Nat :=
  if isMax then (convertNum f 0 false (maxIdentity f)).1
  else match fltOf f with
    | some L => (roundNum L 0 false (.fin true 0 0)).1
    | none => 0

/-- A lane with a NaN made canonical. -/
def canonLane (f x : Nat) : Nat :=
  match fltOf f with
  | some L => if isNan (fltValue L x) then L.nan else x
  | none => x

/-- 05 R194. -/
def execVscan (w : VWord) (s : State) : Out :=
  let isMax := dLow w.b == 1
  vectorOp w (fun s => ⟨[s.plainSrc w w.a], [], [], everyDest w, 8⟩)
    (fun s l =>
      let step := fun (x y : Nat) => if isMax then (laneMax true w.f x y, fNone) else laneAdd w.f s.rmode x y
      let ys := scanFrom step none (reduceInput w s (srcAt l 0) (scanIdentity w.f isMax) (canonLane w.f))
      ((List.range (lanesOf w.f)).zip ys).foldl (fun r x => r.put w.width x.1 x.2.1 x.2.2) Lanes.none) s

/-! ## Gather, scatter, marker, counts -/

/-- The 128 INT32 indices in B. -/
def State.indexLanes (s : State) (w : VWord) : VecReg := s.regLanes w.b 11

/-- The index register as a source. -/
def indexSrc (w : VWord) : VSrc := ⟨w.b, 11, 128, [], none⟩

/-- 05 R195. -/
def execVgath (w : VWord) (s : State) : Out :=
  vectorOp w (fun s => ⟨[⟨w.a, w.f, 128, s.lanesOn w 128, some (s.indexLanes w)⟩, indexSrc w], [], [],
      .vec w.d w.f 128 (s.lanesOn w 128) none, 1⟩)
    (fun s l => lanesFrom w.width (s.lanesOn w 128) fun i => (laneAt w.width i (srcAt l 0), fNone)) s

/-- 05 R196. -/
def execVscat (w : VWord) (s : State) : Out :=
  vectorOp w (fun s => ⟨[⟨w.a, w.f, 128, [], none⟩, indexSrc w], [], [],
      .vec w.d w.f 128 (s.lanesOn w 128) (some (s.indexLanes w)), 1⟩)
    (fun s l => lanesFrom w.width (s.lanesOn w 128) fun i => (laneAt w.width i (srcAt l 0), fNone)) s

/-- 05 R200. Parked stores count as performed but for its token (09 R304). -/
def execVsync (w : VWord) (s : State) : Out :=
  engineWord w.tok s fun p s => .ok () ((s.drain s.me none).markParked 1 p.prod)

/-- 05 R199. -/
def execVfcnt (w : VWord) (s : State) : Out :=
  vectorOp { w with mask := 15 } (fun _ => ⟨[], [], [], .scalar (dReg w.d), 1⟩)
    (fun s _ =>
      let n := if dLow w.a = 0 then (s.inbound s.myCore).length else stairDepth - (s.outbound s.myCore).length
      Lanes.none.put 64 0 (stairCode (s.pair s.myPair).stair * 256 + n) fNone) s

end Sys2Proof.Machine
end

