-- ==== Sys2Proof/Machine/MatrixOperands.lean ====
section
/-! DEFINITION. The operands of matrix words: generators, lent banks, rows and tiles in memory, adapter data, accumulator rows,
and how a matrix word runs and ends (spec 06 R202–R205, R208–R214, R217, R225–R227, 03 R493, 01 R34, 15 R400). -/
namespace Sys2Proof.Machine

/-! ## Generators and effective values -/

def State.myMat (s : State) : Matrix := s.mat s.myPair

def State.setMyMat (s : State) (m : Matrix) : State := s.setMat s.myPair m

/-- The nest indices of the block that runs. -/
def State.idx (s : State) : List Nat := (s.running.map (·.idx)).getD []

/-- `ag[g]` at the current point (06 R208). -/
def State.agen (s : State) (g : Nat) : Word :=
  match s.myMat.act with
  | none => 0
  | some a =>
    ((List.range 6).zip s.idx).foldl (fun acc x =>
      acc + BitVec.ofInt 64 ((x.2 : Int) * ((a.stride.getD x.1 []).getD g 0))) (a.base.getD g 0)

/-- IDX(KLEV), IDX(NLEV) and the AUTO conditions (06 R209). -/
def State.idxK (s : State) : Nat := match s.myMat.act with | none => 0 | some a => idxOf s.idx a.klev

def State.idxN (s : State) : Nat := match s.myMat.act with | none => 0 | some a => idxOf s.idx a.nlev

def State.accOn (s : State) (w : MWord) : Bool :=
  w.accum && (match s.myMat.act with | none => true | some a => !a.auto || idxOf s.idx a.klev != 0)

def State.lastK (s : State) (w : MWord) : Bool :=
  w.last && (match s.myMat.act with
    | none => true
    | some a => !a.auto || idxOf s.idx a.klev + 1 == a.trip.getD a.klev 0)

/-! ## Where an operand lies -/

/-- No address, a lent bank from a byte offset, or a generic address. -/
inductive MSrc where
  | none
  | bank (b off : Nat)
  | mem (a : Word)
deriving DecidableEq, Repr

/-- The operand that a generator and an offset name; `len` bytes must lie in a bank (06 R205, 01 R34). -/
def State.operand (s : State) (g : BitVec 3) (off : BitVec 16) (lent : Option Nat) (len : Nat) : Res MSrc :=
  match g.toNat with
  | 7 => .ok .none s
  | 4 =>
    (match lent with
    | none => .trap cResource s.turn.wordPc
    | some b => if 4096 < off.toNat * 64 + len then .trap cResource s.turn.wordPc else .ok (.bank b (off.toNat * 64)) s)
  | n => .ok (.mem (s.agen n + BitVec.ofNat 64 (64 * off.toNat))) s

/-- The effective k-block of a word with k-block field `kb` (06 R209, R224). -/
def State.kblock (s : State) (kb : Nat) : Nat :=
  match s.running with
  | none => kb + s.idxK
  | some r => effKb s.myMat r kb

/-- A byte of a lent bank (06 R205). The vector blocks that wrote it have completed, whatever issue distance later vector words
still see of them. -/
def State.bankByte (s : State) (b j : Nat) : Byte :=
  let t := s.task s.me
  let n := 8 * b + j / 512
  (overlay n (tget 0 t.v n) t.pendV).extractLsb' (8 * (j % 512)) 8

/-- Bytes written into a lent bank; no older vector write overwrites them (03 R108). -/
def State.putBank (s : State) (b j : Nat) : List Byte → State
  | [] => s
  | x :: t =>
    let k := s.task s.me
    let n := 8 * b + j / 512
    let m : VecReg := BitVec.ofNat 4096 (255 <<< (8 * (j % 512)))
    let v := (tget 0 k.v n &&& ~~~m) ||| ((x.setWidth 4096) <<< (8 * (j % 512)))
    let pend := k.pendV.map fun e => if e.reg = n then { e with mask := e.mask &&& ~~~m } else e
    (s.setTask s.me { k with v := tset 0 k.v n v, pendV := pend }).putBank b (j + 1) t

/-- Windows of each operand (06 R211). -/
def winWeights : Nat := 14
def winRows : Nat := 22
def winCont : Nat := 23
def winOut : Nat := 30

/-! ## Reading -/

/-- Pieces of at most 64 bytes. -/
def piecesOf (off n : Nat) : List (Nat × Nat) :=
  (List.range (cdiv n 64)).map fun i => (off + 64 * i, min 64 (n - 64 * i))

/-- The generator's address is a multiple of 64, or of what the operand asks (06 R204, R224). -/
def State.aligned (s : State) (src : MSrc) (wins al : Nat) : Res Unit :=
  match src with
  | .mem a => if a.toNat % al = 0 then .ok () s
              else (s.place s.view a ⟨1, al, true, false, false, wins⟩).bind fun _ s => .ok () s
  | _ => .ok () s

/-- The checks of every piece of an operand before any is used. -/
def State.checkPieces (s : State) (src : MSrc) (wins : Nat) (rd wr : Bool) (l : List (Nat × Nat)) : Res Unit :=
  match src with
  | .mem a => Res.each l s fun x s =>
      (s.place s.view (a + BitVec.ofNat 64 x.1) ⟨x.2, 1, rd, wr, false, wins⟩).bind fun _ s => .ok () s
  | _ => .ok () s

/-- One piece of an operand. -/
def State.piece (s : State) (src : MSrc) (wins off n : Nat) : Res (Nat × Option Word) :=
  match src with
  | .none => .ok (0, none) s
  | .bank b base => .ok (ofBytes ((rangeFrom (base + off) n).map (s.bankByte b)), none) s
  | .mem a => (s.place s.view (a + BitVec.ofNat 64 off) ⟨n, 1, true, false, false, wins⟩).bind fun p s => s.softRead s.view p

/-- `n` bytes of an operand, and the first poisoned line among them. -/
def State.pieces (s : State) (src : MSrc) (wins off n : Nat) : Res (Nat × Option Word) :=
  (Res.collect (piecesOf off n) s fun x s => (s.piece src wins x.1 x.2).bind fun r s => .ok (x.1 - off, r) s).bind fun l s =>
    .ok (l.foldl (fun (acc : Nat × Option Word) x =>
      (acc.1 ||| (x.2.1 <<< (8 * x.1)), match acc.2 with | none => x.2.2 | some a => some a)) (0, none)) s

/-- One row of an operand: its elements and scales, and a poisoned line that it touches. -/
structure RowIn where
  row : KRow
  bad : Option Word
deriving DecidableEq, Repr

/-- The pieces of activation row `m` (06 R204). -/
def actPieces (f rows m : Nat) (trans : Bool) : List (Nat × Nat) :=
  if trans then
    let sz := fmtWidth f / 8
    let pitch := roundUp (rows * sz) 64
    (List.range 256).map fun k => (k * pitch + m * sz, sz)
  else
    (if fmtIsScaled f then [(scaleOffset f m, 8)] else []) ++ piecesOf (rowOffset f m) (rowBytes f)

def State.actRow (s : State) (src : MSrc) (f rows m : Nat) (trans : Bool) : Res RowIn :=
  match src with
  | .none => .ok ⟨KRow.zero, none⟩ s
  | _ =>
    if trans then
      (Res.collect (actPieces f rows m true) s fun x s => s.piece src winRows x.1 x.2).bind fun l s =>
        .ok ⟨⟨l.map fun x => (elemValue f x.1).1, List.replicate 8 unitScale⟩, (l.filterMap (·.2)).head?⟩ s
    else
      (s.pieces src winRows (rowOffset f m) (rowBytes f)).bind fun d s =>
        if fmtIsScaled f then
          (s.piece src winRows (scaleOffset f m) 8).bind fun h s =>
            .ok (match h.2 with | some a => ⟨KRow.zero, some a⟩ | none => ⟨kRowOf f d.1 h.1, d.2⟩) s
        else .ok ⟨kRowOf f d.1 0, d.2⟩ s

/-- Row `m` of 192 elements of an AADD or ASCL operand. -/
def State.plainRow (s : State) (src : MSrc) (f m : Nat) : Res RowIn :=
  (s.pieces src winRows (m * 24 * fmtWidth f) (24 * fmtWidth f)).bind fun d s =>
    .ok ⟨⟨(elemsOf (fmtWidth f) 192 d.1).map fun x => (elemValue f x).1, []⟩, d.2⟩ s

/-! ## Adapters (06 R217, 16 R426) -/

/-- `TVAL` of a read that names no generic address: the object's code, the slot and the offset. -/
def adapterAddr (code slot off : Nat) : Word := BitVec.ofNat 64 (code * 2 ^ 60 + slot * 2 ^ 48 + off % 2 ^ 48)

/-- The check of a named adapter slot. A core that has not acknowledged that the slot is gone still sees it live (16 R424). -/
def State.adapterGate (s : State) (slot : BitVec 12) : Res Adapter :=
  let a := s.adapter slot.toNat
  let t := s.task s.me
  if a.st = 0 ∨ a.st = 1 ∨ (a.st = 4 ∧ a.acks.getLsbD s.myCore = false) then .trap cAdapterGone (slot.setWidth 64)
  else if a.owner ≠ t.ctx ∧ slot ≠ t.adpt then .trap cProt (slot.setWidth 64)
  else .ok a s

/-- `n` bytes of one of a slot's objects, and the first poisoned line among them as `TVAL` names it. -/
def State.adapterRead (s : State) (code slot owner idx off n : Nat) : Res (Nat × Option Word) :=
  let named := fun (a : Word) => adapterAddr code slot (a.toNat % 2 ^ 52)
  match s.objRow owner idx with
  | none => .trap cObjUnloaded (adapterAddr code slot off)
  | some o =>
    if o.desc.size < off + n then .trap cObjBounds (adapterAddr code slot (max off o.desc.size))
    else
      let v := { s.view with ctx := owner, objs := [(0, o.desc)] }
      (Res.collect (piecesOf off n) s fun x s =>
        match (s.place v (BitVec.ofNat 64 (8 * 2 ^ 60 + x.1)) ⟨x.2, 1, true, false, false, 16⟩).bind
            (fun p s => s.softRead v p) with
        | .trap c _ => .trap c (adapterAddr code slot x.1)
        | r => r.bind fun d s => .ok (x.1 - off, d) s).bind fun l s =>
        .ok (l.foldl (fun (acc : Nat × Option Word) x => (acc.1 ||| (x.2.1 <<< (8 * x.1)), acc.2.or (x.2.2.map named))) (0, none)) s

/-! ## Accumulator rows (06 R213) -/

def Matrix.row (m : Matrix) (i : Nat) : AccRow := tget AccRow.init m.acc i

def Matrix.putRow (m : Matrix) (i : Nat) (r : AccRow) : Matrix := { m with acc := tset AccRow.init m.acc i r }

/-- Cell `n` of a row as 32 bits. -/
def AccRow.cell (r : AccRow) (n : Nat) : Nat := (r.cells.extractLsb' (32 * n) 32).toNat

/-- A row's cells from 192 values. -/
def cellsOf (l : List Nat) : BitVec 6144 :=
  BitVec.ofNat 6144 (((List.range 192).zip l).foldl (fun acc x => acc ||| ((x.2 % 2 ^ 32) <<< (32 * x.1))) 0)

/-- The exact value of a cell by its row's kind. -/
def AccRow.value (r : AccRow) (n : Nat) : Num :=
  match r.kind with
  | 0 => .fin false 0 0
  | 1 => fp32Num (r.cell n)
  | _ => numOfInt (signedOf 32 (r.cell n))

/-- Kinds of row. -/
def kindFloat : Nat := 1
def kindInt : Nat := 2

/-- The rows a word names are the task's, and on the right side of the handler reserve (06 R214, 15 R400). -/
def State.rowGate (s : State) (w : MWord) : Res Unit :=
  let t := s.task s.me
  let lo := w.start.toNat
  let hi := lo + w.rows.toNat + 1
  if s.blk.handler then (if lo < 960 then .trap cResource (BitVec.ofNat 64 lo) else .ok () s)
  else
    let lim := if t.hart.hres then min t.accr 960 else t.accr
    if lim < hi then .trap cResource (BitVec.ofNat 64 (max lo lim)) else .ok () s

/-- `TVAL` of a poisoned accumulator row. -/
def rowPoison (row : Nat) : Word := BitVec.ofNat 64 (2 ^ 63 + row)

/-- The accumulation checks of rows [lo, hi), in order: kind and closed bit, then poison. -/
def Matrix.accCheck (m : Matrix) (path : Nat) (closing ppois : Bool) (rows : List Nat) (k : Res MSrc) : Res MSrc :=
  match rows with
  | [] => k
  | i :: t =>
    let r := m.row i
    if (closing && r.closed) || (r.kind != 0 && r.kind != path) then .trap cResource (BitVec.ofNat 64 i)
    else if r.poison && !ppois then .trap cPoison (rowPoison i)
    else m.accCheck path closing ppois t k

/-! ## How a matrix word ends -/

/-- A word ended, or stopped before a row, for a halt or for poisoned data. -/
inductive MEnd where
  | done
  | split (row : Nat)
  | poison (row : Nat) (line : Word)
deriving DecidableEq, Repr

/-- The rows a word may begin in this step: those from `lo` to `stop`, and how the word ends there. -/
structure Span where
  lo : Nat
  stop : Nat
  fin : MEnd

/-- From row `lo` of `n`: poisoned data stop the word at the first row of their beat, a halt at the end of the beat that row
`lim` falls in; `g` rows share a beat (06 R225, R227). -/
def spanOf (lo n g : Nat) (lim : Option Nat) (bads : List (Nat × Word)) : Span :=
  let cut := match lim with | none => n | some l => max lo (min n (roundUp l g))
  match bads.head? with
  | some (i, a) => let m := max lo (i / g * g)
                   if m < cut then ⟨lo, m, .poison m a⟩ else if cut < n then ⟨lo, cut, .split cut⟩ else ⟨lo, n, .done⟩
  | none => if cut < n then ⟨lo, cut, .split cut⟩ else ⟨lo, n, .done⟩

/-- The first row of the word not yet begun. -/
def State.firstRow (s : State) : Nat := match s.running with | some r => if r.split then r.row else 0 | none => 0

/-- The word has stopped before a row; the block it went on from stands while none of its rows has begun (13 R351). -/
def State.setSplit (s : State) (row : Nat) : State :=
  let lo := s.firstRow
  match s.running with
  | none => s
  | some r => s.setRunning (some { r with split := true, row := row, block := if row = lo then r.block else none })

/-! ## Latching weights (06 R215, R224) -/

/-- Markers of R228 for weights without an address. -/
def bankMarker (off : Nat) : Word := BitVec.ofNat 64 (0xF * 2 ^ 60 + off)
def zeroMarker : Word := BitVec.ofNat 64 (0xE * 2 ^ 60)

/-- Whole columns of a format that `avail` bytes hold. -/
def columnsIn (f avail : Nat) : Nat :=
  ((List.range 192).filter fun n => decide (rowOffset f n + rowBytes f ≤ avail)).length

/-- The first `cols` columns of a tile, the rest zero. -/
def tileOf (f cols data : Nat) : Nat :=
  (List.range cols).foldl (fun acc n =>
    let o := rowOffset f n
    let h := scaleOffset f n
    acc ||| (bits data (8 * (o + rowBytes f) - 1) (8 * o) <<< (8 * o))
      ||| (if fmtIsScaled f then bits data (8 * (h + 8) - 1) (8 * h) <<< (8 * h) else 0)) 0

/-- The tile an operand holds: its bytes and the version of its weight object. -/
def State.readTile (s : State) (f : Nat) (src : MSrc) : Res (Nat × Nat) :=
  match src with
  | .none => .ok (0, 0) s
  | .bank b off =>
    let cols := columnsIn f (4096 - off)
    if cols = 0 then .trap cResource s.turn.wordPc
    else .ok (tileOf f cols (ofBytes ((rangeFrom off (4096 - off)).map (s.bankByte b))), 0) s
  | .mem a =>
    let ver := match windowOf a with | some (.weight id _) => (s.wobj id).ver | _ => 0
    (s.aligned src winWeights 64).bind fun _ s =>
    (s.checkPieces src winWeights true false (piecesOf 0 (tileBytes f))).bind fun _ s =>
    (s.pieces src winWeights 0 (tileBytes f)).bind fun d s =>
      match d.2 with
      | some line => .trap cPoison line
      | none => .ok (d.1, ver) s

/-- The operand's marker or address as the latched weights record it. -/
def MSrc.record (x : MSrc) : Word :=
  match x with
  | .none => zeroMarker
  | .bank _ off => bankMarker off
  | .mem a => a

/-- NV of a tile's T5 bytes (02 R64). -/
def tileFlags (f data : Nat) : Flags :=
  if f = 9 then
    (List.range 192).foldl (fun m n => m ||| (t5Column (bits data (512 * n + 511) (512 * n))).2) fNone
  else fNone

/-- The weights latched from an operand. -/
def State.latch (s : State) (f col : Nat) (neg : Bool) (src : MSrc) : Res Unit :=
  (s.readTile f src).bind fun d s =>
    .ok () ((s.setMyMat { s.myMat with latched := some ⟨f, src.record, d.2, col, neg, d.1⟩, reload := false }).raiseTaskFlags
      s.me (tileFlags f d.1))

/-- The operand a recorded source names now. -/
def State.recorded (s : State) (w : Word) : Res MSrc :=
  match bits w.toNat 63 60 with
  | 15 =>
    (match s.blk.lentSrc with
    | none => .trap cResource s.turn.wordPc
    | some b => if 4096 ≤ bits w.toNat 59 0 then .trap cResource s.turn.wordPc else .ok (.bank b (bits w.toNat 59 0)) s)
  | 14 => .ok .none s
  | _ => .ok (.mem w) s

/-- Weights due for a reload are read again from their source (06 R224, R229). -/
def State.reloadWeights (s : State) : Res Unit :=
  match s.myMat.reload, s.myMat.latched with
  | true, some l => (s.recorded l.src).bind fun src s => s.latch l.fmt l.col l.neg src
  | _, _ => .ok () s

/-! ## A matrix word -/

/-- What every matrix word whose guard holds is checked for first (06 R214), with the weights its engine goes on with. -/
def State.matrixEnter (s : State) : Res Unit :=
  let h := (s.task s.me).hart
  if h.inhdl && !h.hres then .trap cResource s.turn.wordPc else s.reloadWeights

/-- The preamble, the waits, the guard, the effect, the end (06 R210). -/
def matrixWord (w : MWord) (s : State) (effect : Pre → State → Res MEnd) : Out :=
  match s.preamble w.tok with
  | .trap c v => finish s (.trap c v)
  | .hold h => holdWord s h
  | .ok p t =>
    match t.unmet p with
    | some g => holdWord t ⟨.twait, g.tok, g.gen.setWidth 64⟩
    | none =>
      if t.regPoison.contains (t.me, 1, w.guard.toNat) then
        finish t (.trap cPoison (BitVec.ofNat 64 (2 ^ 62 + 256 + w.guard.toNat)))
      else if !t.guard w.guard then .next (t.endWord p.prod)
      else
        match t.matrixEnter.bind fun _ t => effect p t with
        | .trap c v => finish t (.trap c v)
        | .hold h => holdWord t h
        | .ok .done u => .next (u.endWord p.prod)
        | .ok (.split row) u => .next (u.setSplit row)
        | .ok (.poison row line) u =>
          .next { (u.setSplit row).takeTrap cPoison line with turn := { u.turn with stop := .trapped cPoison line } }

/-! ## From word to word (06 R208, R224) -/

/-- The next point of an iteration space, level 0 innermost; none after the last. -/
def nextPoint : List Nat → List Nat → Option (List Nat)
  | t :: ts, i :: is => if i + 1 < t then some ((i + 1) :: is) else (nextPoint ts is).map (0 :: ·)
  | _, _ => none

/-- After a word: the next word, the next point, the word after an MCONT whose remainder has ended, or the block's end. -/
def State.matrixNext (s : State) : Nat → State
  | 0 => s
  | n + 1 =>
    match s.running with
    | none => s
    | some r =>
      let r := r.wordDone
      if r.word + 1 < r.n then s.setRunning (some { r with pc := r.pc + 24, word := r.word + 1 })
      else
        match nextPoint ((s.myMat.act.map (·.trip)).getD []) r.idx with
        | some idx => s.setRunning (some { r with pc := r.start, word := 0, idx := idx })
        | none =>
          match r.cont with
          | [] => (s.setRunning (some { r with pc := r.pc + 24 })).endBlock s.me 2
          | c :: rest =>
            let t := ((s.task s.me).endProd c.recorded).endProd c.prod
            let s := (s.setTask s.me t).settle s.me
            let r := { r with pc := c.pc, word := c.word, idx := c.idx, start := c.start, n := c.n, cont := rest }
            (s.setRunning (some r)).matrixNext n

/-- The engine goes on from a word that has ended. -/
def State.matrixAdvance (s : State) : State :=
  s.matrixNext ((s.running.map (·.cont.length)).getD 0 + 2)

end Sys2Proof.Machine
end

