-- ==== Sys2Proof/Machine/Matrix.lean ====
section
/-! DEFINITION. The matrix words, the read of a nest record, and a word cut short by a halt (spec 06 R206–R227). -/
namespace Sys2Proof.Machine

/-! ## MNEST in the engine (06 R206, R207) -/

/-- A nest record from its 256 bytes, if it has no error. -/
def nestRecord (x : Nat) : Option NestRec :=
  let b := fun (off n : Nat) => bits x (8 * (off + n) - 1) (8 * off)
  let klev := b 57 1
  let nlev := b 58 1
  let mode := b 59 1
  let trips := (List.range 6).map fun l => b (32 + 4 * l) 4
  let ok := b 56 1 == 1 && trips.all (fun t => t != 0) && decide (klev < 8) && decide (nlev < 8) && klev != 6 && nlev != 6
    && decide (mode < 2) && !(mode == 1 && klev == 7) && b 60 4 == 0 && b 160 96 == 0
  if ok then
    some ⟨(List.range 4).map fun g => BitVec.ofNat 64 (b (8 * g) 8), trips,
      (List.range 6).map fun l => (List.range 4).map fun g => signedOf 32 (b (64 + 16 * l + 4 * g) 4), klev, nlev, mode == 1⟩
  else none

/-- The engine reads the record of the MNEST that it has begun, and the entry ends. -/
def State.runNest (s : State) : Res Unit :=
  let a := (s.running.map (·.start)).getD 0
  (s.memRead s.view a ⟨256, 256, true, false, false, 6⟩).bind fun x s =>
    match nestRecord x with
    | none => .trap cIllegal a
    | some n => .ok () ((s.setMyMat { s.myMat with shadow := some n }).endBlock s.me 2)

/-! ## WLD -/

/-- 06 R215. -/
def execWld (w : MWord) (s : State) : Out :=
  matrixWord w s fun _ s =>
    let c := w.kb.toNat + s.idxN
    if 255 < c then .trap cIllegal s.turn.wordPc
    else
      (s.operand w.wgen w.woff s.blk.lentSrc (if w.woff.toNat * 64 < 4096 then 0 else 1)).bind fun src s =>
      (s.latch w.wfmt.toNat c w.neg src).bind fun _ s => .ok .done s

/-! ## ASTEP and ASTEPA -/

/-- Twice the rows per beat of a pairing (06 R202). -/
def rowRate2 (af wf : Nat) : Nat :=
  let wide := fun (f : Nat) => f == 1 || f == 2
  let small := fun (f : Nat) => f == 5 || f == 8 || f == 13
  if wide af || wide wf then 1
  else if wf == 9 && (af == 6 || af == 7 || af == 8) then 8
  else if small af && small wf then 4 else 2

/-- Beats of a word by its pairing. -/
def baseBeats (af wf rows : Nat) : Nat := cdiv (2 * rows) (rowRate2 af wf)

/-- Beats the rank path asks for (06 R217). -/
def rankBeats (rows r : Nat) : Nat := cdiv (rows * 448 * r) 16384

/-- What the rank path reads for a word: A's columns, B's rows, the rank, and the first poisoned line among them, A's before B's. -/
structure RankData where
  a : List (List Num)
  b : List (List Num)
  r : Nat
  bad : Option Word

/-- A rank index beyond the rank contributes zero. -/
def cutRank (r : Nat) (l : List Num) : List Num := l.take r ++ List.replicate (64 - r) (.fin false 0 0)

/-- 06 R217: A rows 256j to 256j + 255 and B rows of column block c. -/
def State.rankData (s : State) (w : MWord) (a : Adapter) (j c : Nat) : Res RankData :=
  let slot := w.adp.toNat
  let r := min (w.rank.toNat + 1) (a.rankm1 + 1)
  (s.adapterRead 0xD slot a.owner a.aidx (32768 * j) 32768).bind fun x s =>
  (s.adapterRead 0xE slot a.owner a.bidx (24576 * c) 24576).bind fun y s =>
    let at16 := fun (d off : Nat) => fltValue bf16 (bits d (8 * off + 15) (8 * off))
    .ok ⟨(List.range r).map fun rho => (List.range 256).map fun k => at16 x.1 (128 * k + 2 * rho),
        (List.range 192).map fun n => cutRank r ((List.range 64).map fun rho => at16 y.1 (384 * rho + 2 * n)),
        w.rank.toNat + 1, x.2.or y.2⟩ s

/-- C's group sums for every column of a row (02 R76). -/
def rankRow (sat : Bool) (d : RankData) (x : KRow) : List (List (Num × Flags)) × Flags :=
  let xs := (List.range 256).map (rankInput sat x)
  let ts := d.a.map fun col => rankT sat (xs.map (·.1)) col
  let t := cutRank d.a.length (ts.map (·.1))
  let fl := (xs ++ ts).foldl (fun f y => f ||| y.2) fNone
  (d.b.map fun col => rankC sat d.r t col, fl)

/-- One accumulator row of a tile step: its 192 cells and the flags. -/
def stepRow (isInt scaled sat accOn : Bool) (wt : List KRow) (old : AccRow) (x : KRow) (rank : Option RankData) :
    List Nat × Flags :=
  let cs := match rank with | none => (List.replicate 192 [], fNone) | some d => rankRow sat d x
  let cells := (List.range 192).map fun n =>
    let col := wt.getD n KRow.zero
    let gs := cs.1.getD n []
    if isInt then
      let base := ((x.vals.zip col.vals).map fun p => intVal p.1 * intVal p.2).foldl (· + ·) 0
      let start : Int := if accOn then signedOf 32 (old.cell n) else 0
      let ri := match rank with | none => ((0 : Int), fNone) | some _ => rankInt sat gs
      let r := int32Of sat (start + base + ri.1)
      (r.1, ri.2 ||| r.2)
    else
      let start := if accOn then fp32Num (old.cell n) else .fin false 0 0
      let r := chain sat start (kGroups sat scaled x col ++ gs)
      ((roundNum fp32 0 false r.1).1, r.2)
  (cells.map (·.1), cells.foldl (fun f c => f ||| c.2) cs.2)

/-- One row written by a tile step. -/
structure RowStep where
  m : Matrix
  flags : Flags

def stepRows (w : MWord) (isInt accOn fin : Bool) (wt : List KRow) (rank : Option RankData) (l : List (Nat × RowIn))
    (st : RowStep) : RowStep :=
  l.foldl (fun st x =>
    let i := w.start.toNat + x.1
    let old := st.m.row i
    let r := stepRow isInt w.bscale w.sat accOn wt old x.2.row rank
    let bad := x.2.bad.isSome || rank.any fun d => d.bad.isSome
    ⟨st.m.putRow i ⟨cellsOf r.1, if isInt then kindInt else kindFloat, fin, bad || (accOn && old.poison)⟩, st.flags ||| r.2⟩) st

/-- The rows of an operand read from row `lo` on. -/
def readRows (lo n : Nat) (s : State) (f : Nat → State → Res RowIn) : Res (List (Nat × RowIn)) :=
  Res.collect (rangeFrom lo (n - lo)) s fun i s => (f i s).bind fun x s => .ok (i, x) s

/-- Rows whose data are poisoned, unless poison is propagated. -/
def badRows (ppois : Bool) (l : List (Nat × RowIn)) : List (Nat × Word) :=
  if ppois then [] else l.filterMap fun x => x.2.bad.map fun a => (x.1, a)

/-- A tile step; `adp` is set for ASTEPA, and `lim` holds back the rows a halt keeps from beginning. -/
def tileStep (adp : Bool) (w : MWord) (lim : Option Nat) (s : State) : Out :=
  matrixWord w s fun _ s =>
    let af := w.afmt.toNat
    let rows := w.rows.toNat + 1
    let j := s.kblock w.kb.toNat
    match s.myMat.latched with
    | none =>
      -- the flag is wrong whatever the weights would be
      if fmtIsScaled af && !w.bscale then .trap cIllegal s.turn.wordPc else .trap cResource s.turn.wordPc
    | some l =>
      if w.bscale != (fmtIsScaled af || fmtIsScaled l.fmt) then .trap cIllegal s.turn.wordPc
      else if 255 < j then .trap cIllegal s.turn.wordPc
      else
        let isInt := isIntFmt af && isIntFmt l.fmt
        let accOn := s.accOn w
        let lo := s.firstRow
        (s.rowGate w).bind fun _ s =>
        (if adp then (s.adapterGate w.adp).bind fun a s => Res.ok (some a) s else Res.ok none s).bind fun a s =>
        (let go := s.operand w.agen w.aoff s.blk.lentSrc (operandBytes af rows)
         if accOn then s.myMat.accCheck (if isInt then kindInt else kindFloat) true w.ppois
            (rangeFrom (w.start.toNat + lo) (rows - lo)) go else go).bind fun src s =>
        (s.aligned src winRows 64).bind fun _ s =>
        (s.checkPieces src winRows true false ((rangeFrom lo (rows - lo)).flatMap fun m => actPieces af rows m w.trans)).bind
          fun _ s =>
        (match a with
          | none => Res.ok none s
          | some a => (s.rankData w a j l.col).bind fun d s => Res.ok (some d) s).bind fun rank s =>
        (readRows lo rows s fun m s => s.actRow src af rows m w.trans).bind fun xs s =>
          let paced := adp && decide (baseBeats af l.fmt rows < rankBeats rows (w.rank.toNat + 1))
          let g := if paced then 4 else max 1 (rowRate2 af l.fmt / 2)
          let sp : Span := match rank.bind (·.bad), w.ppois with
            | some a, false => ⟨lo, lo, .poison lo a⟩
            | _, _ => spanOf lo rows g lim (badRows w.ppois xs)
          let wt := (List.range 192).map (weightColumn l.fmt l.data l.neg)
          let r := stepRows w isInt accOn (s.lastK w) wt rank (xs.take (sp.stop - lo)) ⟨s.myMat, fNone⟩
          let beats := fun n => if adp then max (baseBeats af l.fmt n) (rankBeats n (w.rank.toNat + 1)) else baseBeats af l.fmt n
          let m := { r.m with beats := r.m.beats + (beats sp.stop - beats sp.lo) }
          .ok sp.fin ((s.setMyMat m).raiseTaskFlags s.me r.flags)

/-- 06 R216. -/
def execAstep (w : MWord) (s : State) : Out := tileStep false w none s
/-- 06 R217. -/
def execAstepa (w : MWord) (s : State) : Out := tileStep true w none s

/-! ## ACLR, AADD, ASCL -/

/-- 06 R218. -/
def execAclr (w : MWord) (s : State) : Out :=
  matrixWord w s fun _ s =>
    (s.rowGate w).bind fun _ s =>
      let m := (rangeFrom w.start.toNat (w.rows.toNat + 1)).foldl (fun (m : Matrix) i => m.putRow i AccRow.init) s.myMat
      .ok .done (s.setMyMat m)

/-- The operand rows of AADD and ASCL, checked: `n` rows of 192 elements from row `lo`. -/
def State.rowOperand (s : State) (w : MWord) (lo n : Nat) : Res (List (Nat × RowIn)) :=
  let f := w.afmt.toNat
  (s.operand w.agen w.aoff s.blk.lentSrc (n * 24 * fmtWidth f)).bind fun src s =>
  (s.aligned src winRows 64).bind fun _ s =>
  (s.checkPieces src winRows true false
    ((rangeFrom lo (n - lo)).flatMap fun m => piecesOf (m * 24 * fmtWidth f) (24 * fmtWidth f))).bind fun _ s =>
  readRows lo n s fun m s => s.plainRow src f m

/-- One cell of AADD (06 R219). -/
def aaddCell (isInt accOn sat : Bool) (old : Nat) (x : Num) : Nat × Flags :=
  if isInt then
    if accOn then int32Of sat (signedOf 32 old + intVal x) else (unsignedOf 32 (intVal x), fNone)
  else if accOn then
    let z := addNum 0 (fp32Num old) x
    let r := roundM sat z.1
    (r.1, z.2 ||| r.2)
  else ((roundNum fp32 0 false x).1, fNone)

/-- 06 R219, with the rows a halt holds back. -/
def aaddRows (w : MWord) (lim : Option Nat) (s : State) : Out :=
  matrixWord w s fun _ s =>
    let rows := w.rows.toNat + 1
    let lo := s.firstRow
    let accOn := s.accOn w
    let isInt := (fltOf w.afmt.toNat).isNone
    let kind := if isInt then kindInt else kindFloat
    (s.rowGate w).bind fun _ s =>
    (if accOn then s.myMat.accCheck kind false w.ppois (rangeFrom (w.start.toNat + lo) (rows - lo)) (.ok .none s)
      else .ok .none s).bind fun _ s =>
    (s.rowOperand w lo rows).bind fun xs s =>
      let sp := spanOf lo rows 1 lim (badRows w.ppois xs)
      let r := (xs.take (sp.stop - lo)).foldl (fun (st : RowStep) x =>
        let i := w.start.toNat + x.1
        let old := st.m.row i
        let cs := (List.range 192).map fun n => aaddCell isInt accOn w.sat (old.cell n) (x.2.row.vals.getD n .nan)
        ⟨st.m.putRow i ⟨cellsOf (cs.map (·.1)), kind, old.closed, x.2.bad.isSome || (accOn && old.poison)⟩,
          cs.foldl (fun f c => f ||| c.2) st.flags⟩) (RowStep.mk s.myMat fNone)
      .ok sp.fin ((s.setMyMat r.m).raiseTaskFlags s.me r.flags)

/-- 06 R219. -/
def execAadd (w : MWord) (s : State) : Out := aaddRows w none s

/-- The first poisoned row among those a word reads with flag [52] clear (06 R226). -/
def Matrix.poisonCheck (m : Matrix) (always : Bool) (rows : List Nat) (k : Res Unit) : Res Unit :=
  match rows.find? fun i => (m.row i).poison with
  | some i => if always then .trap cPoison (rowPoison i) else k
  | none => k

/-- 06 R220, with the rows a halt holds back. -/
def asclRows (w : MWord) (lim : Option Nat) (s : State) : Out :=
  matrixWord w s fun _ s =>
    let rows := w.rows.toNat + 1
    let lo := s.firstRow
    (s.rowGate w).bind fun _ s =>
    (s.myMat.poisonCheck (!w.ppois) (rangeFrom (w.start.toNat + lo) (rows - lo)) (.ok () s)).bind fun _ s =>
    (s.rowOperand w 0 1).bind fun xs s =>
      let x := (xs.map (·.2)).headD ⟨KRow.zero, none⟩
      let sp : Span := match x.bad, w.ppois with
        | some a, false => ⟨lo, lo, .poison lo a⟩
        | _, _ => spanOf lo rows 1 lim []
      let r := (rangeFrom lo (sp.stop - lo)).foldl (fun (st : RowStep) m =>
        let i := w.start.toNat + m
        let old := st.m.row i
        let cs := (List.range 192).map fun n =>
          let z := mulNum (old.value n) (x.row.vals.getD n .nan)
          let r := roundM w.sat z.1
          (r.1, z.2 ||| r.2)
        let clear := old.kind == 0 && cs.all fun c => c.1 == 0
        ⟨st.m.putRow i ⟨cellsOf (cs.map (·.1)), if clear then 0 else kindFloat, old.closed, x.bad.isSome || old.poison⟩,
          cs.foldl (fun f c => f ||| c.2) st.flags⟩) (RowStep.mk s.myMat fNone)
      .ok sp.fin ((s.setMyMat r.m).raiseTaskFlags s.me r.flags)

/-- 06 R220. -/
def execAscl (w : MWord) (s : State) : Out := asclRows w none s

/-! ## ARD -/

/-- Bytes of ARD's output for `rows` rows (06 R205). -/
def outBytes (f rows : Nat) : Nat := if fmtIsScaled f then rows / 8 * scaledTile f else rows * 24 * fmtWidth f

/-- The pieces of output row `m`: offsets and byte counts. -/
def outPieces (f m : Nat) : List (Nat × Nat) :=
  if fmtIsScaled f then (scaleOffset f m, 8) :: piecesOf (rowOffset f m) (rowBytes f)
  else
    let n := 24 * fmtWidth f
    (List.range (n / 32)).map fun i => (m * n + 32 * i, 32)

/-- The residual scales of 192 columns, if a slot with scales is named, and the first poisoned line among them (16 R426). -/
def State.residuals (s : State) (w : MWord) : Res (Option (List Num × Option Word)) :=
  if w.adp = 0xFFF then .ok none s
  else
    (s.adapterGate w.adp).bind fun a s =>
      if a.ridx = 0xFFFF then .ok none s
      else
        let r := match s.myMat.latched with
          | some l => (l.col, s)
          | none => ((Config.freeWord s.freeIdx).toNat % 256, { s with freeIdx := s.freeIdx + 1 })
        (r.2.adapterRead 0xF w.adp.toNat a.owner a.ridx (768 * r.1) 768).bind fun d s =>
          .ok (some ((elemsOf 32 192 d.1).map fp32Num, d.2)) s

/-- One value on its way out: the residual scale, then the epilogue (06 R221). -/
def drainValue (w : MWord) (v : Num) (res : Option Num) : Num × Flags :=
  let x := match res with | none => (v, fNone) | some r => mulNum v r
  if w.epilogue then
    let y := roundNum fp32 0 false x.1
    (epilogueOf w.epi.toNat (fp32Num y.1), x.2 ||| y.2)
  else x

/-- A drained row as the bytes of its pieces, in order. -/
def drainRow (w : MWord) (vs : List (Num × Flags)) : List (List Byte) × Flags :=
  let f := w.ofmt.toNat
  let fl := vs.foldl (fun m v => m ||| v.2) fNone
  if fmtIsScaled f then
    let blocks := (List.range 6).map fun q =>
      let xs := ((vs.drop (32 * q)).take 32).map (·.1)
      let sc := blockScale f xs
      (sc.1, xs.map fun x => if sc.2 then (0, fNV) else quantElem f w.rnd sc.1 x)
    let es := blocks.flatMap (·.2)
    let packed := ((List.range 192).zip es).foldl (fun acc x => acc ||| ((x.2.1 % 2 ^ fmtWidth f) <<< (fmtWidth f * x.1))) 0
    let row := bytesOf (rowBytes f) packed
    ((blocks.map (fun b => BitVec.ofNat 8 b.1) ++ [BitVec.ofNat 8 unitScale, BitVec.ofNat 8 unitScale])
        :: (piecesOf 0 (rowBytes f)).map (fun p => (row.drop p.1).take p.2),
      es.foldl (fun m e => m ||| e.2) fl)
  else
    let ys := vs.map fun v => convertNum f w.rnd w.sat v.1
    let packed := ((List.range 192).zip ys).foldl (fun acc x => acc ||| ((x.2.1 % 2 ^ fmtWidth f) <<< (fmtWidth f * x.1))) 0
    let row := bytesOf (24 * fmtWidth f) packed
    ((List.range (24 * fmtWidth f / 32)).map fun i => (row.drop (32 * i)).take 32,
      ys.foldl (fun m y => m ||| y.2) fl)

/-- An entry that this instruction has parked for a line of an object: its data are poisoned. -/
def markBad (o : ObjDesc) (a : Word) (e : SideEnt) : SideEnt :=
  if e.obj = o.idx ∧ e.addr = lineAddr a then { e with bad := true } else e

/-- Lines that a poisoned row was written to are marked, those that parked at their replay (06 R226). `base` is how many entries
the side log held before the instruction. -/
def State.poisonPlaces (s : State) (v : View) (base : Nat) (l : List Place) : State :=
  l.foldl (fun s p =>
    match s.mustPark v p with
    | none => s.poisonLine (p.key / 128)
    | some o =>
      let c := s.core v.core
      s.setCore v.core { c with sidelog := c.sidelog.take base ++ (c.sidelog.drop base).map (markBad o p.addr) }) s

/-- Where the pieces of an output in memory go. -/
def State.outPlaces (s : State) (v : View) (a : Word) (l : List (Nat × Nat)) : Res (List Place) :=
  Res.collect l s fun x s => s.place v (a + BitVec.ofNat 64 x.1) ⟨x.2, 1, false, true, false, winOut⟩

/-- The output's one claim, at the first rows that the word writes, of all its rows, with the zero bytes it adds (08 R290). -/
def State.claimOut (s : State) (a : Word) (all : Option (List (Nat × Nat))) : Res (List Store) :=
  match all with
  | none => .ok [] s
  | some l => (s.outPlaces s.view a l).bind fun ps s => s.claimStores s.view ps

/-- Pieces written to a bank or to memory: whether their row is poisoned, where they go, and their bytes (06 R205). The word that
begins its output claims `all` its pieces first. -/
def State.putPieces (s : State) (p : Pre) (dst : MSrc) (all : Option (List (Nat × Nat)))
    (l : List (Bool × (Nat × Nat) × List Byte)) : Res Unit :=
  match dst with
  | .none => .ok () s
  | .bank b off => .ok () (l.foldl (fun s x => s.putBank b (off + x.2.1.1) x.2.2) s)
  | .mem a =>
    let v := { s.view with claims := false }
    (s.claimOut a all).bind fun z s =>
    (s.outPlaces v a (l.map (·.2.1))).bind fun ps s =>
      let st := (l.zip ps).map fun x => (x.1.1, Store.mk x.2 3 x.1.2.2)
      let base := (s.core v.core).sidelog.length
      (s.storeAll v (s.owedWord p) (st.map (·.2) ++ z)).bind fun _ s =>
        .ok () (s.poisonPlaces v base ((st.filter (·.1)).map fun x => x.2.place))

/-- 06 R221, with the rows a halt holds back. -/
def ardRows (w : MWord) (lim : Option Nat) (s : State) : Out :=
  matrixWord w s fun p s =>
    let f := w.ofmt.toNat
    let rows := w.rows.toNat + 1
    let lo := s.firstRow
    (s.rowGate w).bind fun _ s =>
    (s.residuals w).bind fun res s =>
    (s.operand w.ogen w.ooff s.blk.lentTgt (outBytes f rows)).bind fun dst s =>
      let toBank := match dst with | .bank _ _ => true | _ => false
      (s.myMat.poisonCheck (!w.ppois || toBank) (rangeFrom (w.start.toNat + lo) (rows - lo)) (.ok () s)).bind fun _ s =>
      (s.aligned dst winOut 64).bind fun _ s =>
      let resBad := res.bind (·.2)
      let sp : Span := match resBad, w.ppois with
        | some a, false => ⟨lo, lo, .poison lo a⟩
        | _, _ => spanOf lo rows 1 lim []
      let out : List (Nat × Bool × List (List Byte) × Flags) := (rangeFrom lo (sp.stop - lo)).map fun m =>
        let row := s.myMat.row (w.start.toNat + m)
        (m, row.poison || resBad.isSome, drainRow w ((List.range 192).map fun n =>
          drainValue w (row.value n) (res.map fun r => r.1.getD n .nan)))
      let fl := out.foldl (fun acc x => acc ||| x.2.2.2) fNone
      let parts : List (Bool × (Nat × Nat) × List Byte) := out.flatMap fun x => ((outPieces f x.1).zip x.2.2.1).map fun y => (x.2.1, y)
      let all := if lo = 0 ∧ 0 < sp.stop then some ((List.range rows).flatMap (outPieces f)) else none
      (s.putPieces p dst all parts).bind fun _ s =>
        .ok sp.fin (s.raiseTaskFlags s.me fl)

/-- 06 R221. -/
def execArd (w : MWord) (s : State) : Out := ardRows w none s

/-! ## MNOP and MCONT -/

/-- 06 R223. Its production waits for the engine's parked stores; the engine goes on (09 R304). -/
def execMnop (w : MWord) (s : State) : Out :=
  matrixWord w s fun p s => .ok .done ((s.drain s.me none).markParked 2 p.prod)

/-- The fields of a continuation block that MCONT reads (06 R228). -/
structure Cont where
  flg : Nat
  gen : BitVec 16
  tok : Nat
  kb : Nat
  mpc : Nat
  blk : Nat
  nper : Nat
  rowm : Nat
  wfmt : Nat
  wcol : Nat
  idx : List Nat
  wsrc : Word

/-- A block that passes MCONT's checks, for a context and a matrix section's size (06 R224). -/
def contOf (ctx size x : Nat) : Option Cont :=
  let b := fun (off n : Nat) => bits x (8 * (off + n) - 1) (8 * off)
  let why := b 1 1
  let ok := b 0 1 == 1 && decide (1 ≤ why) && decide (why ≤ 3) && b 3 1 == ctx && decide (b 2 1 < 16)
    && decide (b 72 2 < 4096) && b 76 52 == 0 && decide (b 16 8 + 24 * b 24 4 ≤ size)
  if ok then
    some ⟨b 2 1, BitVec.ofNat 16 (b 4 2), b 6 1, b 7 1, b 8 8, b 16 8, b 24 4, b 28 2, b 30 1, b 31 1,
      (List.range 6).map fun l => b (32 + 4 * l) 4, BitVec.ofNat 64 (b 56 8)⟩
  else none

/-- The remainder that a block `x` records, begun by an MCONT with preamble `p`. -/
def Running.remainder (r : Running) (p : Pre) (x : Nat) (c : Cont) : Running :=
  let recorded : Option Gen := if c.tok < 63 then some ⟨c.tok, c.gen⟩ else none
  let back : Remainder := ⟨r.pc, r.word, r.idx, r.start, r.n, p.prod, recorded⟩
  let split := c.flg.testBit 0
  { r with
    pc := BitVec.ofNat 64 c.mpc, word := (c.mpc - c.blk) / 24, idx := c.idx, start := BitVec.ofNat 64 c.blk, n := c.nper,
    pre := if split || recorded.isSome then some ⟨[], none⟩ else none, hold := Hold.init, cont := back :: r.cont,
    split := split, row := if split then c.rowm else 0, kb := if split then some c.kb else none, block := some x }

/-- What MCONT does once its block is read and checked: the weights, the indices, the remainder. -/
def State.resumeFrom (s : State) (p : Pre) (x : Nat) (c : Cont) : Res Unit :=
  (if c.flg.testBit 1 then (s.recorded c.wsrc).bind fun src s => s.latch c.wfmt c.wcol (c.flg.testBit 2) src
   else .ok () (s.setMyMat { s.myMat with latched := none })).bind fun _ s =>
    match s.running with
    | none => .ok () s
    | some r => .ok () (s.setRunning (some (r.remainder p x c)))

/-- 06 R224. The word does not end here: it ends when its remainder has (`State.matrixNext`). A lent bank is none of the windows of
its operand (06 R211). Log 94. -/
def execMcont (w : MWord) (s : State) : Out :=
  match s.preamble w.tok with
  | .trap c v => finish s (.trap c v)
  | .hold h => holdWord s h
  | .ok p t =>
    match t.unmet p with
    | some g => holdWord t ⟨.twait, g.tok, g.gen.setWidth 64⟩
    | none =>
      if t.regPoison.contains (t.me, 1, w.guard.toNat) then
        finish t (.trap cPoison (BitVec.ofNat 64 (2 ^ 62 + 256 + w.guard.toNat)))
      else if !t.guard w.guard then .next (t.endWord p.prod)
      else
        let r := t.matrixEnter.bind fun _ t =>
          if w.agen = 4 then .trap cBadWindow (BitVec.ofNat 64 (64 * w.aoff.toNat))
          else
            let a := t.agen w.agen.toNat + BitVec.ofNat 64 (64 * w.aoff.toNat)
            (t.aligned (.mem a) winCont 128).bind fun _ t =>
            (t.checkPieces (.mem a) winCont true false (piecesOf 0 128)).bind fun _ t =>
            (t.pieces (.mem a) winCont 0 128).bind fun d t =>
              match d.2 with
              | some line => .trap cPoison line
              | none =>
                match contOf (t.task t.me).ctx (t.sectionSize (t.task t.me).code 2) d.1 with
                | none => .trap cIllegal a
                | some c =>
                  if c.flg.testBit 1 && !inWeight c.wfmt then .trap cIllegal a else t.resumeFrom p d.1 c
        match r with
        | .ok _ u => .next u
        | .trap c v => finish t (.trap c v)
        | .hold h => holdWord t h

/-! ## A word cut short by a halt (06 R227) -/

/-- The word in issue with no row at or past `rows` begun; a word that streams no rows does not run. -/
def partialWord (i : Instr) (rows : Nat) (s : State) : Out :=
  match i with
  | .astep w => tileStep false w (some rows) s
  | .astepa w => tileStep true w (some rows) s
  | .aadd w => aaddRows w (some rows) s
  | .ascl w => asclRows w (some rows) s
  | .ard w => ardRows w (some rows) s
  | _ => .next s

end Sys2Proof.Machine
end

