-- ==== Sys2Proof/Machine/ScalarAlu.lean ====
section
/-! DEFINITION. Scalar arithmetic, logic, compares, predicates and CSR access (spec 04 R122–R129, R139). -/
namespace Sys2Proof.Machine

/-- 04 R122. -/
def execAdd (rd a b : BitVec 5) (g : BitVec 4) (s : State) : Out := binary 1 (· + ·) rd a b g s
/-- 04 R122. -/
def execSub (rd a b : BitVec 5) (g : BitVec 4) (s : State) : Out := binary 1 (· - ·) rd a b g s
/-- 04 R122. -/
def execAnd (rd a b : BitVec 5) (g : BitVec 4) (s : State) : Out := binary 1 (· &&& ·) rd a b g s
/-- 04 R122. -/
def execOr (rd a b : BitVec 5) (g : BitVec 4) (s : State) : Out := binary 1 (· ||| ·) rd a b g s
/-- 04 R122. -/
def execXor (rd a b : BitVec 5) (g : BitVec 4) (s : State) : Out := binary 1 (· ^^^ ·) rd a b g s
/-- 04 R122. -/
def execShl (rd a b : BitVec 5) (g : BitVec 4) (s : State) : Out := binary 1 (fun x y => x <<< amount y) rd a b g s
/-- 04 R122. -/
def execShr (rd a b : BitVec 5) (g : BitVec 4) (s : State) : Out := binary 1 (fun x y => x >>> amount y) rd a b g s
/-- 04 R122. -/
def execSra (rd a b : BitVec 5) (g : BitVec 4) (s : State) : Out :=
  binary 1 (fun x y => x.sshiftRight (amount y)) rd a b g s

/-- 04 R122. -/
def execAddi (rd a : BitVec 5) (imm : BitVec 12) (s : State) : Out := immediate (· + ·) rd a imm s
/-- 04 R122. -/
def execAndi (rd a : BitVec 5) (imm : BitVec 12) (s : State) : Out := immediate (· &&& ·) rd a imm s
/-- 04 R122. -/
def execOri (rd a : BitVec 5) (imm : BitVec 12) (s : State) : Out := immediate (· ||| ·) rd a imm s
/-- 04 R122. -/
def execXori (rd a : BitVec 5) (imm : BitVec 12) (s : State) : Out := immediate (· ^^^ ·) rd a imm s
/-- 04 R122. -/
def execShli (rd a : BitVec 5) (n : BitVec 6) (s : State) : Out := shiftBy (fun x k => x <<< k) rd a n s
/-- 04 R122. -/
def execShri (rd a : BitVec 5) (n : BitVec 6) (s : State) : Out := shiftBy (fun x k => x >>> k) rd a n s
/-- 04 R122. -/
def execSrai (rd a : BitVec 5) (n : BitVec 6) (s : State) : Out := shiftBy (fun x k => x.sshiftRight k) rd a n s

/-- 04 R123. No effect of its own; the next word of the bundle takes its immediate from it. -/
def execLimm (k : BitVec 22) (s : State) : Out := .next (s.setTurn { s.turn with limm := some k })

/-- 04 R124. -/
def execMul (rd a b : BitVec 5) (g : BitVec 4) (s : State) : Out := binary 3 (· * ·) rd a b g s
/-- 04 R124. -/
def execMulh (rd a b : BitVec 5) (g : BitVec 4) (s : State) : Out :=
  binary 3 (fun x y => (x.signExtend 128 * y.signExtend 128).extractLsb' 64 64) rd a b g s
/-- 04 R124. -/
def execMulhu (rd a b : BitVec 5) (g : BitVec 4) (s : State) : Out :=
  binary 3 (fun x y => (x.setWidth 128 * y.setWidth 128).extractLsb' 64 64) rd a b g s
/-- 04 R124. -/
def execMin (rd a b : BitVec 5) (g : BitVec 4) (s : State) : Out :=
  binary 1 (fun x y => if x.slt y then x else y) rd a b g s
/-- 04 R124. -/
def execMax (rd a b : BitVec 5) (g : BitVec 4) (s : State) : Out :=
  binary 1 (fun x y => if x.slt y then y else x) rd a b g s
/-- 04 R124. -/
def execMinu (rd a b : BitVec 5) (g : BitVec 4) (s : State) : Out :=
  binary 1 (fun x y => if x.ult y then x else y) rd a b g s
/-- 04 R124. -/
def execMaxu (rd a b : BitVec 5) (g : BitVec 4) (s : State) : Out :=
  binary 1 (fun x y => if x.ult y then y else x) rd a b g s
/-- 04 R129. -/
def execSel (rd a b : BitVec 5) (n : BitVec 4) (s : State) : Out :=
  finish s (.ok () (s.setReg rd 1 (if s.guard n then s.reg a else s.reg b)))

/-- 04 R125. -/
def execDiv (rd a b : BitVec 5) (g : BitVec 4) (s : State) : Out := divide divS rd a b g s
/-- 04 R125. -/
def execDivu (rd a b : BitVec 5) (g : BitVec 4) (s : State) : Out := divide divU rd a b g s
/-- 04 R125. -/
def execRem (rd a b : BitVec 5) (g : BitVec 4) (s : State) : Out := divide remS rd a b g s
/-- 04 R125. -/
def execRemu (rd a b : BitVec 5) (g : BitVec 4) (s : State) : Out := divide remU rd a b g s
/-- 04 R125. -/
def execClz (rd a : BitVec 5) (g : BitVec 4) (s : State) : Out :=
  unary 2 (fun x => BitVec.ofNat 64 (clzFrom 64 x)) rd a g s
/-- 04 R125. -/
def execPopc (rd a : BitVec 5) (g : BitVec 4) (s : State) : Out :=
  unary 2 (fun x => BitVec.ofNat 64 (popcFrom 64 x)) rd a g s

/-- `n` ones at bit `p` (04 R126). -/
def fieldMask (p n : Nat) : Word := (BitVec.allOnes 64 >>> (64 - n)) <<< p

/-- 04 R126. The length field holds the length minus one. -/
def execExt (rd a : BitVec 5) (p n : BitVec 6) (s : State) : Out :=
  finish s (.ok () (s.setReg rd 1 ((s.reg a >>> p.toNat) &&& fieldMask 0 (n.toNat + 1))))
/-- 04 R126. The other bits of the register keep their values. -/
def execIns (rd a : BitVec 5) (p n : BitVec 6) (s : State) : Out :=
  let m := fieldMask p.toNat (n.toNat + 1)
  finish s (.ok () (s.setReg rd 1 ((s.reg rd &&& ~~~m) ||| ((s.reg a <<< p.toNat) &&& m))))

/-- 04 R127. -/
def execCmpEq (pd : BitVec 4) (a b : BitVec 5) (g : BitVec 4) (s : State) : Out := compare 0 pd a b g s
/-- 04 R127. -/
def execCmpNe (pd : BitVec 4) (a b : BitVec 5) (g : BitVec 4) (s : State) : Out := compare 1 pd a b g s
/-- 04 R127. -/
def execCmpLt (pd : BitVec 4) (a b : BitVec 5) (g : BitVec 4) (s : State) : Out := compare 2 pd a b g s
/-- 04 R127. -/
def execCmpLtu (pd : BitVec 4) (a b : BitVec 5) (g : BitVec 4) (s : State) : Out := compare 3 pd a b g s
/-- 04 R127. -/
def execCmpGe (pd : BitVec 4) (a b : BitVec 5) (g : BitVec 4) (s : State) : Out := compare 4 pd a b g s
/-- 04 R127. -/
def execCmpGeu (pd : BitVec 4) (a b : BitVec 5) (g : BitVec 4) (s : State) : Out := compare 5 pd a b g s
/-- 04 R127. Not guarded; the immediate is sign-extended before any compare. -/
def execCmpi (pd : BitVec 4) (a : BitVec 5) (c : BitVec 3) (imm : BitVec 9) (s : State) : Out :=
  finish s (.ok () (s.setPred pd (fillPred (condHolds c.toNat (s.reg a) (imm.signExtend 64)))))

/-- 04 R128. -/
def execPand (pd pa pb g : BitVec 4) (s : State) : Out := predBinary (· &&& ·) pd pa pb g s
/-- 04 R128. -/
def execPor (pd pa pb g : BitVec 4) (s : State) : Out := predBinary (· ||| ·) pd pa pb g s
/-- 04 R128. -/
def execPxor (pd pa pb g : BitVec 4) (s : State) : Out := predBinary (· ^^^ ·) pd pa pb g s
/-- 04 R128. -/
def execPnot (pd pa g : BitVec 4) (s : State) : Out := guarded g s (.ok () (s.setPred pd (~~~(s.pred pa))))
/-- 04 R128. -/
def execPmov (pd pa g : BitVec 4) (s : State) : Out := guarded g s (.ok () (s.setPred pd (s.pred pa)))

/-- 04 R139, 01 R42, R50. A CSR that is not listed traps; a read of `PTIME` latches the fraction. -/
def execCsrr (rd : BitVec 5) (csr : BitVec 12) (s : State) : Out :=
  match s.csr csr.toNat with
  | none => finish s (illegalBundle s)
  | some v =>
    let t := s.setReg rd 2 v
    finish s (.ok () (if csr = 0x011 then t.noteCsr 0x112 ((s.die s.myDie).frac.setWidth 64) else t))

/-- 04 R139, 01 R42. The write is seen by later bundles. -/
def execCsrw (a : BitVec 5) (csr : BitVec 12) (s : State) : Out :=
  if csrListed csr.toNat then finish s (.ok () (s.noteCsr csr.toNat (s.reg a))) else finish s (illegalBundle s)

end Sys2Proof.Machine
end

