-- ==== Sys2Proof/Machine/Fetch.lean ====
section
/-! DEFINITION. Fetching: the words of a bundle, its decoding checks, and what keeps it from issuing (spec 03 R80–R93, R106,
R109, R110, 12 R347). -/
namespace Sys2Proof.Machine

/-! ## What a word names -/

/-- A register field of a transfer instruction's parameter. -/
def xField (w : TWord) (hi lo : Nat) : BitVec 5 := BitVec.ofNat 5 (w.bits hi lo)

/-- The scalar registers a scalar-stream word reads. -/
def regsRead (i : Instr) : List (BitVec 5) :=
  match i with
  | .add _ a b _ => [a, b]
  | .sub _ a b _ => [a, b]
  | .and _ a b _ => [a, b]
  | .or _ a b _ => [a, b]
  | .xor _ a b _ => [a, b]
  | .shl _ a b _ => [a, b]
  | .shr _ a b _ => [a, b]
  | .sra _ a b _ => [a, b]
  | .mul _ a b _ => [a, b]
  | .mulh _ a b _ => [a, b]
  | .mulhu _ a b _ => [a, b]
  | .min _ a b _ => [a, b]
  | .max _ a b _ => [a, b]
  | .minu _ a b _ => [a, b]
  | .maxu _ a b _ => [a, b]
  | .div _ a b _ => [a, b]
  | .divu _ a b _ => [a, b]
  | .rem _ a b _ => [a, b]
  | .remu _ a b _ => [a, b]
  | .sel _ a b _ => [a, b]
  | .addi _ a _ => [a]
  | .andi _ a _ => [a]
  | .ori _ a _ => [a]
  | .xori _ a _ => [a]
  | .shli _ a _ => [a]
  | .shri _ a _ => [a]
  | .srai _ a _ => [a]
  | .clz _ a _ => [a]
  | .popc _ a _ => [a]
  | .ext _ a _ _ => [a]
  | .ins rd a _ _ => [rd, a]
  | .cmpEq _ a b _ => [a, b]
  | .cmpNe _ a b _ => [a, b]
  | .cmpLt _ a b _ => [a, b]
  | .cmpLtu _ a b _ => [a, b]
  | .cmpGe _ a b _ => [a, b]
  | .cmpGeu _ a b _ => [a, b]
  | .cmpi _ a _ _ => [a]
  | .jr _ a _ => [a]
  | .loop rd _ => [rd]
  | .gaddr _ a _ _ => [a]
  | .sptest _ a _ _ => [a]
  | .spcast _ a _ _ => [a]
  | .objsz _ a _ => [a]
  | .objver _ a _ => [a]
  | .csrw a _ => [a]
  | .vexec w => [w.a, w.b]
  | .mexec w => [w.a]
  | .xexec w => [w.a, w.b]
  | .mnest w => [w.a]
  | .phase a _ => [a]
  | .launch a _ => [a]
  | .ldB _ a _ => [a]
  | .ldBu _ a _ => [a]
  | .ldH _ a _ => [a]
  | .ldHu _ a _ => [a]
  | .ldW _ a _ => [a]
  | .ldWu _ a _ => [a]
  | .ldD _ a _ => [a]
  | .stB rd a _ => [rd, a]
  | .stH rd a _ => [rd, a]
  | .stW rd a _ => [rd, a]
  | .stD rd a _ => [rd, a]
  | .amoSwapW _ a b _ => [a, b]
  | .amoAddW _ a b _ => [a, b]
  | .amoAndW _ a b _ => [a, b]
  | .amoOrW _ a b _ => [a, b]
  | .amoXorW _ a b _ => [a, b]
  | .amoMinW _ a b _ => [a, b]
  | .amoMaxW _ a b _ => [a, b]
  | .amoSwapD _ a b _ => [a, b]
  | .amoAddD _ a b _ => [a, b]
  | .amoAndD _ a b _ => [a, b]
  | .amoOrD _ a b _ => [a, b]
  | .amoXorD _ a b _ => [a, b]
  | .amoMinD _ a b _ => [a, b]
  | .amoMaxD _ a b _ => [a, b]
  | .amoMinuW _ a b _ => [a, b]
  | .amoMaxuW _ a b _ => [a, b]
  | .amoMinuD _ a b _ => [a, b]
  | .amoMaxuD _ a b _ => [a, b]
  | .casW rd a b _ => [rd, a, b]
  | .casD rd a b _ => [rd, a, b]
  | .ldacqW _ a _ => [a]
  | .ldacqD _ a _ => [a]
  | .strelW a b _ => [a, b]
  | .strelD a b _ => [a, b]
  | .bar a _ => [a]
  | .txarr a b _ => [a, b]
  | .txwait _ a _ => [a]
  | .copy w => [w.a, w.b, xField w 15 11, xField w 10 6]
  | .copyt w => [w.a, w.b, xField w 15 11, xField w 10 6]
  | .copyr w => [w.a, w.b, xField w 15 11, xField w 10 6, xField w 5 1]
  | .gath w => [w.a, w.b, xField w 15 11, xField w 10 6, xField w 5 1]
  | .scat w => [w.a, w.b, xField w 15 11, xField w 10 6, xField w 5 1]
  | .redc w => [w.a, w.b, xField w 15 11, xField w 10 6]
  | .ratom w => [w.a, w.b]
  | .bpref w => [w.a, w.b, xField w 10 6]
  | .wprog w => [w.a, w.b]
  | _ => []

/-- The scalar registers it names as destinations. -/
def regsWritten (i : Instr) : List (BitVec 5) :=
  match i with
  | .add rd _ _ _ => [rd]
  | .sub rd _ _ _ => [rd]
  | .and rd _ _ _ => [rd]
  | .or rd _ _ _ => [rd]
  | .xor rd _ _ _ => [rd]
  | .shl rd _ _ _ => [rd]
  | .shr rd _ _ _ => [rd]
  | .sra rd _ _ _ => [rd]
  | .mul rd _ _ _ => [rd]
  | .mulh rd _ _ _ => [rd]
  | .mulhu rd _ _ _ => [rd]
  | .min rd _ _ _ => [rd]
  | .max rd _ _ _ => [rd]
  | .minu rd _ _ _ => [rd]
  | .maxu rd _ _ _ => [rd]
  | .div rd _ _ _ => [rd]
  | .divu rd _ _ _ => [rd]
  | .rem rd _ _ _ => [rd]
  | .remu rd _ _ _ => [rd]
  | .sel rd _ _ _ => [rd]
  | .addi rd _ _ => [rd]
  | .andi rd _ _ => [rd]
  | .ori rd _ _ => [rd]
  | .xori rd _ _ => [rd]
  | .shli rd _ _ => [rd]
  | .shri rd _ _ => [rd]
  | .srai rd _ _ => [rd]
  | .clz rd _ _ => [rd]
  | .popc rd _ _ => [rd]
  | .ext rd _ _ _ => [rd]
  | .ins rd _ _ _ => [rd]
  | .call _ _ => [31]
  | .jr rd _ _ => [rd]
  | .loop rd _ => [rd]
  | .gaddr rd _ _ _ => [rd]
  | .spcast rd _ _ _ => [rd]
  | .objsz rd _ _ => [rd]
  | .objver rd _ _ => [rd]
  | .csrr rd _ => [rd]
  | .ldB rd _ _ => [rd]
  | .ldBu rd _ _ => [rd]
  | .ldH rd _ _ => [rd]
  | .ldHu rd _ _ => [rd]
  | .ldW rd _ _ => [rd]
  | .ldWu rd _ _ => [rd]
  | .ldD rd _ _ => [rd]
  | .amoSwapW rd _ _ _ => [rd]
  | .amoAddW rd _ _ _ => [rd]
  | .amoAndW rd _ _ _ => [rd]
  | .amoOrW rd _ _ _ => [rd]
  | .amoXorW rd _ _ _ => [rd]
  | .amoMinW rd _ _ _ => [rd]
  | .amoMaxW rd _ _ _ => [rd]
  | .amoSwapD rd _ _ _ => [rd]
  | .amoAddD rd _ _ _ => [rd]
  | .amoAndD rd _ _ _ => [rd]
  | .amoOrD rd _ _ _ => [rd]
  | .amoXorD rd _ _ _ => [rd]
  | .amoMinD rd _ _ _ => [rd]
  | .amoMaxD rd _ _ _ => [rd]
  | .amoMinuW rd _ _ _ => [rd]
  | .amoMaxuW rd _ _ _ => [rd]
  | .amoMinuD rd _ _ _ => [rd]
  | .amoMaxuD rd _ _ _ => [rd]
  | .casW rd _ _ _ => [rd]
  | .casD rd _ _ _ => [rd]
  | .ldacqW rd _ _ => [rd]
  | .ldacqD rd _ _ => [rd]
  | .txwait rd _ _ => [rd]
  | .ratom w => [xField w 15 11]
  | _ => []

/-- The guard of a word that has one; 0xF for a word that is not guarded. -/
def guardOf (i : Instr) : BitVec 4 :=
  match i with
  | .add _ _ _ g => g
  | .sub _ _ _ g => g
  | .and _ _ _ g => g
  | .or _ _ _ g => g
  | .xor _ _ _ g => g
  | .shl _ _ _ g => g
  | .shr _ _ _ g => g
  | .sra _ _ _ g => g
  | .mul _ _ _ g => g
  | .mulh _ _ _ g => g
  | .mulhu _ _ _ g => g
  | .min _ _ _ g => g
  | .max _ _ _ g => g
  | .minu _ _ _ g => g
  | .maxu _ _ _ g => g
  | .div _ _ _ g => g
  | .divu _ _ _ g => g
  | .rem _ _ _ g => g
  | .remu _ _ _ g => g
  | .clz _ _ g => g
  | .popc _ _ g => g
  | .cmpEq _ _ _ g => g
  | .cmpNe _ _ _ g => g
  | .cmpLt _ _ _ g => g
  | .cmpLtu _ _ _ g => g
  | .cmpGe _ _ _ g => g
  | .cmpGeu _ _ _ g => g
  | .pand _ _ _ g => g
  | .por _ _ _ g => g
  | .pxor _ _ _ g => g
  | .pnot _ _ g => g
  | .pmov _ _ g => g
  | .br g _ => g
  | .call g _ => g
  | .jr _ _ g => g
  | .brk _ g => g
  | .gaddr _ _ _ g => g
  | .sptest _ _ _ g => g
  | .spcast _ _ _ g => g
  | .objsz _ _ g => g
  | .objver _ _ g => g
  | .vlend _ _ g => g
  | .vrecl _ g => g
  | .phase _ g => g
  | .launch _ g => g
  | .waitdep g => g
  | .trig g => g
  | .exit g => g
  | .yield g => g
  | .eret g => g
  | .halt g => g
  | .vfcfgEnable g => g
  | .vfcfgDisable g => g
  | .vfcfgGate g => g
  | .vfcfgReopen g => g
  | .trap _ g => g
  | .txarr _ _ g => g
  | .txwait _ _ g => g
  | _ => 15

/-- The predicates it reads beside its guard. -/
def predsRead (i : Instr) : List (BitVec 4) :=
  match i with
  | .pand _ pa pb _ => [pa, pb]
  | .por _ pa pb _ => [pa, pb]
  | .pxor _ pa pb _ => [pa, pb]
  | .pnot _ pa _ => [pa]
  | .pmov _ pa _ => [pa]
  | .sel _ _ _ n => if n = 15 then [] else [n]
  | _ => []

/-- The predicates it names as destinations. -/
def predsWritten (i : Instr) : List (BitVec 4) :=
  match i with
  | .cmpEq pd _ _ _ => [pd]
  | .cmpNe pd _ _ _ => [pd]
  | .cmpLt pd _ _ _ => [pd]
  | .cmpLtu pd _ _ _ => [pd]
  | .cmpGe pd _ _ _ => [pd]
  | .cmpGeu pd _ _ _ => [pd]
  | .cmpi pd _ _ _ => [pd]
  | .pand pd _ _ _ => [pd]
  | .por pd _ _ _ => [pd]
  | .pxor pd _ _ _ => [pd]
  | .pnot pd _ _ => [pd]
  | .pmov pd _ _ => [pd]
  | .sptest pd _ _ _ => [pd]
  | _ => []

/-- The token it names as a destination (03 R85). -/
def tokenWritten (i : Instr) : Option (BitVec 6) :=
  match i with
  | .vexec w => if w.tok.prod = 63 then none else some w.tok.prod
  | .mexec w => if w.tok.prod = 63 then none else some w.tok.prod
  | .xexec w => if w.tok.prod = 63 then none else some w.tok.prod
  | .mnest w => if w.tok.prod = 63 then none else some w.tok.prod
  | .tclr tk => if tk = 63 then none else some tk
  | _ => none

/-- The CSR it names as a destination. -/
def csrWritten (i : Instr) : Option (BitVec 12) :=
  match i with
  | .csrw _ c => some c
  | _ => none

/-! ## Classes of a bundle (03 R86) -/

inductive WordClass where
  | control | memory | start | divide | csr
deriving DecidableEq, Repr

def classOf (i : Instr) : Option WordClass :=
  match i with
  | .br _ _ => some .control
  | .call _ _ => some .control
  | .jr _ _ _ => some .control
  | .loop _ _ => some .control
  | .trap _ _ => some .control
  | .eret _ => some .control
  | .halt _ => some .control
  | .brk _ _ => some .control
  | .exit _ => some .control
  | .yield _ => some .control
  | .ldB _ _ _ => some .memory
  | .ldBu _ _ _ => some .memory
  | .ldH _ _ _ => some .memory
  | .ldHu _ _ _ => some .memory
  | .ldW _ _ _ => some .memory
  | .ldWu _ _ _ => some .memory
  | .ldD _ _ _ => some .memory
  | .stB _ _ _ => some .memory
  | .stH _ _ _ => some .memory
  | .stW _ _ _ => some .memory
  | .stD _ _ _ => some .memory
  | .amoSwapW _ _ _ _ => some .memory
  | .amoAddW _ _ _ _ => some .memory
  | .amoAndW _ _ _ _ => some .memory
  | .amoOrW _ _ _ _ => some .memory
  | .amoXorW _ _ _ _ => some .memory
  | .amoMinW _ _ _ _ => some .memory
  | .amoMaxW _ _ _ _ => some .memory
  | .amoSwapD _ _ _ _ => some .memory
  | .amoAddD _ _ _ _ => some .memory
  | .amoAndD _ _ _ _ => some .memory
  | .amoOrD _ _ _ _ => some .memory
  | .amoXorD _ _ _ _ => some .memory
  | .amoMinD _ _ _ _ => some .memory
  | .amoMaxD _ _ _ _ => some .memory
  | .amoMinuW _ _ _ _ => some .memory
  | .amoMaxuW _ _ _ _ => some .memory
  | .amoMinuD _ _ _ _ => some .memory
  | .amoMaxuD _ _ _ _ => some .memory
  | .casW _ _ _ _ => some .memory
  | .casD _ _ _ _ => some .memory
  | .ldacqW _ _ _ => some .memory
  | .ldacqD _ _ _ => some .memory
  | .strelW _ _ _ => some .memory
  | .strelD _ _ _ => some .memory
  | .fence _ => some .memory
  | .fenceRel _ => some .memory
  | .fenceAcq _ => some .memory
  | .qmark => some .memory
  | .bar _ _ => some .memory
  | .txarr _ _ _ => some .memory
  | .txwait _ _ _ => some .memory
  | .vexec _ => some .start
  | .mexec _ => some .start
  | .xexec _ => some .start
  | .mnest _ => some .start
  | .vlend _ _ _ => some .start
  | .vrecl _ _ => some .start
  | .phase _ _ => some .start
  | .launch _ _ => some .start
  | .div _ _ _ _ => some .divide
  | .divu _ _ _ _ => some .divide
  | .rem _ _ _ _ => some .divide
  | .remu _ _ _ _ => some .divide
  | .csrw _ _ => some .csr
  | _ => none

/-- LIMM may stand before it (03 R87). -/
def takesLimm (i : Instr) : Bool :=
  match i with
  | .addi _ _ _ => true
  | .andi _ _ _ => true
  | .ori _ _ _ => true
  | .xori _ _ _ => true
  | .ldB _ _ _ => true
  | .ldBu _ _ _ => true
  | .ldH _ _ _ => true
  | .ldHu _ _ _ => true
  | .ldW _ _ _ => true
  | .ldWu _ _ _ => true
  | .ldD _ _ _ => true
  | .stB _ _ _ => true
  | .stH _ _ _ => true
  | .stW _ _ _ => true
  | .stD _ _ _ => true
  | _ => false

def isLimm (i : Instr) : Bool :=
  match i with
  | .limm _ => true
  | _ => false

/-! ## A bundle -/

/-- An instruction of a bundle with its address. -/
structure Word1 where
  addr : Word
  instr : Instr
deriving DecidableEq, Repr

/-- A bundle as fetched: its instructions in address order, the address after it, its stall count; or the address of its
lowest-addressed offending word (03 R106). -/
structure Bundle where
  words : List Word1
  next : Word
  stall : Nat
deriving DecidableEq, Repr

/-- The names a bundle's destinations may not share (03 R85). -/
def clashes (a b : Instr) : Bool :=
  (regsWritten a).any (fun r => r != 0 && (regsWritten b).contains r)
    || (predsWritten a).any (fun p => (predsWritten b).contains p)
    || ((csrWritten a).isSome && csrWritten a == csrWritten b)
    || ((tokenWritten a).isSome && tokenWritten a == tokenWritten b)

/-- Two words of one class, or of one destination, may not share a bundle. -/
def mayFollow (before : List Word1) (i : Instr) : Bool :=
  before.all fun w => !clashes w.instr i && !((classOf i).isSome && classOf w.instr == classOf i)

/-- The word at an address of the stream, if it lies in the section. -/
def State.fetch (s : State) (a : Word) : Option Nat :=
  let c := s.codeOf
  if a.toNat + 4 ≤ c.2.2 then some (s.codeBytes c.1 c.2.1 a.toNat 4) else none

/-- The bundle's words from address `a` on: `left` more may come, `before` stand before it, and the stream accepts the
instructions that `accept` says. `past` is the offending word where none may come: in the control core the fifth, in the transfer
stream the word before it, which does not end its bundle (03 R84, R89, R106). Of a T form whose first word ends the bundle or
whose second holds an illegal field, and of two words that name one destination, log 88 says which is the offending word. -/
def State.fetchFrom (s : State) (accept : Instr → Bool) (past : Word → Word) (left : Nat) (a : Word) (before : List Word1) :
    Except Word Bundle :=
  match left with
  | 0 => .error (past a)
  | n + 1 =>
    match s.fetch a with
    | none => .error a
    | some w =>
      if !wE w && wS w != 0 then .error a
      else if isTOp (wOp w) then
        match decodeTFields (w % 2 ^ 31) 0 with
        | .error _ => .error a
        | .ok j =>
          if wE w || !accept j || !mayFollow before j then .error a
          else
            match n with
            | 0 => .error (past (a + 4))
            | m + 1 =>
              match s.fetch (a + 4) with
              | none => .error (a + 4)
              | some v =>
                match decodeT (w % 2 ^ 31) v with
                | .error _ => .error a
                | .ok i =>
                  if !accept i then .error a
                  else if !wE v && wS v != 0 then .error (a + 4)
                  else if wE v then .ok ⟨before ++ [⟨a, i⟩], a + 8, wS v⟩
                  else s.fetchFrom accept past m (a + 8) (before ++ [⟨a, i⟩])
      else
        match decodeWord (w % 2 ^ 28) with
        | .error _ => .error a
        | .ok i =>
          if !accept i || !mayFollow before i then .error a
          else if isLimm i then
            if wE w then .error a
            else
              match (s.fetch (a + 4)).map fun v => decodeWord (v % 2 ^ 28) with
              | some (.ok j) => if takesLimm j then s.fetchFrom accept past n (a + 4) (before ++ [⟨a, i⟩]) else .error a
              | some (.error _) => .error (if (s.fetch (a + 4)).any fun v => limmOp (wOp v) then a + 4 else a)
              | none => .error a
          else if wE w then .ok ⟨before ++ [⟨a, i⟩], a + 4, wS w⟩
          else s.fetchFrom accept past n (a + 4) (before ++ [⟨a, i⟩])
where
  /-- The opcode is one that takes a LIMM, whatever its other fields hold. -/
  limmOp (op : Nat) : Bool :=
    (decide (0x0C ≤ op) && decide (op ≤ 0x0F)) || (decide (0x20 ≤ op) && decide (op ≤ 0x26))
      || (decide (0x28 ≤ op) && decide (op ≤ 0x2B))

/-- A bundle of the control core: at most four words, each one it accepts (03 R84, R90). -/
def State.fetchBundle (s : State) (pc : Word) : Except Word Bundle := s.fetchFrom inControl id 4 pc []

/-- A word that may stand with E = 0 in the transfer stream: LIMM, or the first of a T form (03 R89). -/
def mayOpen (w : Nat) : Bool := wE w || wOp w == 0x1B || isTOp (wOp w)

/-- A bundle of the transfer stream: one instruction, or a LIMM and its word (03 R89). -/
def State.fetchTransfer (s : State) (pc : Word) : Except Word Bundle :=
  match s.fetch pc with
  | none => .error pc
  | some w => if mayOpen w then s.fetchFrom inTransfer (fun a => a - 4) 2 pc [] else .error pc

/-! ## What keeps a bundle from issuing -/

/-- A word whose guard is false reads nothing (03 R83). -/
def State.live (s : State) (i : Instr) : Bool := s.guard (guardOf i)

/-- A register read by a live word of the bundle has a write in flight that the read would miss (03 R110). -/
def State.readsStale (s : State) (b : Bundle) : Bool :=
  b.words.any fun w => s.live w.instr && (regsRead w.instr).any fun r =>
    r != 0 && staleAt r.toNat s.rf.pos s.rf.pend

/-- A register read by a live word waits for the return of a remote atomic (03 R109, 07 R265). An engine start reads every
register (04 R142), but no register of the control core waits so. -/
def State.readsPending (s : State) (b : Bundle) : Bool :=
  s.inTransferStream && s.requests.any fun q => q.slot == s.me && q.ret != 0
    && b.words.any fun w => (regsRead w.instr).any fun r => r.toNat == q.ret

/-- The first uncorrectable register a live word reads, as `TVAL` names it (12 R347). -/
def State.readsPoison (s : State) (b : Bundle) : Option Word :=
  let bad := fun (file n : Nat) => s.regPoison.contains (s.regOwner, file, n)
  let name := fun (file n : Nat) => BitVec.ofNat 64 (2 ^ 62 + file * 256 + n)
  if s.regPoison.isEmpty then none
  else
    (b.words.flatMap fun w =>
      let g := guardOf w.instr
      (if g != 15 && bad 1 g.toNat then [name 1 g.toNat] else [])
        ++ (if s.live w.instr then
            ((regsRead w.instr).filter fun r => bad s.fileNum r.toNat).map (fun r => name s.fileNum r.toNat)
              ++ ((predsRead w.instr).filter fun p => bad 1 p.toNat).map (fun p => name 1 p.toNat)
          else [])).head?

/-- The checking scoreboard is on for the stream: `SCBCHK`, or for a transfer block its snapshot (01 R48, 04 R142). -/
def State.checking (s : State) : Bool :=
  match s.turn.agent with
  | .transfer k => ((s.task k).xfer.cur.map (·.blk.scb)).getD false
  | _ => s.hart.scb

/-- Why a decoded bundle does not issue, if anything keeps it: STALL_SHORT, POISON or an interlock. -/
def State.issueCheck (s : State) (b : Bundle) : Res Unit :=
  if s.checking && s.readsStale b then .trap cStallShort s.turn.pc
  else
    match s.readsPoison b with
    | some v => .trap cPoison v
    | none => if s.readsPending b then .hold Hold.init else .ok () s

end Sys2Proof.Machine
end

