-- ==== Sys2Proof/Machine/ScalarMem.lean ====
section
/-! DEFINITION. Scalar memory and synchronisation words: loads, stores, atomics, acquire, release, fences, BAR, and the fields
of a transaction barrier (spec 07 R232–R252). -/
namespace Sys2Proof.Machine

/-- The low `n` bytes of a value, sign-extended. -/
def signed (n : Nat) (x : Nat) : Word := BitVec.ofInt 64 (signedOf (8 * n) x)

/-- The low bytes, zero-extended. -/
def unsigned (x : Nat) : Word := BitVec.ofNat 64 x

/-- A load of `n` bytes (07 R237). -/
def load (n : Nat) (ext : Nat → Word) (rd a : BitVec 5) (imm : BitVec 12) (s : State) : Out :=
  finish s ((s.memRead s.view (s.ea a imm) (wantRead n)).bind fun x t => .ok () (t.setReg rd 1 (ext x)))

/-- A store of the low `n` bytes of `s[rd]` (07 R237). -/
def store (n : Nat) (rd a : BitVec 5) (imm : BitVec 12) (s : State) : Out :=
  finish s (s.memWrite s.view s.owedPlain (s.ea a imm) (wantWrite n) (s.reg rd).toNat)

/-- 07 R237. -/
def execLdB (rd a : BitVec 5) (imm : BitVec 12) (s : State) : Out := load 1 (signed 1) rd a imm s
/-- 07 R237. -/
def execLdBu (rd a : BitVec 5) (imm : BitVec 12) (s : State) : Out := load 1 unsigned rd a imm s
/-- 07 R237. -/
def execLdH (rd a : BitVec 5) (imm : BitVec 12) (s : State) : Out := load 2 (signed 2) rd a imm s
/-- 07 R237. -/
def execLdHu (rd a : BitVec 5) (imm : BitVec 12) (s : State) : Out := load 2 unsigned rd a imm s
/-- 07 R237. -/
def execLdW (rd a : BitVec 5) (imm : BitVec 12) (s : State) : Out := load 4 (signed 4) rd a imm s
/-- 07 R237. -/
def execLdWu (rd a : BitVec 5) (imm : BitVec 12) (s : State) : Out := load 4 unsigned rd a imm s
/-- 07 R237. -/
def execLdD (rd a : BitVec 5) (imm : BitVec 12) (s : State) : Out := load 8 unsigned rd a imm s
/-- 07 R237. -/
def execStB (rd a : BitVec 5) (imm : BitVec 12) (s : State) : Out := store 1 rd a imm s
/-- 07 R237. -/
def execStH (rd a : BitVec 5) (imm : BitVec 12) (s : State) : Out := store 2 rd a imm s
/-- 07 R237. -/
def execStW (rd a : BitVec 5) (imm : BitVec 12) (s : State) : Out := store 4 rd a imm s
/-- 07 R237. -/
def execStD (rd a : BitVec 5) (imm : BitVec 12) (s : State) : Out := store 8 rd a imm s

/-! ## Atomics (07 R238–R240) -/

/-- An atomic of `n` bytes at a scope: a release, the indivisible step at the home, an acquire. `f old y` is the new value. -/
def amo (n : Nat) (f : Nat → Nat → Nat) (rd a b : BitVec 5) (sc : BitVec 4) (s : State) : Out :=
  let y := (s.reg b).toNat % 2 ^ (8 * n)
  finish s ((s.release sc.toNat).bind fun _ t =>
    (t.memAtomic s.view s.owedPlain (s.reg a) (wantAtomic n) fun m => some (f m y % 2 ^ (8 * n))).bind fun old t =>
      .ok () ((t.setReg rd 1 (signed n old)).acquire sc.toNat))

/-- The signed lesser and greater of two `n`-byte values. -/
def minBy (n : Nat) (x y : Nat) : Nat := if signedOf (8 * n) y < signedOf (8 * n) x then y else x
def maxBy (n : Nat) (x y : Nat) : Nat := if signedOf (8 * n) x < signedOf (8 * n) y then y else x

/-- 07 R238. -/
def execAmoSwapW (rd a b : BitVec 5) (sc : BitVec 4) (s : State) : Out := amo 4 (fun _ y => y) rd a b sc s
/-- 07 R238. -/
def execAmoAddW (rd a b : BitVec 5) (sc : BitVec 4) (s : State) : Out := amo 4 (fun m y => m + y) rd a b sc s
/-- 07 R238. -/
def execAmoAndW (rd a b : BitVec 5) (sc : BitVec 4) (s : State) : Out := amo 4 (fun m y => m &&& y) rd a b sc s
/-- 07 R238. -/
def execAmoOrW (rd a b : BitVec 5) (sc : BitVec 4) (s : State) : Out := amo 4 (fun m y => m ||| y) rd a b sc s
/-- 07 R238. -/
def execAmoXorW (rd a b : BitVec 5) (sc : BitVec 4) (s : State) : Out := amo 4 (fun m y => m ^^^ y) rd a b sc s
/-- 07 R238. -/
def execAmoMinW (rd a b : BitVec 5) (sc : BitVec 4) (s : State) : Out := amo 4 (fun m y => minBy 4 m y) rd a b sc s
/-- 07 R238. -/
def execAmoMaxW (rd a b : BitVec 5) (sc : BitVec 4) (s : State) : Out := amo 4 (fun m y => maxBy 4 m y) rd a b sc s
/-- 07 R238. -/
def execAmoMinuW (rd a b : BitVec 5) (sc : BitVec 4) (s : State) : Out := amo 4 (fun m y => min m y) rd a b sc s
/-- 07 R238. -/
def execAmoMaxuW (rd a b : BitVec 5) (sc : BitVec 4) (s : State) : Out := amo 4 (fun m y => max m y) rd a b sc s
/-- 07 R238. -/
def execAmoSwapD (rd a b : BitVec 5) (sc : BitVec 4) (s : State) : Out := amo 8 (fun _ y => y) rd a b sc s
/-- 07 R238. -/
def execAmoAddD (rd a b : BitVec 5) (sc : BitVec 4) (s : State) : Out := amo 8 (fun m y => m + y) rd a b sc s
/-- 07 R238. -/
def execAmoAndD (rd a b : BitVec 5) (sc : BitVec 4) (s : State) : Out := amo 8 (fun m y => m &&& y) rd a b sc s
/-- 07 R238. -/
def execAmoOrD (rd a b : BitVec 5) (sc : BitVec 4) (s : State) : Out := amo 8 (fun m y => m ||| y) rd a b sc s
/-- 07 R238. -/
def execAmoXorD (rd a b : BitVec 5) (sc : BitVec 4) (s : State) : Out := amo 8 (fun m y => m ^^^ y) rd a b sc s
/-- 07 R238. -/
def execAmoMinD (rd a b : BitVec 5) (sc : BitVec 4) (s : State) : Out := amo 8 (fun m y => minBy 8 m y) rd a b sc s
/-- 07 R238. -/
def execAmoMaxD (rd a b : BitVec 5) (sc : BitVec 4) (s : State) : Out := amo 8 (fun m y => maxBy 8 m y) rd a b sc s
/-- 07 R238. -/
def execAmoMinuD (rd a b : BitVec 5) (sc : BitVec 4) (s : State) : Out := amo 8 (fun m y => min m y) rd a b sc s
/-- 07 R238. -/
def execAmoMaxuD (rd a b : BitVec 5) (sc : BitVec 4) (s : State) : Out := amo 8 (fun m y => max m y) rd a b sc s

/-- A compare-and-swap of `n` bytes: the comparand and the result share `rd` (07 R239). -/
def cas (n : Nat) (rd a b : BitVec 5) (sc : BitVec 4) (s : State) : Out :=
  let want := (s.reg rd).toNat % 2 ^ (8 * n)
  let y := (s.reg b).toNat % 2 ^ (8 * n)
  finish s ((s.release sc.toNat).bind fun _ t =>
    (t.memAtomic s.view s.owedPlain (s.reg a) (wantAtomic n) fun m => if m = want then some y else none).bind fun old t =>
      .ok () ((t.setReg rd 1 (signed n old)).acquire sc.toNat))

/-- 07 R239. -/
def execCasW (rd a b : BitVec 5) (sc : BitVec 4) (s : State) : Out := cas 4 rd a b sc s
/-- 07 R239. -/
def execCasD (rd a b : BitVec 5) (sc : BitVec 4) (s : State) : Out := cas 8 rd a b sc s

/-! ## Acquire, release and fence (07 R241–R245) -/

/-- A load-acquire of `n` bytes at its home. -/
def loadAcquire (n : Nat) (rd a : BitVec 5) (sc : BitVec 4) (s : State) : Out :=
  finish s ((s.memReadHome s.view (s.reg a) (wantRead n)).bind fun x t =>
    .ok () ((t.setReg rd 1 (signed n x)).acquire sc.toNat))

/-- A store-release of `n` bytes at its home. -/
def storeRelease (n : Nat) (a b : BitVec 5) (sc : BitVec 4) (s : State) : Out :=
  finish s ((s.release sc.toNat).bind fun _ t =>
    t.memWriteHome s.view s.owedPlain (s.reg a) (wantWrite n) (s.reg b).toNat)

/-- 07 R241. -/
def execLdacqW (rd a : BitVec 5) (sc : BitVec 4) (s : State) : Out := loadAcquire 4 rd a sc s
/-- 07 R241. -/
def execLdacqD (rd a : BitVec 5) (sc : BitVec 4) (s : State) : Out := loadAcquire 8 rd a sc s
/-- 07 R242. -/
def execStrelW (a b : BitVec 5) (sc : BitVec 4) (s : State) : Out := storeRelease 4 a b sc s
/-- 07 R242. -/
def execStrelD (a b : BitVec 5) (sc : BitVec 4) (s : State) : Out := storeRelease 8 a b sc s

/-- 07 R243, R244. At `.persist` it also waits for every WPROG of the task. -/
def execFence (sc : BitVec 4) (s : State) : Out :=
  finish s
    (if sc = 8 ∧ !s.inFirmware ∧ 0 < (s.task s.me).wbusy then .hold Hold.init
    else (s.release sc.toNat).bind fun _ t => .ok () (t.acquire sc.toNat))

/-- 07 R242. -/
def execFenceRel (sc : BitVec 4) (s : State) : Out := finish s (s.release sc.toNat)

/-- 07 R243. -/
def execFenceAcq (sc : BitVec 4) (s : State) : Out := finish s (.ok () (s.acquire sc.toNat))

/-- 07 R245. The engine's earlier accesses are performed before its later ones; nothing holds. -/
def execQmark (s : State) : Out := finish s (.ok () (s.drain s.view.slot none))

/-! ## Barrier networks (07 R246–R248) -/

/-- The instance of a barrier network that holds a pair, by scope code. -/
def barInstance (sc pair : Nat) : Nat :=
  match sc with
  | 2 => pair
  | 3 => pair / 4
  | 4 => pair / 16
  | _ => 0

/-- An arrival at a channel: its state afterwards, the episode arrived at, and whether that completed it; none when its N
differs from the open episode's. -/
def BarChan.arrive (b : BarChan) (n : Nat) : Option (BarChan × Nat × Bool) :=
  if 0 < b.arrived ∧ b.n ≠ n then none
  else if n ≤ b.arrived + 1 then some ({ b with n := n, arrived := 0, episode := b.episode + 1 }, b.episode, true)
  else some ({ b with n := n, arrived := b.arrived + 1 }, b.episode, false)

/-- A channel of a context in an instance. -/
def State.barChan (s : State) (sc inst ctx ch : Nat) : BarChan :=
  (s.bars.find? fun b => b.scope == sc && b.inst == inst && b.ctx == ctx && b.ch == ch).getD ⟨sc, inst, ctx, ch, 0, 0, 0⟩

/-- The same, replaced. -/
def State.setBar (s : State) (x : BarChan) : State :=
  { s with bars := x :: s.bars.filter fun b => !(b.scope == x.scope && b.inst == x.inst && b.ctx == x.ctx && b.ch == x.ch) }

/-- 07 R246, R247. The wait names the channel and scope; its value is the episode (12 R324). -/
def execBar (a : BitVec 5) (sc : BitVec 4) (s : State) : Out :=
  let x := s.reg a
  let n := bits x.toNat 23 0
  let ch := bits x.toNat 35 32
  let c := sc.toNat
  finish s
    (if s.inFirmware then .trap cIllegal s.turn.wordPc
    else if bits x.toNat 63 36 ≠ 0 ∨ bits x.toNat 31 24 ≠ 0 ∨ n = 0 then .trap cResource x
    else
      let b := s.barChan c (barInstance c s.myPair) s.view.ctx ch
      match b.arrive n with
      | none => .trap cResource x
      | some (b', episode, complete) => (s.release c).bind fun _ t =>
          let t := t.setBar b'
          .ok () (if complete then t.acquire c else t.holdAfter ⟨.bar, ch + c * 16, BitVec.ofNat 64 episode⟩))

/-- An arrival that another package makes at the pod's network (07 R246, 15 R414). One whose N differs is its own package's trap. -/
def State.podArrive (s : State) (ctx ch n : Nat) : State :=
  match (s.barChan 6 0 ctx ch).arrive n with
  | none => s
  | some (b, _, _) => s.setBar b

/-! ## Transaction barriers (07 R249–R252, R257) -/

/-- The fields of a barrier (07 R249). -/
structure TxBar where
  ph : Bool
  ovf : Bool
  nbyt : Nat
  byt : Nat
  expb : Nat
  arr : Nat
  expa : Nat
deriving DecidableEq, Repr

def txBarOf (x : Nat) : TxBar :=
  ⟨bitOf x 127, bitOf x 126, bits x 119 96, bits x 87 64, bits x 63 32, bits x 31 16, bits x 15 0⟩

def TxBar.toNat (b : TxBar) : Nat :=
  boolNat b.ph * 2 ^ 127 + boolNat b.ovf * 2 ^ 126 + b.nbyt * 2 ^ 96 + b.byt * 2 ^ 64 + b.expb * 2 ^ 32
    + b.arr * 2 ^ 16 + b.expa

/-- The phase completes when ARR = EXPA and BYT = EXPB; a barrier whose EXPA is 0 never completes one (07 R250). -/
def TxBar.finish (b : TxBar) : TxBar :=
  if b.expa ≠ 0 ∧ b.arr = b.expa ∧ b.byt = b.expb then
    { b with ph := !b.ph, arr := 0, expb := 0, byt := b.nbyt, nbyt := 0 }
  else b

/-- An arrival that expects `n` bytes (07 R251). -/
def TxBar.arrive (b : TxBar) (n : Nat) : TxBar :=
  if b.arr = b.expa then { b with ovf := true }
  else if 2 ^ 24 ≤ b.expb + n then ({ b with arr := b.arr + 1, ovf := true }).finish.finish
  else ({ b with arr := b.arr + 1, expb := b.expb + n }).finish.finish

/-- Bytes landing for a reference's phase (07 R250, R257). -/
def TxBar.land (b : TxBar) (phase : Bool) (n : Nat) : TxBar :=
  let ovf := b.ovf || b.expa == 0
  if phase = b.ph then
    if 2 ^ 24 ≤ b.byt + n then { b with ovf := true } else ({ b with byt := b.byt + n, ovf := ovf }).finish.finish
  else
    if 2 ^ 24 ≤ b.nbyt + n then { b with ovf := true } else { b with nbyt := b.nbyt + n, ovf := ovf }

/-- A barrier in a pair's local store: any 16 bytes of it. -/
def wantBarrier : Want := ⟨16, 16, true, true, false, 6⟩

/-- The address a barrier reference names. -/
def barrierAddr (x : Word) : Word := x &&& ~~~1

end Sys2Proof.Machine
end

