-- ==== Sys2Proof/Machine/Divert.lean ====
section
/-! DEFINITION. Traffic to a pair whose context is absent, landings at barriers, and faults that cannot trap their issuer
(spec 07 R257, 12 R331, R337–R343). -/
namespace Sys2Proof.Machine

/-! ## Tasks, bound or saved -/

/-- The saved image of a task of an absent context at a slot. -/
def State.savedTask (s : State) (c slot : Nat) : Option Task :=
  ((s.ctx c).tasks.find? fun t => t.slot == slot).map (·.task)

/-- The task that issued something: bound at its slot, or saved with its context (12 R339). -/
def State.issuer (s : State) (c slot lnum : Nat) : Option Task :=
  if s.bound slot && (s.task slot).ctx == c && (s.task slot).lnum == lnum then some (s.task slot) else s.savedTask c slot

/-- The same, changed. -/
def State.modIssuer (s : State) (c slot lnum : Nat) (f : Task → Task) : State :=
  if s.bound slot && (s.task slot).ctx == c && (s.task slot).lnum == lnum then s.setTask slot (f (s.task slot))
  else
    let x := s.ctx c
    if x.tasks.any fun t => t.slot == slot then
      s.setCtx c { x with tasks := x.tasks.map fun t => if t.slot = slot then { t with task := f t.task } else t }
    else s

/-- Completes what may complete at a slot, bound or saved. -/
def State.settleIssuer (s : State) (c slot : Nat) : State := (s.settle slot).settleSaved c

/-- A production that had ended is outstanding again, until an ERET completes it (12 R343). -/
def Task.reopen (t : Task) (g : Option Gen) : Task :=
  match g with
  | none => t
  | some g => { t with prods := t.prods.map fun p => if p.gen = g then { p with ended := false } else p }

/-! ## Deferred faults (12 R343) -/

/-- A context has been forcibly pre-empted and not resumed. -/
def State.isAbsent (s : State) (c : Nat) : Bool := !(s.ctx c).saved.isEmpty

/-- A fault of a request that could not trap its issuer. `at_` is the section in which the request was diverted, as its
context and pair. -/
def State.assignFault (s : State) (at_ : Option (Nat × Nat)) (f : DefFault) : State :=
  if s.isAbsent f.ctx && (s.savedTask f.ctx f.slot).any (fun t => t.lnum == f.lnum) then
    let s := if causeFatal f.cause then s.tellCtx f.ctx evDeferredFault [f.ctx, f.slot, f.cause, f.addr.toNat] else s
    let p := match at_ with
      | some (c, q) => if c = f.ctx then q else slotPair f.slot
      | none => slotPair f.slot
    let s := match s.section f.ctx p with
      | some v => s.setSection f.ctx { v with faults := v.faults ++ [f] }
      | none => s
    s.modIssuer f.ctx f.slot f.lnum fun t => t.reopen f.prod
  else if s.bound f.slot && (s.task f.slot).ctx == f.ctx && (s.task f.slot).lnum == f.lnum then
    (s.setTask f.slot ((s.task f.slot).reopen f.prod)).deferFault f
  else s.tellCtx f.ctx evDeferredFault [f.ctx, f.slot, f.cause, f.addr.toNat]

/-! ## Diversion entries (12 R331, R337) -/

/-- The local-store pair and offset that a generic address names, for an accessor on pair `mine`. -/
def storeOf (mine : Nat) (a : Word) : Option (Nat × Nat) :=
  match windowOf a with
  | some (.pad tag off) => some (tag, off)
  | some (.quad m off) => some (mine / 4 * 4 + m, off)
  | _ => none

/-- Entries of a diversion log and of a barrier image (12 R334, R340). -/
def logSize : Nat := 26214
def barImageSize : Nat := 2048
def faultListSize : Nat := 256

/-- Bytes of the store as the section holds them, log and all. -/
def State.savedBytes (s : State) (v : Saved) (off n : Nat) : List Byte :=
  (s.applyLog v off n).getBytes (v.section_ + off) n

/-- A diverted write appended to the log; none when the log is full. -/
def Saved.append (v : Saved) (off : Nat) (l : List NibWrite) (issuer : Nat) : Option Saved :=
  if logSize ≤ v.log.length then none
  else
    let line := off / 128 * 128
    some { v with log := v.log ++ [⟨line, l.map fun b => { b with off := b.off + off - line }, issuer⟩] }

/-! ## Barriers (07 R250, R257, 12 R340) -/

/-- The barrier as a section holds it. -/
def State.savedBarrier (s : State) (v : Saved) (off : Nat) : TxBar :=
  match tfind v.bars off with
  | some x => txBarOf x.toNat
  | none => txBarOf (ofBytes (s.savedBytes v off 16))

/-- A barrier of a pair's store, where the pair's owner has it. -/
def State.barrierAt (s : State) (p off : Nat) : TxBar :=
  match s.diverted p with
  | some v => s.savedBarrier v.2 off
  | none => txBarOf (s.getNat (keyLs p off) 16)

/-- A diverted barrier update; none when the barrier image has no room. -/
def State.savedBarrierStep (s : State) (v : Saved) (off : Nat) (f : TxBar → TxBar) : Option Saved :=
  if (tfind v.bars off).isNone ∧ barImageSize ≤ v.bars.length then none
  else some { v with bars := tput v.bars off (BitVec.ofNat 128 (f (s.savedBarrier v off)).toNat) }

/-- An update of a barrier in a pair's store, or in the section of the context that diverts it there. -/
def State.barrierStep (s : State) (div : Option Nat) (p off : Nat) (f : TxBar → TxBar) : Option State :=
  match div with
  | some c =>
    (match s.section c p with
    | none => some s
    | some v => (s.savedBarrierStep v off f).map fun v => s.setSection c v)
  | none => some (s.putBytes (keyLs p off) (bytesOf 16 (f (txBarOf (s.getNat (keyLs p off) 16))).toNat))

/-- Bytes landing at a barrier. -/
def State.barrierLand (s : State) (div : Option Nat) (p off : Nat) (phase : Bool) (n : Nat) : Option State :=
  s.barrierStep div p off fun b => b.land phase n

/-- The context whose section takes what a side-log entry credits to a barrier. -/
def State.barrierHome (s : State) (c p : Nat) : Option Nat :=
  match s.section c p with
  | some v => if v.owned then some c else none
  | none => none

/-! ## Arriving and waiting at a barrier (07 R250–R252, 12 R340) -/

/-- The release of an arrival is not yet performed. -/
def State.arrivalWaits (s : State) (a : Arrival) : Bool :=
  let old := fun (e : SideEnt) => e.owed.plainOf a.owed.slot && e.eng == a.eng && decide (e.age < a.after)
  (s.cores.any fun c => c.2.sidelog.any old) || ((s.ctx a.ctx).moved.any old)
    || a.sent.any fun m => s.chans.any fun c => c.ch == m.1 && c.unacked.any fun x => x.num == m.2

/-- The context that diverts traffic admitted to a pair under an epoch. -/
def State.divertsTo (s : State) (p : Nat) (ep : BitVec 16) : Option Nat := (s.diversion p ep).map (·.ctx)

/-- The barrier of an arrival, as it stands. -/
def State.arrivalBarrier (s : State) (a : Arrival) : TxBar :=
  match (s.divertsTo a.pair a.epoch).bind fun c => s.section c a.pair with
  | some v => s.savedBarrier v a.off
  | none => txBarOf (s.getNat (keyLs a.pair a.off) 16)

/-- An arrival is performed; one that finds EXPA = 0 changes nothing and is a fault of its issuer. None while the barrier image
has no room. -/
def State.arriveNow (s : State) (a : Arrival) : Option State :=
  let div := s.divertsTo a.pair a.epoch
  if (s.arrivalBarrier a).expa = 0 then
    some (s.assignFault (div.map fun c => (c, a.pair)) ⟨cResource, a.eng, a.ctx, a.owed.slot, a.owed.lnum, a.addr, none⟩)
  else s.barrierStep div a.pair a.off fun b => b.arrive a.n

/-- Arrivals whose release is performed, in the order in which they were made. -/
def State.landArrivals (s : State) : State :=
  s.arrivals.foldl (fun s a =>
    if s.arrivalWaits a then s
    else match s.arriveNow a with
      | none => s
      | some t => { t with arrivals := t.arrivals.erase a }) s

/-- A TXARR is made: its stream's stores and lines go to their homes, and it arrives at once where nothing of that is under way. -/
def State.sendArrival (s : State) (a : Arrival) : State :=
  let v := s.view
  let s := (s.performWhere fun q => q.owed.slot == v.slot && q.eng == v.eng).releaseLines v.slot s.myPair 3
  let covers := (s.task v.slot).covers
  let sent := s.chans.flatMap fun c =>
    (c.unacked.filter fun m => m.owed.slot == v.slot || covers.contains m.owed.lnum).map fun m => (c.ch, m.num)
  let a := { a with after := s.nextId, sent := sent }
  let later := { s with arrivals := s.arrivals ++ [a] }
  if s.arrivalWaits a then later else (s.arriveNow a).getD later

/-- 07 R251. The slot goes on while its release is under way; an arrival under the epoch of an absent owner is diverted. -/
def execTxarr (a b : BitVec 5) (g : BitVec 4) (s : State) : Out :=
  let y := s.reg b
  let addr := barrierAddr (s.reg a)
  guarded g s
    (if s.inFirmware then .trap cIllegal s.turn.wordPc
    else (s.place s.view addr wantBarrier).bind fun p t =>
      if bits y.toNat 63 24 ≠ 0 then .trap cResource y
      else match p.home with
        | .store q off =>
          let r : Arrival := ⟨s.view.ctx, s.view.eng, q, off, addr, bits y.toNat 23 0, (s.pair q).epoch, s.owedPlain, 0, []⟩
          if (s.diverted q).isSome then .ok () ((s.touch s.view.ctx (pairDie q)).sendArrival r)
          else match t.readWait s.view p with
            | some h => .hold h
            | none =>
              if t.poisoned p.key 16 then .trap cPoison addr
              else if (t.arrivalBarrier r).expa = 0 then .trap cResource addr
              else .ok () (t.sendArrival r)
        | _ => .trap cBadWindow addr)

/-- The TXWAIT of a reference goes on: the phase has changed at a barrier that completes phases (07 R250, R252). -/
def TxBar.left (b : TxBar) (phase : Bool) : Bool := b.expa != 0 && b.ph != phase

/-- 07 R252. -/
def execTxwait (rd a : BitVec 5) (g : BitVec 4) (s : State) : Out :=
  let r := s.reg a
  let addr := barrierAddr r
  guarded g s
    (if s.inFirmware then .trap cIllegal s.turn.wordPc
    else (s.place s.view addr { wantBarrier with wr := false }).bind fun p t =>
      (t.readPlace s.view p).bind fun l t =>
        let x := txBarOf (ofBytes l)
        if x.left (r.getLsbD 0) then .ok () ((t.setReg rd 1 (BitVec.ofNat 64 (boolNat x.ph))).acquire 3)
        else .hold ⟨.txwait, 0, r⟩)

end Sys2Proof.Machine
end

