-- ==== Sys2Proof/Machine/Transfer.lean ====
section
/-! DEFINITION. The transfer words: their checks and issue, and the landing, retiring and answering of what they start (spec
07 R253–R267, 12 R337–R342). -/
namespace Sys2Proof.Machine

/-! ## The bytes of a transfer -/

/-- One contiguous run: destination, source, bytes. -/
structure XRun where
  dst : Word
  src : Word
  n : Nat
deriving DecidableEq, Repr

/-- Consecutive pieces of a dense ring side from position `pos`: positions and byte counts (07 R262). -/
def ringCuts (rsize : Nat) : Nat → Nat → Nat → List (Nat × Nat)
  | 0, _, _ => []
  | fuel + 1, pos, n =>
    if n = 0 then [] else
      let k := min n (rsize - pos % rsize)
      (pos % rsize, k) :: ringCuts rsize fuel (pos + k) (n - k)

/-- The rows of a box of up to four dimensions, as indices of dimensions 1 to 3. -/
def boxRows (box : List Nat) : List (Nat × Nat × Nat) :=
  (List.range (box.getD 3 1)).flatMap fun i3 => (List.range (box.getD 2 1)).flatMap fun i2 =>
    (List.range (box.getD 1 1)).map fun i1 => (i1, i2, i3)

def strideSum (st : List Int) (i : Nat × Nat × Nat) : Word :=
  BitVec.ofInt 64 (st.getD 0 0 * i.1 + st.getD 1 0 * i.2.1 + st.getD 2 0 * i.2.2)

/-- The runs of a transfer in stream order (07 R260–R264, R266). -/
def runsOf (kind : XferKind) (dst src : Word) (len : Nat) : List XRun :=
  match kind with
  | .tensor esz box ss ds =>
    (boxRows box).map fun i => ⟨dst + strideSum ds i, src + strideSum ss i, esz * box.getD 0 1⟩
  | .ring esz box ss ds srcRing rsize start =>
    let row := esz * box.getD 0 1
    (boxRows box).flatMap fun i =>
      let o := row * (i.1 + box.getD 1 1 * (i.2.1 + box.getD 2 1 * i.2.2))
      let cuts := ringCuts rsize (row / rsize + 2) (start + o) row
      (cuts.foldl (fun (acc : List XRun × Nat) c =>
        let at_ := BitVec.ofNat 64 c.1
        let off := BitVec.ofNat 64 acc.2
        (acc.1 ++ [if srcRing then ⟨dst + strideSum ds i + off, src + at_, c.2⟩ else ⟨dst + at_, src + strideSum ss i + off, c.2⟩],
          acc.2 + c.2)) ([], 0)).1
  | .gather row idx =>
    ((List.range idx.length).zip idx).map fun e =>
      ⟨dst + BitVec.ofNat 64 (e.1 * row), src + BitVec.ofInt 64 (e.2 * row), row⟩
  | .scatter row idx =>
    ((List.range idx.length).zip idx).map fun e =>
      ⟨dst + BitVec.ofInt 64 (e.2 * row), src + BitVec.ofNat 64 (e.1 * row), row⟩
  | _ => if len = 0 then [] else [⟨dst, src, len⟩]

/-- Cuts [a, a+n) at 128-byte lines: offsets from `a` and byte counts. -/
def lineCuts (a n : Nat) : List (Nat × Nat) :=
  if n = 0 then [] else
    let first := min n (128 - a % 128)
    (0, first) :: (List.range (cdiv (n - first) 128)).map fun i => (first + 128 * i, min 128 (n - first - 128 * i))

/-- The pieces of a transfer: its runs cut at the lines of the destination. -/
def piecesOfRuns (l : List XRun) : List XRun :=
  l.flatMap fun r => (lineCuts r.dst.toNat r.n).map fun c => ⟨r.dst + BitVec.ofNat 64 c.1, r.src + BitVec.ofNat 64 c.1, c.2⟩

def Xfer.pieces (x : Xfer) : List XRun := piecesOfRuns (runsOf x.kind x.dst x.src x.len)

/-- Source and destination share a byte (07 R254). -/
def overlapping (l : List XRun) : Bool :=
  l.any fun d => l.any fun r =>
    decide (d.dst.toNat < r.src.toNat + r.n) && decide (r.src.toNat < d.dst.toNat + d.n)

/-! ## Checks at issue (07 R254, R255) -/

/-- Every byte of a range checked; a failing check names the first byte that fails it. -/
def State.checkRange (s : State) (v : View) (a : Word) (n : Nat) (w : Want) : Res (List Place) :=
  Res.collect (lineCuts a.toNat n) s fun c s =>
    let b := a + BitVec.ofNat 64 c.1
    match s.place v b { w with n := c.2, align := 1 } with
    | .trap cause val =>
      (Res.each (List.range c.2) s fun i s =>
        (s.place v (b + BitVec.ofNat 64 i) { w with n := 1, align := 1 }).bind fun _ s => .ok () s).bind fun _ _ =>
          .trap cause val
    | r => r

/-- A transfer's source and destination: any pair's scratchpad may be named. -/
def wantSource : Want := ⟨1, 1, true, false, true, allWins⟩
def wantDest : Want := ⟨1, 1, false, true, true, allWins⟩

/-- The local-store ranges of one side, one for each pair: the smallest that holds every byte. -/
def storeRanges (l : List Place) : List (Nat × Nat × Nat) :=
  l.foldl (fun acc p => match p.home with
    | .store q off =>
      if acc.any fun e => e.1 == q then
        acc.map fun e => if e.1 = q then (q, min e.2.1 off, max e.2.2 (off + p.n)) else e
      else acc ++ [(q, off, off + p.n)]
    | _ => acc) []

/-- The empty lines and the scoreboard of a pair's store changed, where its owner has them. -/
def State.modStore (s : State) (p : Nat) (f : Tbl Bool → Tbl Bool) (g : List SbEnt → List SbEnt) : State :=
  match s.diverted p with
  | some v => s.setSection v.1 { v.2 with empty := f v.2.empty, sb := g v.2.sb }
  | none => s.setPair p { s.pair p with empty := f (s.pair p).empty, sb := g (s.pair p).sb }

/-- The entries of a transfer in the scoreboards, and its destination lines empty. -/
def State.takeStore (s : State) (id : Nat) (src dst : List Place) : State :=
  let s := (storeRanges src ++ storeRanges dst).foldl (fun s e =>
    s.modStore e.1 (fun t => t) fun l => l ++ [⟨id, e.2.1, e.2.2⟩]) s
  dst.foldl (fun s p => match p.home with
    | .store q off =>
      let lines := rangeFrom (off / 128) ((off + p.n + 127) / 128 - off / 128)
      s.modStore q (fun t => lines.foldl (fun t l => tset false t l true) t) fun l => l
    | _ => s) s

/-- A local-store destination that an earlier transfer still covers (07 R255). -/
def State.busyDest (s : State) (dst : List Place) : Option Word :=
  (dst.find? fun p => match p.home with
    | .store q off => s.scoreboardHit q off p.n
    | _ => false).map (·.addr)

/-- A scratchpad address of a pair of the quad (07 R254). -/
def inQuad (mine : Nat) (a : Word) : Bool := match windowOf a with | some (.pad tag _) => tag / 4 == mine / 4 | _ => false

/-- A barrier reference of the issuing quad, under either window (07 R254); none names no barrier. -/
def State.barrierRef (s : State) (bar : Option Word) : Res (Option Place) :=
  match bar with
  | none => .ok none s
  | some r =>
    let a := barrierAddr r
    (s.place s.view a { wantBarrier with foreign := inQuad s.myPair a }).bind fun p s => .ok (some p) s

/-- Entries that a pair's scoreboard holds. -/
def scoreboardSize : Nat := Config.scoreboardExtra + 2

/-- A scoreboard in which a transfer needs entries has no room for them. -/
def State.scoreboardFull (s : State) (src dst : List Place) : Bool :=
  let need := (storeRanges src ++ storeRanges dst).map (·.1)
  need.any fun p =>
    let held := match s.diverted p with | some v => v.2.sb | none => (s.pair p).sb
    decide (scoreboardSize < held.length + (need.filter fun q => q == p).length)

/-- The pairs whose stores are named, with their epochs. -/
def State.epochsOf (s : State) (l : List Place) : List (Nat × BitVec 16) :=
  l.foldl (fun acc p => match p.home with
    | .store q _ => if acc.any (fun e => e.1 == q) then acc else acc ++ [(q, (s.pair q).epoch)]
    | _ => acc) []

/-- Every earlier access of the stream is performed before a transfer's (07 R256, 09 R306), and every store still queued before
lines are emptied. -/
def State.afterStream (s : State) : State := (s.performWhere fun _ => true).drain s.view.slot none

/-- The issue of a transfer of bytes: every check, one claim, the scoreboards, then it is in flight. -/
def State.issueXfer (s : State) (p : Pre) (kind : XferKind) (dst src : Word) (len : Nat) (bar : Option Word) : Res Unit :=
  let runs := (runsOf kind dst src len).filter fun r => r.n != 0
  let v := s.view
  if runs.isEmpty then .ok () s
  else if overlapping runs then .trap cResource dst
  else
    (s.barrierRef bar).bind fun bp s =>
    (Res.collect runs s fun r s => s.checkRange v r.src r.n wantSource).bind fun sp s =>
    (Res.collect runs s fun r s => s.checkRange v r.dst r.n wantDest).bind fun dp s =>
      let srcs := sp.flatten
      let dsts := dp.flatten
      match srcs.find? (fun q => !q.there), s.busyDest dsts with
      | some q, _ => .hold ⟨.extent, 0, q.addr⟩
      | none, some a => .hold (storeHold a)
      | none, none =>
        if s.scoreboardFull srcs dsts then .hold (storeHold dst)
        else
          (s.afterStream.claimStores v dsts).bind fun z t =>
          (Res.each z t fun x t => t.storeOne v (s.owedWord p) (s.core v.core).sidelog.length x).bind fun _ t =>
            let t := t.takeStore t.nextId srcs dsts
            let x : Xfer :=
              ⟨t.nextId, v.ctx, v.slot, (t.task v.slot).lnum, kind, dst, src, len, bar.getD 0, t.owedWord p,
                t.epochsOf (srcs ++ dsts ++ bp.toList), [], false, fNone⟩
            .ok () { t with xfers := t.xfers ++ [x], nextId := t.nextId + 1 }

/-! ## The words -/

/-- An `x` register that a parameter field names. -/
def State.xpar (s : State) (w : TWord) (hi lo : Nat) : Word := s.reg (BitVec.ofNat 5 (w.bits hi lo))

/-- The barrier reference of field [10:6]; 0 names none (07 R253). -/
def State.barPar (s : State) (w : TWord) : Option Word := if w.bits 10 6 = 0 then none else some (s.xpar w 10 6)

/-- A length of COPY, REDC or BPREF (07 R254). -/
def lengthOk (n : Word) (k : Res Unit) : Res Unit := if 2 ^ 32 ≤ n.toNat then .trap cIllegal n else k

/-- 07 R260. -/
def execCopy (w : TWord) (s : State) : Out :=
  engineWord w.tok s fun p s =>
    let n := s.xpar w 15 11
    lengthOk n (s.issueXfer p .copy (s.reg w.a) (s.reg w.b) n.toNat (s.barPar w))

/-- A tensor map (07 R261). -/
structure TMap where
  esz : Nat
  box : List Nat
  ss : List Int
  ds : List Int
  srcRing : Bool
  rsize : Nat

/-- A map that breaks no rule, for COPYT or COPYR. -/
def tensorMap (ring : Bool) (x : Nat) : Option TMap :=
  let b := fun (off n : Nat) => bits x (8 * (off + n) - 1) (8 * off)
  let esz := b 1 1
  let rank := b 2 1
  let rb := b 3 1
  let rsize := b 4 4
  let box := (List.range 4).map fun d => b (8 + 4 * d) 4
  let ss := (List.range 3).map fun d => signedOf 32 (b (24 + 4 * d) 4)
  let ds := (List.range 3).map fun d => signedOf 32 (b (36 + 4 * d) 4)
  let zero := fun (l : List Int) => l.all fun z => z == 0
  let total := 2 ^ esz * box.foldl (· * ·) 1
  let ok := b 0 1 == 1 && decide (esz < 4) && decide (1 ≤ rank) && decide (rank ≤ 4) && b 48 16 == 0
    && box.all (fun n => n != 0) && ((box.drop rank).all fun n => n == 1) && decide (total < 2 ^ 32)
    && (if ring then decide (rb < 2) && rsize % 128 == 0 && decide (128 ≤ rsize) && decide (rsize ≤ 2 ^ 25)
          && (if rb = 1 then zero ss else zero ds)
        else rb == 0 && rsize == 0)
  if ok then some ⟨2 ^ esz, box, ss, ds, rb == 1, rsize⟩ else none

/-- Reads and checks the map at an address; a map that breaks a rule traps with that address. -/
def State.readMap (s : State) (ring : Bool) (m : Word) : Res TMap :=
  if m.toNat % 64 ≠ 0 then .trap cIllegal m
  else (s.memRead s.view m ⟨64, 64, true, false, true, allWins⟩).bind fun x s =>
    match tensorMap ring x with
    | none => .trap cIllegal m
    | some t => .ok t s

/-- 07 R261. -/
def execCopyt (w : TWord) (s : State) : Out :=
  engineWord w.tok s fun p s =>
    let dst := s.reg w.a
    let src := s.reg w.b
    let bar := s.barPar w
    (s.readMap false (s.xpar w 15 11)).bind fun m s =>
      s.issueXfer p (.tensor m.esz m.box m.ss m.ds) dst src (m.esz * m.box.foldl (· * ·) 1) bar

/-- 07 R262. -/
def execCopyr (w : TWord) (s : State) : Out :=
  engineWord w.tok s fun p s =>
    let dst := s.reg w.a
    let src := s.reg w.b
    let bar := s.barPar w
    let start := s.xpar w 5 1
    (s.readMap true (s.xpar w 15 11)).bind fun m s =>
      let base := if m.srcRing then src else dst
      if base.toNat % 128 ≠ 0 then .trap cIllegal base
      else if m.rsize ≤ start.toNat then .trap cIllegal start
      else s.issueXfer p (.ring m.esz m.box m.ss m.ds m.srcRing m.rsize start.toNat) dst src
        (m.esz * m.box.foldl (· * ·) 1) bar

/-- The index list: in local store or global memory, aligned to 4 (07 R263). -/
def State.readIndices (s : State) (a : Word) (c : Nat) : Res (List Int) :=
  Res.collect (List.range c) s fun i s =>
    (s.memRead s.view (a + BitVec.ofNat 64 (4 * i)) ⟨4, 4, true, false, true, 22⟩).bind fun x s => .ok (signedOf 32 x) s

/-- GATH and SCAT. -/
def rowMove (gather : Bool) (w : TWord) (s : State) : Out :=
  engineWord w.tok s fun p s =>
    let sh := s.xpar w 15 11
    let ia := s.xpar w 5 1
    let row := bits sh.toNat 31 0
    let c := bits sh.toNat 63 32
    let dst := s.reg w.a
    let src := s.reg w.b
    let bar := s.barPar w
    if row = 0 ∨ 2 ^ 24 < c ∨ 2 ^ 32 ≤ c * row then .trap cIllegal sh
    else (s.readIndices ia c).bind fun idx s =>
      s.issueXfer p (if gather then .gather row idx else .scatter row idx) dst src (c * row) bar

/-- 07 R263. -/
def execGath (w : TWord) (s : State) : Out := rowMove true w s
/-- 07 R263. -/
def execScat (w : TWord) (s : State) : Out := rowMove false w s

/-- 07 R264. -/
def execRedc (w : TWord) (s : State) : Out :=
  engineWord w.tok s fun p s =>
    let n := s.xpar w 15 11
    let dst := s.reg w.a
    let src := s.reg w.b
    let fmt := w.bits 5 2
    let size := fmtWidth fmt / 8
    lengthOk n
      (if dst.toNat % size ≠ 0 then .trap cAlign dst
      else if src.toNat % size ≠ 0 then .trap cAlign src
      else if n.toNat % size ≠ 0 then .trap cAlign n
      else s.issueXfer p (.reduce (w.bits 1 0) fmt) dst src n.toNat (s.barPar w))

/-- 07 R265: its checks, a release, then a request in flight, with its line in local store as any transfer's (R255). -/
def execRatom (w : TWord) (s : State) : Out :=
  engineWord w.tok s fun p s =>
    let a := s.reg w.a
    let wide := w.bits 6 6 == 1
    let n := if wide then 8 else 4
    (s.place s.view a ⟨n, n, true, true, true, allWins⟩).bind fun pl s =>
      match s.readWait s.view pl, s.busyDest [pl] with
      | some h, _ => .hold h
      | none, some a => .hold (storeHold a)
      | none, none =>
        if s.poisoned pl.key n then .trap cPoison a
        else if s.scoreboardFull [] [pl] then .hold (storeHold a)
        else
          (s.afterStream.release (w.bits 5 2)).bind fun _ s =>
          (s.claimStores s.view [pl]).bind fun z t =>
          (Res.each z t fun x t => t.storeOne t.view (t.owedWord p) (s.core s.myCore).sidelog.length x).bind fun _ t =>
            let ep := match pl.home with | .store q _ => (t.pair q).epoch | _ => 0
            let r : Request := ⟨t.nextId, t.view.ctx, t.me, w.bits 10 7, wide, a, t.reg w.b, w.bits 15 11, ep, t.owedWord p⟩
            let t := t.takeStore t.nextId [] [pl]
            .ok () { t with requests := t.requests ++ [r], nextId := t.nextId + 1 }

/-- 07 R266. -/
def execBpref (w : TWord) (s : State) : Out :=
  engineWord w.tok s fun p s =>
    let a := s.reg w.a
    let n := s.reg w.b
    match windowOf a with
    | some (.glob _ _) =>
      lengthOk n
        (if n = 0 then .ok () s
        else
          (s.barrierRef (s.barPar w)).bind fun bp s =>
          (s.checkRange s.view a n.toNat ⟨1, 1, true, false, true, 16⟩).bind fun _ s =>
            let s := s.afterStream
            let x : Xfer := ⟨s.nextId, s.view.ctx, s.me, (s.task s.me).lnum, .prefetch, a, a, n.toNat, (s.barPar w).getD 0,
              s.owedWord p, s.epochsOf bp.toList, [], false, fNone⟩
            .ok () { s with xfers := s.xfers ++ [x], nextId := s.nextId + 1 })
    | _ => .trap cBadWindow a

/-- 07 R267: the source is captured, and the request waits in the row's home die. -/
def execWprog (w : TWord) (s : State) : Out :=
  engineWord w.tok s fun p s =>
    let a := s.reg w.a
    let b := s.reg w.b
    match windowOf a with
    | some (.weight id off) =>
      if a.toNat % 64 ≠ 0 then .trap cAlign a
      else
        (s.place s.view b ⟨64, 64, true, false, true, 23⟩).bind fun q s =>
        (s.place s.view a ⟨64, 64, true, false, true, 8⟩).bind fun _ s =>
        (s.readPlace s.view q).bind fun data s =>
          let d := pairDie (s.wobj id).home
          let r : WpReq := ⟨s.view.ctx, id, off / 64, data, s.owedWord p, false, s.nextId⟩
          let s := s.setDie d { s.die d with wq := (s.die d).wq ++ [r] }
          let t := s.task s.me
          .ok () { (s.setTask s.me { t with wbusy := t.wbusy + 1 }) with nextId := s.nextId + 1 }
    | _ => .trap cBadWindow a

/-! ## Landing (07 R255–R258, R264, 12 R337, R338, R341) -/

/-- The view of a transfer's or a request's issuer. -/
def State.issuerView (s : State) (c slot lnum : Nat) : View :=
  let t := (s.issuer c slot lnum).getD Task.init
  ⟨c, slot, slotCore slot, 3, t.objs, frameKey t 0, t.frame, false, false, none, false⟩

/-- The diversion entry that takes a transfer's access to a pair, and the offset there. -/
def State.divertedAt (s : State) (x : Xfer) (mine : Nat) (a : Word) : Option (Nat × Nat × Nat) :=
  match storeOf mine a with
  | none => none
  | some (p, off) =>
    match x.epochs.find? fun e => e.1 == p with
    | none => none
    | some e => (s.diversion p e.2).map fun d => (d.ctx, p, off)

/-- A piece's source: its bytes, and whether some are uncorrectable. -/
def State.landRead (s : State) (x : Xfer) (v : View) (a : Word) (n : Nat) : Res (List Byte × Bool) :=
  (Res.collect (lineCuts a.toNat n) s fun c s =>
    let b := a + BitVec.ofNat 64 c.1
    match s.divertedAt x v.pair b with
    | some (cx, p, off) =>
      (match s.section cx p with
      | some sec => .ok (s.savedBytes sec off c.2, s.poisoned (sec.section_ + off) c.2) s
      | none => .hold Hold.init)
    | none =>
      (s.place v b { wantSource with n := c.2 }).bind fun q s =>
      (s.softRead v q).bind fun d s => .ok (bytesOf c.2 d.1, d.2.isSome) s).bind fun l s =>
    .ok (l.flatMap (·.1), l.any (·.2)) s

/-- One element of REDC (07 R264). -/
def reduceElem (op fmt old x : Nat) : Nat × Flags :=
  match op with
  | 0 => laneAdd fmt 0 old x
  | 1 => (laneMax true fmt old x, fNone)
  | _ => (laneMax false fmt old x, fNone)

/-- The bytes that a piece leaves at its destination, given what is there. -/
def landedBytes (kind : XferKind) (old new : List Byte) : List Byte × Flags :=
  match kind with
  | .reduce op fmt =>
    let k := fmtWidth fmt / 8
    (List.range (new.length / k)).foldl (fun acc i =>
      let r := reduceElem op fmt (ofBytes ((old.drop (k * i)).take k)) (ofBytes ((new.drop (k * i)).take k))
      (acc.1 ++ bytesOf k r.1, acc.2 ||| r.2)) ([], fNone)
  | _ => (new, fNone)

def XferKind.isReduce (k : XferKind) : Bool := match k with | .reduce _ _ => true | _ => false

/-- Whole bytes as writes from offset 0. -/
def asNibs (l : List Byte) : List NibWrite := (List.range l.length).map fun i => ⟨i, 3, l.getD i 0⟩

/-- How a piece landed: the state, the flags, and whether it counts now or when it is replayed. -/
structure LandOut where
  flags : Flags
  parked : Bool

/-- A piece into the log of an absent owner, or for a reduction into its image. -/
def State.landDiverted (s : State) (x : Xfer) (cx p off : Nat) (data : List Byte) (bad : Bool) : Res LandOut :=
  match s.section cx p with
  | none => .hold Hold.init
  | some sec =>
    let key := sec.section_ + off
    let mark := fun (s : State) => if bad then s.poisonLine (key / 128) else s
    if x.kind.isReduce then
      if s.poisoned key data.length then .trap cPoison x.dst
      else
        let s := s.foldSection cx sec off data.length
        let r := landedBytes x.kind (s.getBytes key data.length) data
        .ok ⟨r.2, false⟩ (mark (s.putNibs key (asNibs r.1)))
    else
      match sec.append off (asNibs data) x.slot with
      | none => .hold Hold.init
      | some v => .ok ⟨fNone, false⟩ (mark ((s.setSection cx v).clearPoison key data.length))

/-- The operation and format of a reduction. -/
def XferKind.reduction (k : XferKind) : Option (Nat × Nat) := match k with | .reduce op fmt => some (op, fmt) | _ => none

/-- A piece of a transfer parks: into the entry that the transfer already has for its line, or a new one (08 R285). -/
def State.parkPiece (s : State) (core : Nat) (e : SideEnt) : Option State :=
  let c := s.core core
  let same := fun (q : SideEnt) => q.owed == e.owed && q.eng == 3 && q.obj == e.obj && q.addr == e.addr && q.red.isNone && e.red.isNone
    && q.bar.isSome == e.bar.isSome
  if c.sidelog.any same then
    let join := fun (q : SideEnt) => { q with
      bytes := q.bytes ++ e.bytes, bad := q.bad || e.bad,
      bar := match q.bar, e.bar with
        | some a, some b => some (a.1, a.2.1, a.2.2.1, a.2.2.2 + b.2.2.2)
        | b, _ => b }
    some (s.setCore core { c with sidelog := c.sidelog.map fun q => if same q then join q else q })
  else s.park core c.sidelog.length e

/-- A piece at its destination: applied at the home, or parked. -/
def State.landWrite (s : State) (x : Xfer) (v : View) (d : Word) (data : List Byte) (bad : Bool) : Res LandOut :=
  match s.divertedAt x v.pair d with
  | some (cx, p, off) => s.landDiverted x cx p off data bad
  | none =>
    (s.place v d { wantDest with n := data.length }).bind fun q s =>
      match s.mustPark v q with
      | some o =>
        let bar := if x.bar = 0 then none else
          (storeOf v.pair (barrierAddr x.bar)).map fun b => (b.1, b.2, x.bar.getLsbD 0, data.length)
        let e := { q.entry v o x.owed 3 data with bar := bar, red := x.kind.reduction, bad := bad }
        (match s.parkPiece v.core e with
        | none => .hold ⟨.extent, 0, d⟩
        | some s => .ok ⟨fNone, true⟩ s)
      | none =>
        let s := (s.flushLine v q).numbered v.die q.home (if x.kind.isReduce then 0 else 2)
        let old := if x.kind.isReduce then bytesOf q.n (s.homeNat v q) else []
        let r := landedBytes x.kind old data
        let t := (s.putNibs q.key (s.nibsOf v ⟨q, 3, r.1⟩)).clearPoison q.key q.n
        .ok ⟨r.2, false⟩ (if bad then t.poisonLine (q.key / 128) else t)

/-- A destination line becomes full, in the store or in the section that holds it. -/
def State.fillLine (s : State) (x : Xfer) (mine : Nat) (d : Word) : State :=
  match s.divertedAt x mine d with
  | some (cx, p, off) =>
    (match s.section cx p with
    | some sec => s.setSection cx { sec with empty := terase sec.empty (off / 128) }
    | none => s)
  | none =>
    match storeOf mine d with
    | some (p, off) => s.setPair p { s.pair p with empty := terase (s.pair p).empty (off / 128) }
    | none => s

/-- Every piece of the line of a landed piece has landed. -/
def Xfer.lineDone (x : Xfer) (d : Word) : Bool :=
  let ps := x.pieces
  ((List.range ps.length).zip ps).all fun e => lineAddr e.2.dst != lineAddr d || tget false x.landed e.1

def State.setXfer (s : State) (x : Xfer) : State :=
  { s with xfers := s.xfers.map fun y => if y.id = x.id then x else y }

/-- A view to which no object is protected: where the bytes of a claimed write stand, whatever has become of its key. -/
def View.plain (v : View) : View := { v with objs := v.objs.map fun e => (e.1, { e.2 with prot := false, wr := true }) }

/-- The line of a piece that will not land is uncorrectable, at its home or when its extent is mapped. -/
def State.poisonPiece (s : State) (v : View) (x : Xfer) (r : XRun) : State :=
  match s.place v.plain r.dst { wantDest with n := r.n } with
  | .ok q s =>
    (match s.mustPark v q with
    | none => s.poisonLine (q.key / 128)
    | some o => (s.parkPiece v.core { q.entry v o x.owed 3 [] with bad := true }).getD s)
  | _ => s

/-- The transfer is over, and its fault is reported (07 R257). -/
def State.stopXfer (s : State) (x : Xfer) (cause : Nat) (addr : Word) : State :=
  (s.setXfer { x with failed := true }).tellCtx x.ctx evTransferFault [x.ctx, x.slot, cause, addr.toNat]

/-- The lines that a transfer has not completed are poisoned, and full so that a consumer traps (07 R257). -/
def State.poisonRest (s : State) (x : Xfer) : State :=
  let v := s.issuerView x.ctx x.slot x.lnum
  let ps := x.pieces
  let left := ((List.range ps.length).zip ps).filter fun e => !tget false x.landed e.1
  left.foldl (fun s e =>
    match s.divertedAt x v.pair e.2.dst with
    | some (cx, p, off) =>
      (match s.section cx p with
      | some sec => (s.setSection cx { sec with empty := terase sec.empty (off / 128) }).poisonLine ((sec.section_ + off) / 128)
      | none => s)
    | none => (s.fillLine x v.pair e.2.dst).poisonPiece v x e.2) s

/-- A transfer that can move no further bytes: its lines are poisoned, and the fault is reported (07 R257, 12 R348). -/
def State.failXfer (s : State) (x : Xfer) (cause : Nat) (addr : Word) : State := (s.poisonRest x).stopXfer x cause addr

/-- Landed bytes counted at the transfer's barrier; none while the barrier image has no room. -/
def State.creditBarrier (s : State) (x : Xfer) (n : Nat) : Option State :=
  if x.bar = 0 then some s
  else
    match storeOf (slotPair x.slot) (barrierAddr x.bar) with
    | none => some s
    | some (p, off) =>
      let div := (s.divertedAt x (slotPair x.slot) (barrierAddr x.bar)).map (·.1)
      s.barrierLand div p off (x.bar.getLsbD 0) n

/-- A piece of a scattered row whose destination a higher row has written: that row remains (07 R263). -/
def Xfer.overtaken (x : Xfer) (i : Nat) (r : XRun) : Bool :=
  (match x.kind with | .scatter _ _ => true | _ => false)
    && ((List.range x.pieces.length).zip x.pieces).any fun e => decide (i < e.1) && tget false x.landed e.1 && e.2.dst == r.dst

/-- One piece of a transfer lands. -/
def State.landPiece (s : State) (x : Xfer) (i : Nat) (r : XRun) : State :=
  let v := s.issuerView x.ctx x.slot x.lnum
  match (s.landRead x v r.src r.n).bind fun d s =>
      if x.overtaken i r then .ok (⟨fNone, false⟩, false) s
      else (s.landWrite x v r.dst d.1 d.2).bind fun o s => .ok (o, d.2) s with
  | .hold _ => s
  | .trap c a =>
    if x.kind.isReduce && (s.divertedAt x v.pair r.dst).isSome then
      let s := s.setXfer { x with landed := tput x.landed i true }
      s.assignFault ((s.divertedAt x v.pair r.dst).map fun e => (e.1, e.2.1)) ⟨c, 3, x.ctx, x.slot, x.lnum, a, x.owed.prod⟩
    else s.failXfer x c a
  | .ok (o, bad) t =>
    match if o.parked then some t else t.creditBarrier x r.n with
    | none => s
    | some t =>
      let x := { x with landed := tput x.landed i true, flags := x.flags ||| o.flags }
      let t := t.setXfer x
      let t := if x.lineDone r.dst then t.fillLine x v.pair r.dst else t
      if bad then t.tellCtx x.ctx evTransferFault [x.ctx, x.slot, cPoison, r.src.toNat] else t

/-- Lines that a die's LLC holds: 64 MiB (08 R297). -/
def llcLines : Nat := 524288

/-- A line brought into a die's LLC; the lowest-numbered one leaves for it where there is no room. -/
def Die.llcFill (x : Die) (line : Nat) : Die :=
  let l := if x.llc.length < llcLines || (tfind x.llc line).isSome then x.llc else x.llc.drop 1
  { x with llc := tput l line true }

/-- One line of a prefetch is filled at its home; a line that is not present is passed over. A fault ends it and changes no
value (07 R266). -/
def State.landPrefetch (s : State) (x : Xfer) (i : Nat) (r : XRun) : State :=
  let v := s.issuerView x.ctx x.slot x.lnum
  match s.place v r.dst ⟨r.n, 1, true, false, true, 16⟩ with
  | .hold _ => s
  | .trap c a => s.stopXfer x c a
  | .ok q t =>
    let t := match q.there, q.home with
      | true, .lpddr d => t.setDie d ((t.die d).llcFill (q.key / 128))
      | _, _ => t
    t.setXfer { x with landed := tput x.landed i true }

/-- 07 R257. Nothing happens unless the transfer is in flight and the piece has not landed. -/
def execTransferLanding (id piece : Nat) (s : State) : Out :=
  .next
    (match s.xfers.find? fun x => x.id == id with
    | none => s
    | some x =>
      match x.pieces[piece]? with
      | none => s
      | some r =>
        if x.failed || tget false x.landed piece then s
        else if x.kind = .prefetch then s.landPrefetch x piece r else s.landPiece x piece r)

/-- 12 R337. A piece that reaches a pair whose owner is absent lands as `State.landPiece` diverts it. -/
def execDivertedRequest (id piece : Nat) (s : State) : Out :=
  .next
    (match s.xfers.find? fun x => x.id == id with
    | none => s
    | some x =>
      match x.pieces[piece]? with
      | none => s
      | some r =>
        if x.failed || tget false x.landed piece || (s.divertedAt x (slotPair x.slot) r.dst).isNone then s
        else s.landPiece x piece r)

/-- Nothing of a transfer is left to land. -/
def Xfer.done (x : Xfer) : Bool :=
  x.failed || (List.range x.pieces.length).all fun i => tget false x.landed i

/-- The scoreboard entries of a transfer go, in the stores and in the sections that hold them (12 R342). -/
def State.dropEntries (s : State) (id : Nat) : State :=
  let keep := fun (l : List SbEnt) => l.filter fun e => e.id != id
  let s := (s.pairs.map (·.1)).foldl (fun s p => s.setPair p { s.pair p with sb := keep (s.pair p).sb }) s
  (s.ctxs.map (·.1)).foldl (fun s c =>
    s.setCtx c { s.ctx c with saved := (s.ctx c).saved.map fun v => { v with sb := keep v.sb } }) s

/-- 07 R258. -/
def execTransferRetire (id : Nat) (s : State) : Out :=
  .next
    (match s.xfers.find? fun x => x.id == id with
    | none => s
    | some x =>
      if !x.done then s
      else
        match if x.kind = .prefetch && !x.failed then s.creditBarrier x x.len else some s with
        | none => s
        | some s =>
          let s := { s with xfers := s.xfers.filter fun y => y.id != id }
          let s := (s.dropEntries id).modIssuer x.ctx x.slot x.lnum fun t =>
            { t with hart := { t.hart with flags := t.hart.flags ||| x.flags } }
          s.settleIssuer x.ctx x.slot)

/-! ## Remote atomics (07 R265, 12 R322, R338, R339) -/

/-- The new value of a remote atomic, and the flags it raises. -/
def ratomValue (op n old y : Nat) : Nat × Flags :=
  let m := 2 ^ (8 * n)
  let y := y % m
  match op with
  | 0 => (y, fNone)
  | 1 => ((old + y) % m, fNone)
  | 2 => (old &&& y, fNone)
  | 3 => (old ||| y, fNone)
  | 4 => (old ^^^ y, fNone)
  | 5 => (minBy n old y, fNone)
  | 6 => (maxBy n old y, fNone)
  | 7 => (min old y, fNone)
  | 8 => (max old y, fNone)
  | _ => laneAdd 0 0 old y

def Request.size (r : Request) : Nat := if r.wide then 8 else 4

/-- The pair and offset of a remote atomic in local store, and the context that diverts it there. -/
def State.requestStore (s : State) (r : Request) : Option (Nat × Nat × Option Nat) :=
  (storeOf (slotPair r.slot) r.addr).map fun e => (e.1, e.2, s.divertsTo e.1 r.epoch)

/-- The operation at its home, or in the section that diverts it: the old value and the flags. Its own entry and line do not keep
it waiting. -/
def State.performAtomic (s : State) (r : Request) : Res (Nat × Flags) :=
  let v := s.issuerView r.ctx r.slot r.owed.lnum
  let n := r.size
  match s.requestStore r with
  | some (p, off, some cx) =>
    (match s.section cx p with
    | none => .hold Hold.init
    | some sec =>
      let key := sec.section_ + off
      if s.poisoned key n then .trap cPoison r.addr
      else
        let s := s.foldSection cx sec off n
        let old := s.getNat key n
        let x := ratomValue r.op n old r.val.toNat
        .ok (old, x.2) (s.putBytes key (bytesOf n x.1)))
  | _ =>
    (s.place v r.addr ⟨n, n, true, true, true, allWins⟩).bind fun q s =>
      let wait := match q.home with | .store _ _ => none | _ => s.atomicWait v q
      match wait with
      | some h => .hold h
      | none =>
        if s.poisoned q.key n then .trap cPoison r.addr
        else
          let s := (s.flushLine v q).numbered v.die q.home 3
          let old := s.homeNat v q
          let x := ratomValue r.op n old r.val.toNat
          .ok (old, x.2) (s.putNibs q.key (s.nibsOf v ⟨q, 3, bytesOf n x.1⟩))

/-- The old value into its return register. -/
def Task.returnValue (t : Task) (ret : Nat) (v : Word) (f : Flags) : Task :=
  { t with
    xrf := if ret = 0 then t.xrf else { t.xrf with vals := tset 0 t.xrf.vals ret v, pend := t.xrf.pend.filter fun e => e.reg != ret },
    hart := { t.hart with flags := t.hart.flags ||| f } }

/-- A remote atomic is over: its scoreboard entry goes and its line is full again. -/
def State.endRequest (s : State) (r : Request) : State :=
  let s := { s with requests := s.requests.filter fun q => q.id != r.id }
  match s.requestStore r with
  | none => s
  | some (p, off, some c) =>
    let s := s.dropEntries r.id
    (match s.section c p with
    | some v => s.setSection c { v with empty := terase v.empty (off / 128) }
    | none => s)
  | some (p, off, none) =>
    let s := s.dropEntries r.id
    s.setPair p { s.pair p with empty := terase (s.pair p).empty (off / 128) }

/-- 12 R322. The answer of a remote atomic reaches its register and token, or the saved image of an absent task. -/
def execAccessResponse (id : Nat) (s : State) : Out :=
  .next
    (match s.requests.find? fun r => r.id == id with
    | none => s
    | some r =>
      match s.performAtomic r with
      | .hold _ => s
      | .trap c a =>
        (match s.requestStore r with
        | some (p, _, some cx) =>
          (s.endRequest r).assignFault (some (cx, p)) ⟨c, 3, r.ctx, r.slot, r.owed.lnum, a, r.owed.prod⟩
        | _ => ((s.endRequest r).tellCtx r.ctx evTransferFault [r.ctx, r.slot, c, a.toNat]).settleIssuer r.ctx r.slot)
      | .ok (old, f) t =>
        let v := if r.wide then BitVec.ofNat 64 old else signed 4 old
        let t := (t.endRequest r).modIssuer r.ctx r.slot r.owed.lnum fun k => k.returnValue r.ret v f
        t.settleIssuer r.ctx r.slot)

end Sys2Proof.Machine
end

