-- ==== Sys2Proof/Machine/Homes.lean ====
section
/-! DEFINITION. What homes and memory units do on their own: extent walks, side-log replay, write-backs of cache lines, and the
numbered messages between dies (spec 08 R283–R288, R295, 09 R314, 19 R458). -/
namespace Sys2Proof.Machine

/-! ## Accesses held at an extent (08 R234, R288) -/

/-- The streams of a task that can be held. -/
def agentsOf (k : Nat) : List Agent := [.scalar k, .vector k, .matrix k, .transfer k]

/-- What an agent's stream is held in. -/
def State.heldIn (s : State) (a : Agent) : Hold :=
  match a with
  | .scalar k => (s.task k).hold
  | .vector k => ((s.task k).vec.cur.map (·.hold)).getD Hold.init
  | .matrix k => ((s.task k).mat.cur.map (·.hold)).getD Hold.init
  | .transfer k => ((s.task k).xfer.cur.map (·.hold)).getD Hold.init
  | _ => Hold.init

/-- An address names an extent of an object of the context, through these handles. -/
def namesExtent (objs : Tbl ObjDesc) (obj ext : Nat) (a : Word) : Bool :=
  match windowOf a with
  | some (.glob h off) => (tfind objs h).any (fun o => o.idx == obj) && extOf off == ext
  | _ => false

/-- The streams of a context held at an extent, each with the handle its access used. -/
def State.heldAt (s : State) (c obj ext : Nat) : List (Agent × Nat) :=
  (s.ctxSlots c).flatMap fun k => (agentsOf k).filterMap fun a =>
    let h := s.heldIn a
    if h.kind = .extent ∧ namesExtent (s.task k).objs obj ext h.v then some (a, bits h.v.toNat 59 52) else none

/-- The accesses held at an extent end in PAGE_FATAL (08 R283, R288). -/
def State.fatalHeld (s : State) (c obj ext : Nat) (sel : Agent → Bool) : State :=
  (s.heldAt c obj ext).foldl (fun s e =>
    if sel e.1 then
      let k := (agentSlot e.1).getD 0
      s.raiseTrap k ⟨agentEng e.1, cPageFatal, 0, extAddr e.2 ext, s.epc k (agentEng e.1)⟩
    else s) s

/-- 08 R283. A present entry of a wrong form ends the core's accesses that wait for it. -/
def execExtentWalk (core ctx obj ext : Nat) (s : State) : Out :=
  .next
    (match s.objRow ctx obj with
    | none => s
    | some r =>
      let e := s.walkedExtent r.desc ext
      let x := extentOf e
      if !x.present || (s.cachedExtent core ctx obj ext).isSome then s
      else if x.ok then s.setCore core ((s.core core).fill ⟨ctx, obj, ext, e⟩)
      else s.fatalHeld ctx obj ext fun a => agentCore a == some core)

/-! ## Side-log replay (08 R286, R287) -/

/-- The task that made a parked write: bound, or saved with its context. -/
def State.parker (s : State) (e : SideEnt) : Task :=
  let k := e.owed.slot
  if s.bound k && (s.task k).ctx == e.ctx then s.task k else (s.savedTask e.ctx k).getD Task.init

/-- The view of a parked write. -/
def State.parkView (s : State) (e : SideEnt) : View :=
  let k := e.owed.slot
  let t := s.parker e
  ⟨e.ctx, k, slotCore k, e.eng, t.objs, frameKey t 0, t.frame, false, false, none, false⟩

/-- First and last byte of an entry in its line. -/
def SideEnt.span (e : SideEnt) : Nat × Nat :=
  (e.bytes.foldl (fun m b => min m b.off) 127, e.bytes.foldl (fun m b => max m b.off) 0)

/-- It writes every byte of its line. -/
def SideEnt.whole (e : SideEnt) : Bool := (List.range 128).all fun i => e.bytes.any fun b => b.off == i && b.nib == 3

/-- The bytes of an entry at their home, from place `q` on, whose first byte is byte `lo` of the line. -/
def State.replayBytes (s : State) (v : View) (q : Place) (lo : Nat) (e : SideEnt) : State :=
  (s.putNibs (q.key - lo) (e.bytes.map fun b =>
    { b with byte := b.byte ^^^ s.padByte v.ctx q.obj (q.off - lo + b.off) })).clearPoison q.key (if e.whole then 128 else 0)

/-- One entry: performed as the write it stands for; none while it must go on waiting. -/
def State.replayOne (s : State) (e : SideEnt) : Option State :=
  let v := s.parkView e
  let lo := e.span.1
  let n := e.span.2 + 1 - lo
  match s.place v (e.addr + BitVec.ofNat 64 lo) { wantDest with n := n } with
  | .hold _ => none
  | .trap c a =>
    let k := e.owed.slot
    if s.isAbsent e.ctx then some (s.assignFault none ⟨c, 4, e.ctx, k, e.owed.lnum, a, e.owed.prod⟩)
    else if s.bound k && (s.task k).ctx == e.ctx then some (s.raiseTrap k ⟨4, c, 0, a, s.epc k 4⟩)
    else some (s.tellCtx e.ctx evDeferredFault [e.ctx, k, c, a.toNat])
  | .ok q s =>
    if !q.there then none
    else
      let s := (s.flushLine v q).numbered v.die q.home 2
      let s := match e.red with
        | none => s.replayBytes v q lo e
        | some (op, fmt) =>
          let r := landedBytes (.reduce op fmt) (bytesOf q.n (s.homeNat v q)) (e.bytes.map (·.byte))
          (s.putNibs q.key (s.nibsOf v ⟨q, 3, r.1⟩)).modIssuer e.ctx e.owed.slot e.owed.lnum fun t =>
            { t with hart := { t.hart with flags := t.hart.flags ||| r.2 } }
      let s := if e.bad then s.poisonLine (q.key / 128) else s
      match e.bar with
      | none => some s
      | some (p, off, phase, n) => s.barrierLand (s.barrierHome e.ctx p) p off phase n

/-- A log replayed in age order; what follows a waiting entry of its extent, here or in the older log `before`, waits too. -/
def State.replayLog (s : State) (before l : List SideEnt) : State × List SideEnt :=
  l.foldl (fun (acc : State × List SideEnt) e =>
    let behind := (before ++ acc.2).any fun q => q.ctx == e.ctx && q.obj == e.obj && q.ext == e.ext
    if behind then (acc.1, acc.2 ++ [e])
    else match acc.1.replayOne e with
      | some s => (s, acc.2)
      | none => (acc.1, acc.2 ++ [e])) (s, [])

/-- The core's log, behind what pre-emptions have moved out of it. -/
def State.replayCore (s : State) (c : Nat) : State :=
  let l := (s.core c).sidelog
  let s := s.setCore c { s.core c with sidelog := [] }
  let r := s.replayLog (s.ctxs.flatMap fun x => x.2.moved.filter fun e => slotCore e.owed.slot == c) l
  r.1.setCore c { r.1.core c with sidelog := r.2 ++ (r.1.core c).sidelog }

/-- The moved entries of a context whose writes were issued on core `c`. -/
def State.replayMoved (s : State) (ctx c : Nat) : State :=
  let mine := fun (e : SideEnt) => slotCore e.owed.slot == c
  let l := (s.ctx ctx).moved
  if l.isEmpty then s
  else
    let r := (s.setCtx ctx { s.ctx ctx with moved := l.filter fun e => !mine e }).replayLog [] (l.filter mine)
    r.1.setCtx ctx { r.1.ctx ctx with moved := r.2 ++ (r.1.ctx ctx).moved }

/-- 08 R286, R287. The entries of its tasks that a pre-emption moved, which are older, then the core's. -/
def execSideLogReplay (core : Nat) (s : State) : Out :=
  .next (((s.ctxs.map (·.1)).foldl (fun s c => s.replayMoved c core) s).replayCore core)

/-- Entries of one extent discarded, from a log. -/
def dropExtent (c obj ext : Nat) (l : List SideEnt) : List SideEnt :=
  l.filter fun e => !(e.ctx == c && e.obj == obj && e.ext == ext)

/-! ## The local-store cache -/

/-- 08 R295. -/
def execCacheWriteback (pair line : Nat) (s : State) : Out := .next (s.writeBack pair line)

/-! ## Messages between dies (09 R314, 19 R458) -/

/-- A channel changed, where it is listed. -/
def State.modChan (s : State) (ch : Channel) (f : Chan → Chan) : State :=
  { s with chans := s.chans.map fun c => if c.ch = ch then f c else c }

/-- 09 R314. The message whose number the home expects is applied, and the number moves on. -/
def execHomeMessageApply (ch : Channel) (s : State) : Out :=
  .next
    (match s.chans.find? fun c => c.ch == ch with
    | none => s
    | some c =>
      let r := s.applyNext c
      r.1.modChan ch fun _ => r.2)

/-- 19 R458. The sender forgets the oldest message that the home has applied. -/
def execMessageAck (ch : Channel) (s : State) : Out :=
  .next (s.modChan ch fun c => if c.applied = 0 then c else { c with unacked := c.unacked.drop 1, applied := c.applied - 1 })

/-- 09 R314. Every unacknowledged message is under way again with its number; the home discards and acknowledges again those
whose numbers it has passed, so each still takes effect once. -/
def execLinkResend (ch : Channel) (s : State) : Out :=
  .next (s.modChan ch fun c =>
    let seen := (c.unacked.filter fun m => (m.num - c.expect).msb).length
    { c with applied := seen })

end Sys2Proof.Machine
end

