-- ==== Sys2Proof/Machine/Adapters.lean ====
section
/-! DEFINITION. The adapter home: slot states, references and holds, base versions and their weight objects (spec 16
R418–R428, 18 R436, R437). -/
namespace Sys2Proof.Machine

/-! ## Slots (16 R418, R419) -/

/-- Adapter slot states. -/
def slotFree : Nat := 0
def slotClaimed : Nat := 1
def slotLive : Nat := 2
def slotDraining : Nat := 3
def slotGone : Nat := 4

/-- No adapter. -/
def noSlot : Nat := 0xFFF

/-- Every core of a die that is online (16 R424). -/
def State.checkCores (s : State) : BitVec 256 :=
  BitVec.ofNat 256 ((List.range 256).foldl (fun m c =>
    if s.dieUp (coreDie c) && (!coreLoft c || (s.die (coreDie c)).loft) then m ||| 2 ^ c else m) 0)

/-- A slot in another state: every core's check is told of it (16 R424). -/
def State.moveSlot (s : State) (k : Nat) (a : Adapter) : State := s.setAdapter k { a with acks := s.checkCores }

/-- An object unmapped: its logical rows may serve another object, and their indirection entries stay (18 R436, R437). -/
def State.unmapObject (s : State) (id : Nat) : State := s.setWobj id { s.wobj id with st := 0 }

/-- The version entry of a model slot, by index. -/
def Model.entry (m : Model) (e : Nat) : VerEnt := if e = 0 then m.v0 else m.v1

def Model.setEntry (m : Model) (e : Nat) (v : VerEnt) : Model := if e = 0 then { m with v0 := v } else { m with v1 := v }

/-- Version states. -/
def verAbsent : Nat := 0
def verLoading : Nat := 1
def verPresent : Nat := 2
def verRetiring : Nat := 3

/-- The entry with a version identifier in one of the given states. -/
def Model.findVer (m : Model) (vid : Nat) (sts : List Nat) : Option Nat :=
  if m.v0.vid = vid ∧ sts.contains m.v0.st then some 0
  else if m.v1.vid = vid ∧ sts.contains m.v1.st then some 1 else none

/-- A version becomes absent: its weight objects are unmapped and their rows freed (16 R427). -/
def State.dropVersion (s : State) (k e : Nat) : State :=
  let m := s.model k
  let v := m.entry e
  let s := (rangeFrom v.wobj v.nwobj).foldl (fun s i => s.unmapObject i) s
  s.setModel k (m.setEntry e VerEnt.init)

/-- A retiring version without references becomes absent. -/
def State.settleVersion (s : State) (k e : Nat) : State :=
  let v := (s.model k).entry e
  if v.st = verRetiring ∧ v.refs = 0 then s.dropVersion k e else s

/-- A reference on a version taken. -/
def State.takeVer (s : State) (k vid : Nat) : State :=
  match (s.model k).findVer vid [verPresent, verRetiring] with
  | none => s
  | some e =>
    let m := s.model k
    s.setModel k (m.setEntry e { m.entry e with refs := (m.entry e).refs + 1 })

/-- A reference on a version released. -/
def State.dropVer (s : State) (k vid : Nat) : State :=
  match (s.model k).findVer vid [verPresent, verRetiring] with
  | none => s
  | some e =>
    let m := s.model k
    (s.setModel k (m.setEntry e { m.entry e with refs := (m.entry e).refs - 1 })).settleVersion k e

/-- A draining or gone slot without references becomes free: its version's reference goes, and an extra expert's on its
parent, which may become free with it (16 R419). -/
def State.settleSlot (s : State) (fuel k : Nat) : State :=
  let a := s.adapter k
  match fuel with
  | 0 => s
  | n + 1 =>
    if (a.st = slotDraining ∨ a.st = slotGone) ∧ a.refs = 0 then
      let s := (s.moveSlot k Adapter.init).dropVer a.model a.bver
      if a.kind = 1 then
        let p := s.adapter a.parent
        (s.setAdapter a.parent { p with refs := p.refs - 1 }).settleSlot n a.parent
      else s
    else s

/-- A slot and, when it is an extra expert, its parent. -/
def slotDepth : Nat := 2

/-- A reference on a slot taken. -/
def State.takeSlot (s : State) (k : Nat) : State :=
  if k = noSlot then s else s.setAdapter k { s.adapter k with refs := (s.adapter k).refs + 1 }

/-- A reference on a slot released. -/
def State.dropSlot (s : State) (k : Nat) : State :=
  if k = noSlot then s
  else (s.setAdapter k { s.adapter k with refs := (s.adapter k).refs - 1 }).settleSlot slotDepth k

/-- The extra experts of a slot. -/
def State.experts (s : State) (k : Nat) : List Nat :=
  (s.adapters.filter fun e => e.2.kind == 1 && e.2.parent == k && decide (slotLive ≤ e.2.st)).map (·.1)

/-- A slot and its extra experts, in state `live` to `from_`, moved to a state; those without references become free. -/
def State.retireSlot (s : State) (k st : Nat) (from_ : List Nat) : State :=
  let l := (s.experts k).filter fun e => from_.contains (s.adapter e).st
  let s := (l ++ [k]).foldl (fun s e => s.moveSlot e { s.adapter e with st := st }) s
  (l ++ [k]).foldl (fun s e => s.settleSlot slotDepth e) s

/-- The claim of BIND: whether it wins (16 R419, R423). -/
def State.claimSlot (s : State) (k c model : Nat) : State × Bool :=
  if (s.adapter k).st = slotFree then
    (s.moveSlot k { Adapter.init with st := slotClaimed, owner := c, model := model, evictFn := (s.adapter k).evictFn }, true)
  else (s, false)

/-- A normal eviction by a context; none when it is refused. -/
def State.evictSlot (s : State) (k c : Nat) : Option State :=
  let a := s.adapter k
  if a.st = slotFree ∨ a.owner ≠ c then none
  else if a.st = slotClaimed then some (s.moveSlot k Adapter.init)
  else if a.st = slotLive then some (s.retireSlot k slotDraining [slotLive])
  else some s

/-- A forced eviction, reported to a function when every core has acknowledged it (16 R419, R424). -/
def State.forceEvict (s : State) (k f : Nat) : State :=
  let a := s.adapter k
  if a.st = slotClaimed then s.moveSlot k { Adapter.init with evictFn := some f }
  else if a.st = slotLive ∨ a.st = slotDraining then
    let s := s.retireSlot k slotGone [slotLive, slotDraining]
    s.setAdapter k { s.adapter k with evictFn := some f }
  else s

/-- 16 R424. The event code of a completed forced eviction (20 R474). -/
def evForceEvicted : Nat := 0x8040

/-- The cores of a mask have acknowledged a slot's state; a forced eviction is complete with the last of them (16 R424). -/
def State.ackSlot (s : State) (k : Nat) (cores : BitVec 256) : State :=
  let a := s.adapter k
  let acks := a.acks &&& ~~~cores
  match acks == 0, a.evictFn with
  | true, some f => (s.setAdapter k { a with acks := acks, evictFn := none }).tellFn f evForceEvicted [k]
  | _, _ => s.setAdapter k { a with acks := acks }

/-- Cores that are gone or in reset owe no acknowledgement. -/
def State.forgetAcks (s : State) (cores : BitVec 256) : State :=
  ((s.adapters.filter fun e => e.2.acks &&& cores != 0).map (·.1)).foldl (fun s k => s.ackSlot k cores) s

/-- 16 R424. -/
def execAdapterStateAck (core slot : Nat) (s : State) : Out := .next (s.ackSlot slot (BitVec.ofNat 256 (2 ^ core)))

/-- 16 R419. -/
def execAdapterRefsZero (slot : Nat) (s : State) : Out := .next (s.settleSlot slotDepth slot)

/-- 16 R427. -/
def execVersionRefsZero (model ent : Nat) (s : State) : Out := .next (s.settleVersion model ent)

/-! ## Holds (16 R421, R422) -/

/-- Holds a queue records at most. -/
def holdTableSize : Nat := 16

/-- A hold's two references released. -/
def State.dropHold (s : State) (h : AdpHold) : State := (s.dropSlot h.slot).dropVer h.model h.ver

/-- An invocation made under a hold has not completed. -/
def State.holdBusy (s : State) (id : Nat) : Bool :=
  (s.launches.any fun l => l.2.under == some id) || s.waiting.any fun l => l.under == some id

/-- Holds that their frames have left and that no invocation needs any more are released. -/
def State.settleHolds (s : State) (q : Nat) : State :=
  let l := (s.queue q).holds
  let past := l.filter fun h => h.left && !s.holdBusy h.id
  let s := s.setQueue q { s.queue q with holds := l.filter fun h => !(h.left && !s.holdBusy h.id) }
  past.foldl (fun s h => s.dropHold h) s

/-- The frame at a depth is left. -/
def State.leaveFrame (s : State) (q depth : Nat) : State :=
  let x := s.queue q
  (s.setQueue q { x with holds := x.holds.map fun h => if h.depth = depth then { h with left := true } else h }).settleHolds q

/-- Every reference of an invocation that is released at its end. -/
def State.dropRefs (s : State) (refs : Option (Nat × Nat × Nat)) : State :=
  match refs with
  | none => s
  | some (k, m, v) => (s.dropSlot k).dropVer m v

/-! ## Installing (16 R420) -/

/-- An index names an entry of a context's table that may be read. -/
def State.readableIndex (s : State) (c i : Nat) : Bool := (s.objRow c i).any fun r => r.desc.rd

/-- The install message from function `f`: whether the home accepts it. -/
def State.installOk (s : State) (k f : Nat) (a : AdpInstall) : Bool :=
  let x := s.adapter k
  let m := s.model x.model
  let parent := s.adapter a.parent
  x.st == slotClaimed && (s.ctx x.owner).fn == f && (m.findVer a.bver [verPresent]).isSome && decide (a.rankm1 ≤ 63)
    && s.readableIndex x.owner a.aidx && s.readableIndex x.owner a.bidx
    && (a.ridx == 0xFFFF || s.readableIndex x.owner a.ridx)
    && (a.kind != 1 || (parent.st == slotLive && parent.kind == 0 && parent.owner == x.owner && parent.model == x.model
      && parent.bver == a.bver))

/-- The slot becomes live, with its references. -/
def State.install (s : State) (k : Nat) (a : AdpInstall) : State :=
  let x := s.adapter k
  let s := s.moveSlot k { x with
    st := slotLive, kind := a.kind, bver := a.bver, rankm1 := a.rankm1, eidx := a.eidx, parent := a.parent,
    aidx := a.aidx, bidx := a.bidx, ridx := a.ridx }
  let s := s.takeVer x.model a.bver
  if a.kind = 1 then s.takeSlot a.parent else s

end Sys2Proof.Machine
end

