-- ==== Sys2Proof/Machine/Tasks.lean ====
section
/-! DEFINITION. What happens to tasks and engines between their words: blocks beginning, tokens completing, holds ending, the
end of a task and of a matrix binding, stops, trap delivery, and the windows of issue and of the governor (spec 01 R20–R31,
04 R141–R156, 06 R227–R231, 07 R252, 12 R322–R325). -/
namespace Sys2Proof.Machine

/-! ## When a task's engines may go on -/

/-- The task at `k` is bound, its context runs, its halt line is down, and its die is online. -/
def State.mayRun (s : State) (k : Nat) : Bool :=
  let c := s.ctx (s.task k).ctx
  s.bound k && c.st == .running && !c.halt && s.dieUp (slotDie k)

/-- An event that has its effect only where its condition holds. -/
def whenOk (b : Bool) (s t : State) : Out := .next (if b then t else s)

/-! ## Blocks and tokens -/

/-- The engine code of a name. -/
def engCode (e : Engine) : Nat := match e with | .control => 0 | .vector => 1 | .matrix => 2 | .transfer => 3

/-- 04 R141. -/
def execEngineBlockBegin (slot : Nat) (eng : Engine) (s : State) : Out :=
  whenOk (s.mayRun slot && eng != .control) s (s.beginBlock slot (engCode eng))

/-- 01 R26. Nothing happens unless the production is the oldest of its token and everything of it is done. -/
def execTokenComplete (slot : Nat) (tk : BitVec 6) (gen : BitVec 16) (s : State) : Out :=
  let g : Gen := ⟨tk.toNat, gen⟩
  whenOk (s.bound slot && (s.task slot).prods.any fun p => p.gen == g) s (s.settle slot)

/-! ## Holds that end -/

/-- Every generation the TWAITs of the task's last bundle captured has completed. -/
def Task.twaitDone (t : Task) : Bool :=
  t.genDone ⟨t.hold.a, t.hold.v.setWidth 16⟩ && t.waits.all t.genDone

/-- The hold is over. -/
def Task.unhold (t : Task) : Task := { t with hold := Hold.init, waits := [] }

/-- 04 R148. -/
def execTwaitRelease (slot : Nat) (s : State) : Out :=
  let t := s.task slot
  whenOk (s.bound slot && t.hold.kind == .twait && t.twaitDone) s (s.setTask slot t.unhold)

/-- 01 R39. The bundle that was held issues at the slot's next turn. -/
def execWaitdepRelease (slot : Nat) (s : State) : Out :=
  let t := s.task slot
  whenOk (s.bound slot && t.hold.kind == .waitdep && s.producersDone t.lnum) s (s.setTask slot t.unhold)

/-- What an agent's stream is held in. -/
def State.holdOf (s : State) (a : Agent) : Hold :=
  match a with
  | .scalar k => (s.task k).hold
  | .vector k => ((s.task k).vec.cur.map (·.hold)).getD Hold.init
  | .matrix k => ((s.task k).mat.cur.map (·.hold)).getD Hold.init
  | .transfer k => ((s.task k).xfer.cur.map (·.hold)).getD Hold.init
  | _ => Hold.init

/-- The note of a wait removed; the wait is evaluated afresh when the stream next runs (12 R322). -/
def State.clearHold (s : State) (a : Agent) : State :=
  let note := fun (e : Eng) => { e with cur := e.cur.map fun r => { r with hold := Hold.init } }
  match a with
  | .scalar k => s.setTask k (s.task k).unhold
  | .vector k => s.setTask k { s.task k with vec := note (s.task k).vec }
  | .matrix k => s.setTask k { s.task k with mat := note (s.task k).mat }
  | .transfer k => s.setTask k { s.task k with xfer := note (s.task k).xfer }
  | _ => s

/-- The barrier that a TXWAIT's reference names has left the reference's phase. -/
def State.phaseLeft (s : State) (slot : Nat) (ref : Word) : Bool :=
  match storeOf (slotPair slot) (barrierAddr ref) with
  | some (p, off) => (s.barrierAt p off).left (ref.getLsbD 0)
  | none => false

/-- 07 R252. The TXWAIT returns at its stream's next turn. -/
def execTxwaitRelease (a : Agent) (s : State) : Out :=
  let h := s.holdOf a
  whenOk (h.kind == .txwait && s.phaseLeft ((agentSlot a).getD 0) h.v) s (s.clearHold a)

/-- A hold whose end is the stream's own work or another's, evaluated afresh when the stream next runs. -/
def Hold.mayClear (h : Hold) : Bool :=
  match h.kind with
  | .none => false
  | .twait => false
  | .bar => false
  | .exit => false
  | _ => true

/-- 01 R21. -/
def execStallResume (a : Agent) (s : State) : Out := whenOk (s.holdOf a).mayClear s (s.clearHold a)

/-! ## TRIG and the end of a task (01 R39, 04 R154, R156, 10 R317) -/

/-- A launch gains a triggered task. -/
def State.countTrig (s : State) (lnum : Nat) : State :=
  match tfind s.launches lnum with
  | none => s
  | some l => { s with launches := tput s.launches lnum { l with trigged := l.trigged + 1 } }

/-- An engine holds no block with a serial number below `n`. -/
def Eng.pastSerial (e : Eng) (n : Nat) : Bool :=
  e.queue.all (fun b => decide (n ≤ b.serial)) && (match e.cur with | none => true | some r => decide (n ≤ r.blk.serial))

/-- What was in flight before the serial number `n` was reached. -/
def Owed.before (o : Owed) (slot n : Nat) : Bool :=
  o.slot == slot && (match o.serial with | some k => decide (k < n) | none => decide (o.stamp < n))

/-- Everything the task issued before its TRIG has completed; blocks set aside have, once the handler has issued EXIT (10 R317). Of
the side log, entries of accesses made before the TRIG hold its signal back, and no later ones (log 95, DESIGN CHOICE). -/
def State.trigReady (s : State) (k : Nat) : Bool :=
  let t := s.task k
  t.vec.pastSerial t.trigAt && t.mat.pastSerial t.trigAt && t.xfer.pastSerial t.trigAt
    && (t.hold.kind == .exit || t.aside.all fun a => a.vec.pastSerial t.trigAt && a.mat.pastSerial t.trigAt && a.xfer.pastSerial t.trigAt)
    && !s.owedList.any fun o => o.before k t.trigAt

/-- The signal of a TRIG. -/
def State.sendTrig (s : State) (k : Nat) : State :=
  let t := s.task k
  (s.setTask k { t with trig := true, trigPend := false }).countTrig t.lnum

/-- 04 R154. -/
def execTrigSignal (slot : Nat) (s : State) : Out :=
  whenOk (s.bound slot && (s.task slot).trigPend && s.trigReady slot) s (s.sendTrig slot)

/-- The matrix engine of a floor slot's core is bound to its task. -/
def State.holdsMatrix (s : State) (k : Nat) : Bool := !slotLoft k && (s.mat (slotPair k)).bound == some k

/-- The pair's owner has no task left on it (08 R278). -/
def State.ownerGone (s : State) (p : Nat) : Bool :=
  match (s.pair p).owner with
  | none => false
  | some c => !(pairSlots p).any fun k => s.bound k && (s.task k).ctx == c

/-- Ownership of a pair ends when its owner has no task bound there; what any store queue holds is performed first. -/
def State.settleOwner (s : State) (p : Nat) : State :=
  if s.ownerGone p then
    let s := s.performWhere fun _ => true
    s.setPair p { s.pair p with owner := none }
  else s

/-- Firmware admits a context to a pair's local store, or no longer does (08 R278). -/
def State.admitGuest (s : State) (p c : Nat) (on : Bool) : State :=
  let x := s.pair p
  let bit := BitVec.ofNat 128 (2 ^ c)
  s.setPair p { x with guests := if on then x.guests ||| bit else x.guests &&& ~~~bit }

/-- A task leaves its slot: what its store queues hold is performed; the matrix binding begins to end, poisoned registers and ownership go with it. -/
def State.unbindTask (s : State) (k : Nat) : State :=
  let s := s.performWhere fun q => q.owed.slot == k
  let s := if s.holdsMatrix k then
      s.setMat (slotPair k) { s.mat (slotPair k) with bound := none, ending := true } else s
  let s := { s with tasks := terase s.tasks k, regPoison := s.regPoison.filter fun e => e.1 != k,
                    heldSince := s.heldSince.filter fun e => agentSlot e.1 != some k }
  s.settleOwner (slotPair k)

/-- The task's work is done: in its handler, what was set aside counts as completed (10 R317). -/
def State.exitReady (s : State) (k : Nat) : Bool :=
  let t := s.task k
  t.enginesIdle && !t.trigPend && t.raised.isEmpty && t.later.isEmpty && t.wbusy == 0 && !s.owedList.any fun o => o.slot == k

/-- EXIT retires, with its accesses made visible as by a release at `.sys` (15 R397). -/
def State.retire (s : State) (k : Nat) : State :=
  let t := s.task k
  let s := s.releaseLines k (slotPair k) 7
  let s := if t.trig then s else s.countTrig t.lnum
  let s := match tfind s.launches t.lnum with
    | none => s
    | some l => { s with launches := tput s.launches t.lnum { l with exited := l.exited + 1 } }
  s.unbindTask k

/-- 04 R156. -/
def execExitRetire (slot : Nat) (s : State) : Out :=
  whenOk (s.mayRun slot && (s.task slot).hold.kind == .exit && s.exitReady slot) s (s.retire slot)

/-! ## What a resume reserves (12 R336) -/

/-- The context for which a resume in progress reserves a slot, a pair's ownership, or a matrix engine. -/
def State.reserver (s : State) (holds : Ctx → Bool) : Option Nat :=
  (s.ctxs.find? fun e => e.2.stage == .resuming && holds e.2).map (·.1)

def State.slotReserved (s : State) (k : Nat) : Option Nat := s.reserver fun x => x.tasks.any fun t => t.slot == k

def State.pairReserved (s : State) (p : Nat) : Option Nat :=
  s.reserver fun x => x.saved.any fun v => v.owned && v.pair == p

def State.matrixReserved (s : State) (p : Nat) : Option Nat :=
  s.reserver fun x => x.tasks.any fun t => t.mat.isSome && slotPair t.slot == p

/-! ## Matrix bindings (01 R29, R30) -/

/-- The matrix engine goes to a task that asks for it, when it is unbound and not reserved for another context. -/
def State.askMatrix (s : State) (k : Nat) : State :=
  let p := slotPair k
  let m := s.mat p
  let reserved := match s.matrixReserved p with | none => false | some c => c != (s.task k).ctx
  if !slotLoft k && (s.task k).wantsMat && m.bound.isNone && !m.ending && !m.clearing && !reserved then
    s.setMat p { m with bound := some k }
  else s

/-- 01 R30. Clearing takes 64 cycles, to its own event. -/
def execMatrixBindingEnd (pair : Nat) (s : State) : Out :=
  let m := s.mat pair
  whenOk m.ending s (s.setMat pair { m with
    ending := false, clearing := true, acc := [], act := none, shadow := none, latched := none, parked := none,
    reload := false })

/-- The slot of a pair's floor core whose task waits for the matrix engine. -/
def State.matrixNextSlot (s : State) (p : Nat) : Option Nat :=
  (pairSlots p).find? fun k => !slotLoft k && s.bound k && (s.task k).wantsMat
    && (match s.matrixReserved p with | none => true | some c => (s.task k).ctx == c)

/-- 01 R30, R31. -/
def execAccClearEnd (pair : Nat) (s : State) : Out :=
  let m := s.mat pair
  whenOk m.clearing s (s.setMat pair { m with clearing := false, bound := s.matrixNextSlot pair })

/-! ## PHASE (04 R152, R153) -/

/-- Memory without the bytes of [lo, hi). -/
def State.dropBytes (s : State) (lo hi : Nat) : State :=
  { s with mem := s.mem.filter fun e => !(decide (lo ≤ e.1) && decide (e.1 < hi)) }

/-- Every line of a pair's cache goes back to its home. -/
def State.writeBackAll (s : State) (p : Nat) : State :=
  (s.pair p).cache.foldl (fun s e => s.writeBack p e.1) s

/-- Local-store bytes [lo, hi) of a pair read as zero, full and not poisoned. -/
def State.zeroStore (s : State) (p lo hi : Nat) : State :=
  let s := s.dropBytes (keyLs p lo) (keyLs p hi)
  let s := { s with poison := s.poison.filter fun e =>
    !(decide (keyLs p lo / 128 ≤ e.1) && decide (e.1 * 128 < keyLs p hi)) }
  let x := s.pair p
  s.setPair p { x with empty := x.empty.filter fun e => !(decide (lo / 128 ≤ e.1) && decide (e.1 * 128 < hi)) }

/-- The move ends: the region it moved is cleared, and a cache that shrinks has gone back to its homes. -/
def State.endMove (s : State) (p : Nat) : State :=
  let r := s.movingRegion p
  let s := if (s.pair p).tgt < (s.pair p).cmib then s.writeBackAll p else s
  let s := s.zeroStore p r.1 r.2
  s.setPair p { s.pair p with cmib := (s.pair p).tgt, mov := false }

/-- Cycles a move takes. -/
def Pair.moveCycles (x : Pair) : Nat := 2048 * (max x.cmib x.tgt - min x.cmib x.tgt)

/-- 04 R152. -/
def execPhaseMoveEnd (pair : Nat) (s : State) : Out :=
  let x := s.pair pair
  let due := decide (x.moveCycles ≤ ((s.die (pairDie pair)).cycle - x.movStart).toNat)
  whenOk (x.mov && due) s (s.endMove pair)

/-! ## Windows (01 R20, 06 R230) -/

/-- 01 R20. A window has begun when `CYCLE` has passed a multiple of 64. -/
def execFwshareWindow (core : Nat) (s : State) : Out :=
  let now := (s.die (coreDie core)).cycle.toNat / 64
  whenOk ((s.core core).fwWindow != now) s (s.setCore core { s.core core with fwCount := 0, fwWindow := now })

/-- `E` one window nearer the budget (06 R230). -/
def towardBudget (e budget step : Nat) : Nat :=
  if e < budget then min budget (e + step) else max budget (e - step)

/-- A window of the governor: the budget moves, and the beats due since the last window are issued up to the ceiling, those
refused counted as stalls, and the floor made up with filler. -/
def Matrix.window (m : Matrix) : Matrix :=
  let e := towardBudget m.eff m.budget m.step
  let ceiling := min e (m.prev + m.step)
  let floor := m.prev - m.step
  let real := min m.beats ceiling
  { m with eff := e, prev := max real floor, beats := m.beats - real,
           stalls := (m.stalls + (if ceiling < m.beats then 32 - min 32 ceiling else 0)) % 2 ^ 64 }

/-- 06 R230. A window of 32 cycles has begun since the last that the governor saw. -/
def execGovernorWindow (pair : Nat) (s : State) : Out :=
  let m := s.mat pair
  whenOk (decide (m.win < (s.die (pairDie pair)).cycle.toNat / 32)) s
    (s.setMat pair { m.window with win := m.win + 1 })

/-! ## Stops and delivery (12 R322–R325, 06 R227) -/

/-- WHY of the records of a halt: the context's traps, or a forced pre-emption (06 R228). -/
def State.haltWhy (s : State) (k : Nat) : Nat :=
  if (s.ctx (s.task k).ctx).stage = .halting then 2 else stopWhy (s.task k).raised

/-- An engine stops and its record is written; the matrix engine stops between words. -/
def State.stopEngine (s : State) (k eng : Nat) : State :=
  let t := s.task k
  let s := if eng = 2 then s.setTask k { t with stopped := true } else s
  s.writeRecord k eng (s.haltWhy k)

/-- 12 R322. -/
def execEngineStop (slot : Nat) (eng : Engine) (s : State) : Out :=
  whenOk (s.bound slot && (s.ctx (s.task slot).ctx).halt) s (s.stopEngine slot (engCode eng))

/-- The slot whose matrix engine on a pair has not stopped for a halt line. -/
def State.skidding (s : State) (p : Nat) : Option Nat :=
  (pairSlots p).find? fun k => !slotLoft k && s.bound k && (s.ctx (s.task k).ctx).halt && (s.task k).matrixBusy

/-- The rows of the word in progress that were begun before the skid ended take their effect, and the engine stops; where they
raise a trap, the trap has stopped it. -/
def State.endSkid (s : State) (k rows : Nat) : State :=
  match s.matrixInstr k, (s.task k).mat.cur with
  | some i, some r =>
    (match partialWord i rows (s.beginTurn (.matrix k) r.pc r.pc) with
    | .next t =>
      let ended := (t.task k).mat.cur.any fun q => q.pre.isNone && !q.split && t.turn.stop == .none && isRowWord i
      let t := if ended then t.matrixAdvance else t
      match t.turn.stop with
      | .trapped _ _ => t
      | _ => t.stopEngine k 2
    | _ => s)
  | _, _ => s.stopEngine k 2
where
  /-- The words that stream rows. -/
  isRowWord (i : Instr) : Bool :=
    match i with
    | .astep _ => true
    | .astepa _ => true
    | .aadd _ => true
    | .ascl _ => true
    | .ard _ => true
    | _ => false

/-- 06 R227. -/
def execMatrixHaltSkidEnd (pair rows : Nat) (s : State) : Out :=
  .next (match s.skidding pair with | none => s | some k => s.endSkid k rows)

/-- 12 R325. -/
def execTrapDelivery (ctx : Nat) (s : State) : Out :=
  whenOk (s.quiet ctx && (s.ctx ctx).st == .running && (s.ctxSlots ctx).any fun k => !(s.task k).raised.isEmpty) s
    (s.deliver ctx)

/-! ## Firmware contexts (07 R271, 12 R328) -/

/-- 07 R271. A die without a loft layer has no loft core (00 R2). -/
def execFirmwareContextRestart (core : Nat) (pc : Word) (s : State) : Out :=
  let f := s.fw core
  whenOk (f.halted && (!coreLoft core || (s.die (coreDie core)).loft)) s (s.setFw core { f with halted := false, hart := { f.hart with pc := pc } })

end Sys2Proof.Machine
end

