-- ==== Sys2Proof/Machine/Preempt.lean ====
section
/-! DEFINITION. Pre-emption and resume: what a request is checked for, arming, saving and freeing, the log of an absent context,
the merge, the cooperative kind, and the closing of a stairwell (spec 12 R330–R344, 14 R357–R359, 07 R273). -/
namespace Sys2Proof.Machine

/-! ## Requests (12 R332) -/

/-- Pairs on which the context owns local store. -/
def State.ownedPairs (s : State) (c : Nat) : List Nat :=
  (s.pairs.filter fun e => e.2.owner == some c).map (·.1)

/-- The context owns a stairwell of the pair that holds entries (05 R198, 07 R273). -/
def State.holdsStairs (s : State) (c p : Nat) : Bool := (s.pair p).stairOwner == some c && !(s.pair p).fifosEmpty

/-- Those, the pairs on which it has a bound task, and those whose stairwell holds entries of it, in increasing order (log 91). -/
def State.contextPairs (s : State) (c : Nat) : List Nat :=
  let o := s.ownedPairs c
  (List.range 128).filter fun p => o.contains p || (s.ctxSlots c).any (fun k => slotPair k == p) || s.holdsStairs c p

/-- Cellar sections that contexts use. -/
def State.sectionsInUse (s : State) : List Nat :=
  s.ctxs.flatMap fun c => c.2.sections.map (·.2) ++ c.2.saved.map (·.section_)

/-- The lowest-addressed free section of a die's pool that is not in `taken`. -/
def State.freeSection (s : State) (d : Nat) (taken : List Nat) : Option Nat :=
  let free := (s.cellar.filter fun e => e.1 == d).map (fun e => keyLpddr e.1 e.2) |>.filter fun k => !taken.contains k
  match free with
  | [] => none
  | x :: t => some (t.foldl min x)

/-- A section for a pair: its own die's, or that of the first online die after it. -/
def State.sectionFor (s : State) (p : Nat) (taken : List Nat) : Option Nat :=
  ((List.range 8).filterMap fun i =>
    let d := (pairDie p + i) % 8
    if s.dieOpen d then s.freeSection d taken else none).head?

/-- A section for each pair, or none when the pool cannot supply them. -/
def State.sectionsFor (s : State) (ps : List Nat) (taken : List Nat) : Option (List (Nat × Nat)) :=
  match ps with
  | [] => some []
  | p :: t =>
    match s.sectionFor p taken with
    | none => none
    | some x => (s.sectionsFor t (x :: taken)).map fun l => (p, x) :: l

/-- Diversion entries a pair can hold. -/
def diversionSize : Nat := 8

/-- The sections a forced pre-emption of the context would take; none where it is refused. -/
def State.forceSections (s : State) (c : Nat) : Option (List (Nat × Nat)) :=
  let x := s.ctx c
  if x.st != .running || x.stage != .none then none
  else if (s.ownedPairs c).any fun p => decide (diversionSize ≤ (s.pair p).diversions.length) then none
  else s.sectionsFor (s.contextPairs c) s.sectionsInUse

/-- The request is accepted: the halt line rises. -/
def State.acceptForce (s : State) (c gang : Nat) (l : List (Nat × Nat)) : State :=
  s.setCtx c { s.ctx c with sections := l, halt := true, stage := .halting, gang := gang }

/-! ## Live masks (12 R333, 14 R357–R359) -/

/-- The mask that governs a forced save of a task. -/
def State.maskOf (s : State) (t : Task) : Option LiveMask :=
  let pc := t.hart.pc.toNat
  (tfind s.codes t.code).bind fun c =>
    (c.safe.find? fun e => e.force && decide (e.start ≤ pc) && decide (pc < e.stop)).bind fun e => c.masks[e.mask]?

/-- The entries of a table that a mask names. -/
def keepBits {α : Type} (n : Nat) (live : BitVec n) (t : Tbl α) : Tbl α := t.filter fun e => live.getLsbD e.1

/-- The vector registers of the banks that a task has lent, which are saved whatever its mask (14 R358). -/
def Task.lentRegs (t : Task) : BitVec 32 :=
  let bank := fun (b : Option Nat) => match b with | none => (0 : BitVec 32) | some b => (255 : BitVec 32) <<< (8 * b)
  bank t.lentSrc ||| bank t.lentTgt

/-- A task with what its mask leaves out at zero. -/
def LiveMask.apply (m : LiveMask) (t : Task) : Task :=
  { t with
    hart := { t.hart with rf := { t.hart.rf with vals := keepBits 32 m.s t.hart.rf.vals }, p := keepBits 12 m.p t.hart.p },
    v := keepBits 32 (m.v ||| t.lentRegs) t.v,
    xrf := { t.xrf with vals := keepBits 32 m.x t.xrf.vals } }

/-- An uncorrectable register of the file that a mask names. -/
def LiveMask.marks (m : LiveMask) (t : Task) (e : Nat × Nat) : Bool :=
  match e.1 with
  | 0 => m.s.getLsbD e.2
  | 1 => m.p.getLsbD e.2
  | 2 => (m.v ||| t.lentRegs).getLsbD e.2
  | _ => m.x.getLsbD e.2

/-- The uncorrectable registers of the task at a slot (12 R346, R347). -/
def State.badRegs (s : State) (k : Nat) : List (Nat × Nat) := (s.regPoison.filter fun e => e.1 == k).map (·.2)

/-- The accumulator rows a mask names. -/
def LiveMask.rows (m : LiveMask) (x : Matrix) : Matrix :=
  { x with acc := x.acc.filter fun e => decide (m.accLo ≤ e.1) && decide (e.1 < m.accLo + m.accN) }

/-- A local-store offset is saved for the context's tasks on a pair: every one of their masks counts. -/
def State.storeLive (s : State) (c p off : Nat) : Bool :=
  let ms := ((s.ctxSlots c).filter fun k => slotPair k == p).map fun k => s.maskOf (s.task k)
  ms.isEmpty || ms.any fun m => match m with
    | none => true
    | some m => m.ls.any fun r => decide (r.1 ≤ off) && decide (off < r.1 + r.2)

/-! ## Arming and saving (12 R332–R334) -/

/-- The bytes of a pair's store that are saved, by offset. -/
def State.storeImage (s : State) (c p : Nat) : Tbl Byte :=
  let lo := keyLs p 0
  s.mem.filterMap fun e =>
    if lo ≤ e.1 ∧ e.1 < lo + 2 ^ 25 ∧ s.storeLive c p (e.1 - lo) then some (e.1 - lo, e.2) else none

/-- A per-line map of a pair's store, by line. -/
def State.savedLines (s : State) (c p : Nat) (l : Tbl Bool) : Tbl Bool := l.filter fun e => s.storeLive c p (e.1 * 128)

/-- The poison marks of the 2^18 lines from key `base` on, by line. -/
def State.linePoison (s : State) (base : Nat) : Tbl Bool :=
  let lo := base / 128
  s.poison.filterMap fun e => if lo ≤ e.1 ∧ e.1 < lo + 2 ^ 18 then some (e.1 - lo, e.2) else none

/-- Bytes written from a key on as a table lists them; the rest of [base, base+2^25) reads as unwritten. -/
def State.placeBytes (s : State) (base : Nat) (t : Tbl Byte) : State :=
  t.foldl (fun s e => s.putByte (base + e.1) e.2) (s.dropBytes base (base + 2 ^ 25))

/-- Poison marks from a key on as a table lists them, and no others in the same 2^18 lines. -/
def State.placePoison (s : State) (base : Nat) (t : Tbl Bool) : State :=
  let lo := base / 128
  let others := s.poison.filter fun e => !(decide (lo ≤ e.1) && decide (e.1 < lo + 2 ^ 18))
  { s with poison := t.foldl (fun p e => tset false p (lo + e.1) e.2) others }

/-- The side-log entries of a context on the cores of a pair. -/
def State.logsOn (s : State) (c p : Nat) : List SideEnt :=
  ((s.core (2 * p)).sidelog ++ (s.core (2 * p + 1)).sidelog).filter fun e => e.ctx == c

/-- One pair's section as arming makes it: the store's image where the context owns it, and the stairwell's entries. -/
def State.makeSection (s : State) (c : Nat) (e : Nat × Nat) : Saved :=
  let p := e.1
  let x := s.pair p
  let owned := x.owner == some c
  let stairs := x.stairOwner == some c
  { pair := p, section_ := e.2, owned := owned, epoch := x.epoch,
    empty := if owned then s.savedLines c p x.empty else [],
    stairUp := if stairs then x.up else [], stairDown := if stairs then x.down else [],
    log := [], bars := [], sb := if owned then x.sb else [], faults := [] }

/-- The core's log without a context's entries. -/
def State.dropLogs (s : State) (c core : Nat) : State :=
  s.setCore core { s.core core with sidelog := (s.core core).sidelog.filter fun e => e.ctx != c }

/-- One pair armed and saved. -/
def State.armPair (s : State) (c : Nat) (e : Nat × Nat) : State :=
  let p := e.1
  let s := s.writeBackAll p
  let v := s.makeSection c e
  let l := s.logsOn c p
  let x := s.pair p
  let x := { x with
    diversions := if v.owned then x.diversions ++ [⟨v.epoch, c, e.2⟩] else x.diversions,
    sb := if v.owned then [] else x.sb,
    up := if x.stairOwner == some c then [] else x.up,
    down := if x.stairOwner == some c then [] else x.down }
  let s := if v.owned then
      let img := s.storeImage c p
      let bad := s.savedLines c p (s.linePoison (keyLs p 0))
      (s.placeBytes e.2 img).placePoison e.2 bad
    else s
  let s := ((s.setPair p x).dropLogs c (2 * p)).dropLogs c (2 * p + 1)
  s.setCtx c { s.ctx c with saved := (s.ctx c).saved ++ [v], moved := (s.ctx c).moved ++ l }

/-- 12 R332, stages 2 and 3, once every engine has stopped, every trap raised has been delivered and no PHASE move is in
progress. What the store queues hold is performed before the images are made. -/
def execPreemptArm (ctx : Nat) (s : State) : Out :=
  let x := s.ctx ctx
  let ks := s.ctxSlots ctx
  let ready := x.stage == .halting && s.quiet ctx && ks.all (fun k => (s.task k).raised.isEmpty) && x.sections.all fun e => !(s.pair e.1).mov
  whenOk ready s
    (let s := s.performWhere fun _ => true
    let s := ks.foldl (fun s k => (s.setTask k (s.task k).land).writeStop k 2) s
    let s := x.sections.foldl (fun s e => s.armPair ctx e) s
    s.setCtx ctx { s.ctx ctx with stage := .armed, sections := [] })

/-- The epoch after `e` that no diversion entry holds (12 R331). -/
def nextEpoch (held : List (BitVec 16)) (fuel : Nat) (e : BitVec 16) : BitVec 16 :=
  match fuel with
  | 0 => e + 1
  | n + 1 => if held.contains (e + 1) then nextEpoch held n (e + 1) else e + 1

/-- A task as its section holds it. -/
def State.imageOf (s : State) (k : Nat) : SavedTask :=
  let t := s.task k
  let m := s.maskOf t
  let t' := { t with stopped := false }
  ⟨k, match m with | none => t' | some m => m.apply t',
    if s.holdsMatrix k then some (match m with | none => s.mat (slotPair k) | some m => m.rows (s.mat (slotPair k))) else none,
    match m with | none => s.badRegs k | some m => (s.badRegs k).filter (m.marks t)⟩

/-- 12 R332, stage 4. -/
def execPreemptFree (ctx : Nat) (s : State) : Out :=
  let x := s.ctx ctx
  whenOk (x.stage == .armed) s
    (let ks := s.ctxSlots ctx
    let imgs := ks.map s.imageOf
    let owned := s.ownedPairs ctx
    let s := ks.foldl (fun s k => s.unbindTask k) s
    let s := owned.foldl (fun s p =>
      let x := s.pair p
      s.setPair p { x with owner := none, epoch := nextEpoch (x.diversions.map (·.epoch)) diversionSize x.epoch }) s
    let s := s.setCtx ctx { s.ctx ctx with st := .preempted, stage := .none, tasks := imgs }
    s.tellCtx ctx evPreempted (ctx :: (s.ctx ctx).saved.flatMap fun v => [v.pair, v.section_ / 2 ^ 36, v.section_ % 2 ^ 36]))

/-! ## While the context is absent (12 R337) -/

/-- 12 R337. The oldest entry of a log is folded into the image. -/
def execDiversionFold (pair ctx : Nat) (s : State) : Out :=
  .next (match s.section ctx pair with
    | none => s
    | some v =>
      match v.log with
      | [] => s
      | e :: t => (s.putNibs (v.section_ + e.line) e.bytes).setSection ctx { v with log := t })

/-! ## Resume (12 R335, R336, R344) -/

/-- A die that holds one of a context's sections is lost. -/
def State.sectionsLost (s : State) (c : Nat) : Bool :=
  (s.ctx c).saved.any fun v => (s.die (v.section_ / 2 ^ 36)).st == .lost

/-- A resume request is accepted only for a context that is forcibly pre-empted, with its sections. -/
def State.mayResume (s : State) (c : Nat) : Bool :=
  (s.ctx c).st == .preempted && (s.ctx c).stage == .none && !s.sectionsLost c

/-- A pair no longer holds a resume back. -/
def State.resumeFree (s : State) (c p : Nat) : Bool :=
  let x := s.ctx c
  let m := s.mat p
  (x.saved.all fun v => !(v.owned && v.pair == p) || (s.pair p).owner.isNone)
    && x.tasks.all fun t => slotPair t.slot != p
        || (!s.bound t.slot && (t.mat.isNone || (m.bound.isNone && !m.ending && !m.clearing)))

/-- Pairs that a resume waits for. -/
def State.resumePairs (s : State) (c : Nat) : List Nat :=
  (s.ctx c).saved.map (·.pair)

/-- The bytes listed in [base, base+2^25), by offset. -/
def State.listedBytes (s : State) (base : Nat) : Tbl Byte :=
  s.mem.filterMap fun e => if base ≤ e.1 ∧ e.1 < base + 2 ^ 25 then some (e.1 - base, e.2) else none

/-- Saved stairwell entries go back into the stairwell that the context still owns; where it was closed since, or is another's,
they wait until the context enables it (05 R198, 10 R318, log 91). -/
def State.mergeStairs (s : State) (c : Nat) (v : Saved) : State :=
  let x := s.pair v.pair
  if x.stairOwner == some c then s.setPair v.pair { x with up := v.stairUp ++ x.up, down := v.stairDown ++ x.down }
  else if v.stairUp.isEmpty && v.stairDown.isEmpty then s
  else s.setCtx c { s.ctx c with stairs := tput (s.ctx c).stairs v.pair (v.stairUp, v.stairDown) }

/-- Merge steps 1 to 4 on one pair, with the entries of step 5's scoreboard. What other tasks wrote through the pair's cache goes
to its homes. -/
def State.mergePair (s : State) (c : Nat) (v : Saved) : State :=
  let p := v.pair
  let s := if v.owned then s.writeBackAll p else s
  let x := s.pair p
  let x := if v.owned then
      { x with owner := some c, epoch := v.epoch, empty := v.empty, sb := v.sb, cache := [],
               diversions := x.diversions.filter fun d => !(d.ctx == c && d.epoch == v.epoch) }
    else x
  let s := (s.setPair p x).mergeStairs c v
  if v.owned then
    let s := s.applyLog v 0 (2 ^ 25)
    let s := (s.placeBytes (keyLs p 0) (s.listedBytes v.section_)).placePoison (keyLs p 0) (s.linePoison v.section_)
    v.bars.foldl (fun s e => s.putBytes (keyLs p e.1) (bytesOf 16 e.2.toNat)) s
  else s

/-- A saved task as its RESUME record at an entry binds it: the record's MATRIX asks for the engine too (15 R409). -/
def State.asksAgain (s : State) (k : Nat) (t : Task) : Task :=
  { t with wantsMat := t.wantsMat || (tfind s.slotRecs k).any (·.matrix) }

/-- Merge steps 5 and 6 for one task: bound at its entry, its matrix engine bound to it with its weights to be reloaded. -/
def State.rebind (s : State) (x : SavedTask) : State :=
  let h := x.task.hold
  let keep := h.kind == .twait || h.kind == .bar || h.kind == .exit
  let s := s.setTask x.slot (s.asksAgain x.slot (if keep then x.task else x.task.unhold))
  let s := { s with slotRecs := terase s.slotRecs x.slot, regPoison := s.regPoison ++ x.bad.map fun e => (x.slot, e) }
  match x.mat with
  | none => s.askMatrix x.slot
  | some m =>
    let p := slotPair x.slot
    s.setMat p { s.mat p with
      bound := some x.slot, acc := m.acc, act := m.act, shadow := m.shadow, latched := m.latched, parked := m.parked,
      reload := m.latched.isSome }

/-- The first of a resumed context's faults that makes its resume end in a fatal halt. -/
def fatalFault (l : List Saved) : Option DefFault :=
  match (l.flatMap (·.faults)).find? fun f => causeFatal f.cause with
  | some f => some f
  | none => (l.find? fun v => decide (faultListSize < v.faults.length)).bind fun v => v.faults.getLast?

/-- Merge step 7 where it ends the context (12 R343). -/
def State.resumeFatal (s : State) (c : Nat) (f : DefFault) (all : List DefFault) : State :=
  let s := all.foldl (fun s f => s.tellCtx f.ctx evDeferredFault [f.ctx, f.slot, f.cause, f.addr.toNat]) s
  s.fatalHalt c f.slot ⟨f.eng, cDeferred, f.cause, f.addr, (s.task f.slot).hart.pc⟩

/-- Steps 7 and 8: faults made pending, the halt released, and the first of each task delivered. -/
def State.resumeEnd (s : State) (c : Nat) (faults : List DefFault) : State :=
  let s := faults.foldl (fun s f =>
    if s.bound f.slot && (s.task f.slot).ctx == c && (s.task f.slot).lnum == f.lnum then
      s.setTask f.slot { s.task f.slot with deferred := (s.task f.slot).deferred ++ [f] }
    else s.tellCtx f.ctx evDeferredFault [f.ctx, f.slot, f.cause, f.addr.toNat]) s
  let s := s.setCtx c { s.ctx c with st := .running, halt := false }
  let s := s.tellCtx c evResumed [c]
  (s.ctxSlots c).foldl (fun s k => s.nextDeferred k) s

/-- Each saved task has a valid RESUME record at its own entry (12 R335, R336, 15 R409). -/
def State.resumeRecords (s : State) (c : Nat) : Bool :=
  (s.ctx c).tasks.all fun t => match tfind s.slotRecs t.slot with
    | none => false
    | some r => r.valid && r.resume && r.ctx == c && r.lnum == t.task.lnum && r.task == t.task.idx

/-- 12 R336, R344. A pair that still holds the resume back is named in a management event. -/
def execResumeBind (ctx : Nat) (s : State) : Out :=
  let x := s.ctx ctx
  .next
    (if x.stage != .resuming then s
    else
      match (s.resumePairs ctx).filter fun p => !s.resumeFree ctx p with
      | p :: t => (p :: t).foldl (fun s p => s.tellMgmt evResumed [pairDie p, ctx, p]) s
      | [] =>
        if !s.resumeRecords ctx then s
        else
        let s := x.saved.foldl (fun s v => s.mergePair ctx v) s
        let s := x.tasks.foldl (fun s t => s.rebind t) s
        let s := s.setCtx ctx { s.ctx ctx with saved := [], tasks := [], stage := .none }
        let faults := x.saved.flatMap (·.faults)
        match fatalFault x.saved with
        | some f => s.resumeFatal ctx f faults
        | none => s.resumeEnd ctx faults)

/-! ## The cooperative kind (12 R330) -/

/-- The mask of the cooperative safe point at which a task holds, with every production complete. -/
def State.coopMask (s : State) (t : Task) : Option LiveMask :=
  let pc := t.hart.pc.toNat
  if t.hold.kind != .waitdep || !t.prods.isEmpty then none
  else (tfind s.codes t.code).bind fun c =>
    (c.safe.find? fun e => e.coop && decide (e.start ≤ pc) && decide (pc < e.stop)).bind fun e => c.masks[e.mask]?

/-- What a cooperative save keeps of a task: live scalar and predicate registers, TVEC, FCSR and SCBCHK. -/
def coopImage (k : Nat) (t : Task) (m : LiveMask) : SavedTask :=
  let h := t.hart
  let keep : Hart := { Hart.init with
    pc := h.pc, tvec := h.tvec, rm := h.rm, flags := h.flags, scb := h.scb,
    rf := { RegFile.init with vals := keepBits 32 m.s h.rf.vals }, p := keepBits 12 m.p h.p }
  ⟨k, { Task.init with
    ctx := t.ctx, lnum := t.lnum, idx := t.idx, code := t.code, banks := t.banks, accr := t.accr, lsb := t.lsb,
    frame := t.frame, wantsMat := t.wantsMat, hart := keep, trig := t.trig, model := t.model, adpt := t.adpt,
    objs := t.objs }, none, []⟩

/-- A queue executes nothing more for a cooperative request: it is saved, or was not running. -/
def Queue.atBoundary (q : Queue) : Bool :=
  match q.st with
  | .running => false
  | .waiting => false
  | _ => true

/-- 12 R330. -/
def execCoopPreemptComplete (ctx : Nat) (s : State) : Out :=
  let x := s.ctx ctx
  let ks := s.ctxSlots ctx
  let queues := s.queues.all fun e => !(e.2.live && e.2.attr.ctx == ctx) || e.2.atBoundary
  whenOk (x.coop && queues && ks.all fun k => (s.coopMask (s.task k)).isSome) s
    (let imgs := ks.filterMap fun k => (s.coopMask (s.task k)).map fun m =>
      let t := s.task k
      { coopImage k t.land m with bad := (s.badRegs k).filter fun e => decide (e.1 < 2) && m.marks t e }
    let s := ks.foldl (fun s k => s.unbindTask k) s
    let s := s.setCtx ctx { s.ctx ctx with st := .saved, coop := false, tasks := imgs }
    s.tellCtx ctx evPreempted [ctx])

/-! ## Closing a stairwell (07 R273) -/

/-- 07 R273, 10 R318. -/
def execStairwellClosed (pair : Nat) (s : State) : Out :=
  let p := s.pair pair
  let loft := (pairSlots pair).filter slotLoft
  whenOk (p.stair == .closing && p.fifosEmpty && loft.all fun k => !s.bound k) s
    (let s := s.setPair pair { p with stair := .closed, stairOwner := none }
    let s := s.setCore (2 * pair) { s.core (2 * pair) with en := false }
    let s := s.setCore (2 * pair + 1) { s.core (2 * pair + 1) with en := false }
    s.tellMgmt evStairwell [pairDie pair, pair, 2])

/-- Nanoseconds of `PTIME` after which an undrained gate asks for a pre-emption. -/
def drainLimit : Nat := 10000

/-- 07 R273. Asked for once for each gate. -/
def execStairwellDrainTimeout (pair : Nat) (s : State) : Out :=
  let p := s.pair pair
  let late := decide (drainLimit ≤ ((s.die (pairDie pair)).ptime - p.gateAt).toNat)
  whenOk (p.stair == .closing && !p.fifosEmpty && late && !p.gateAsked) s
    (let s := s.setPair pair { p with gateAsked := true }
    match p.stairOwner with
    | none => s.tellMgmt evPreemptRefused [pairDie pair, pair]
    | some c =>
      match s.forceSections c with
      | some l => s.acceptForce c 0 l
      | none => s.tellMgmt evPreemptRefused [pairDie pair, pair, c])

end Sys2Proof.Machine
end

