-- ==== Sys2Proof/Machine/Launch.lean ====
section
/-! DEFINITION. Launches: the record and its checks, admission, placement, binding, stealing and completion, and the LAUNCH word
(spec 14 R356, R368, 15 R397–R412, 04 R155, 01 R35–R40, 08 R278, R280). -/
namespace Sys2Proof.Machine

/-! ## The command front end as an agent (15 R388, R396) -/

/-- The front end's number where cores are numbered, beyond them all: it has an extent cache and no local store. -/
def frontCore : Nat := 256

/-- Its number where slots are numbered. -/
def frontSlot : Nat := 512

/-- The front end acting for a context through a window. -/
def frontView (c : Nat) (objs : Tbl ObjDesc) : View := ⟨c, frontSlot, frontCore, 0, objs, 0, 0, false, false, none, true⟩

/-- What its own writes belong to. -/
def frontOwed : Owed := ⟨frontSlot, none, none, 0, 0⟩

/-- Status codes (15 R383). -/
def stOk : Nat := 0
def stExceeds : Nat := 1
def stBusy : Nat := 2
def stNotResident : Nat := 3
def stVersionAbsent : Nat := 4
def stNotMeasured : Nat := 5
def stAdapterRefused : Nat := 6
def stTimeout : Nat := 7
def stBadRecord : Nat := 8
def stTimeUnlocked : Nat := 9

/-- Events of launches that the spec gives no code (log 21). -/
def evStatusLost : Nat := 0x10009
def evBindRefused : Nat := 0x1000A
def evDoneLost : Nat := 0x1000B

/-! ## Windows of a launch (08 R280, 14 R356) -/

/-- No table entry. -/
def noIndex : Nat := 0xFFFF

/-- The window that a handle list loads, with a code object's data object at its handle. -/
def State.loadWindow (s : State) (c : Nat) (handles : List Nat) (code : Option CodeObj) : Tbl ObjDesc :=
  let t := ((List.range handles.length).zip handles).foldl (fun (t : Tbl ObjDesc) e =>
    if e.2 = noIndex then t
    else match s.objRow c e.2 with
      | none => t
      | some r => tput t e.1 { r.desc with idx := e.2 }) []
  match code.bind (·.datah) with
  | none => t
  | some (h, d) => tput t h d

/-! ## The record (15 R398, R399) -/

/-- The first bad field of a record, as its offset. `deps` is the most producers it may name, `size` the scalar section's size
where the code object is loaded. -/
def recordError (b : List Byte) (deps : Nat) (size : Option Nat) : Option Nat :=
  let f := fun off n => fieldAt b off n
  let cls := bits (f 5 1) 1 0
  let outside := fun (a : Nat) => a % 4 != 0 || (match size with | none => false | some n => decide (n ≤ a))
  (([(4, f 4 1 != 1), (5, bits (f 5 1) 7 6 != 0 || decide (deps < bits (f 5 1) 5 3)), (6, bits (f 6 1) 7 2 != 0),
    (7, bits (f 7 1) 7 3 != 0), (12, cls != 2 && f 12 2 != 0), (28, outside (f 28 4)), (32, outside (f 32 8)),
    (58, f 58 6 != 0), (72, f 72 56 != 0)].filter (·.2)).map (·.1)).head?

/-- The record's fields. -/
def recordOf (b : List Byte) : LaunchRec :=
  let f := fun off n => fieldAt b off n
  { cls := bits (f 5 1) 1 0, early := bitOf (f 5 1) 2, depn := bits (f 5 1) 5 3, loft := bitOf (f 6 1) 0,
    loftUse := bitOf (f 6 1) 1, banks := bits (f 7 1) 2 0, n := f 8 4 + 1, g := f 12 2, accr := f 14 2, lsb := f 16 4,
    frame := f 20 4, code := f 24 4, entry := f 28 4, tvec := f 32 8, args := BitVec.ofNat 64 (f 40 8),
    done := BitVec.ofNat 64 (f 64 8) }

/-! ## The launch resource check (14 R368) -/

/-- A die that can ever meet a launch's needs but for its local-store bytes. -/
def State.dieFits (s : State) (d : Nat) (r : LaunchRec) : Bool := !(r.loft || r.loftUse) || (s.die d).loft

/-- A die that can meet every need. -/
def State.dieMeets (s : State) (d : Nat) (r : LaunchRec) : Bool :=
  s.dieFits d r && decide (r.lsb ≤ s.lsBytes (16 * d))

def someDie (f : Nat → Bool) : Bool := (List.range 8).any f

/-- Reason 2: no die that meets every other need has the local-store bytes; where no die meets the others, no die has them. -/
def State.storeTooSmall (s : State) (r : LaunchRec) : Bool :=
  if someDie fun d => s.dieFits d r then !someDie fun d => s.dieMeets d r
  else !someDie fun d => decide (r.lsb ≤ s.lsBytes (16 * d))

/-- Each handle that the code needs is supplied, with its rights and size (14 R354). -/
def State.handlesOk (s : State) (c : Nat) (handles : List Nat) (code : CodeObj) : Bool :=
  code.needs.all fun e => match handles[e.1]? with
    | none => false
    | some i => i != noIndex && match s.objRow c i with
      | none => false
      | some r => (!bitOf e.2.1 0 || r.desc.rd) && (!bitOf e.2.1 1 || r.desc.wr) && decide (e.2.2 ≤ r.desc.size)

/-- The first failing reason of R368. -/
def State.resourceReason (s : State) (c nh : Nat) (r : LaunchRec) (handles : List Nat) : Option Nat :=
  let code := tfind s.codes r.code
  let placement := match r.cls with
    | 2 => r.g == 0 || decide ((if r.loft then 16 else 32) < r.g)
    | 3 => decide ((if r.loft then 128 else 256) < r.n)
    | _ => false
  (([(1, r.loft && !someDie fun d => (s.die d).loft), (2, s.storeTooSmall r),
    (3, decide (1024 < r.accr) || (r.accr != 0 && r.loft)), (4, decide (4 < r.banks)),
    (5, r.loftUse && !someDie fun d => (s.die d).loft), (6, r.frame == 0 || decide (1048576 < r.frame)),
    (7, decide (256 < nh) || (match code with | none => false | some k => !s.handlesOk c handles k)), (8, placement),
    (9, match code with | none => true | some k => k.withdrawn || !k.usable)].filter (·.2)).map (·.1)).head?

/-! ## Reading and checking (15 R399) -/

/-- The 128 bytes of a record. -/
def State.readRecord (s : State) (v : View) (a : Word) : Res (List Byte) :=
  (s.place v a ⟨128, 128, true, false, false, 16⟩).bind fun p s => s.readPlace v p

/-- The handle list, read once. -/
def State.readHandles (s : State) (v : View) (a : Word) (nh : Nat) : Res (List Nat) :=
  Res.collect (List.range nh) s fun i s => s.memRead v (a + BitVec.ofNat 64 (2 * i)) ⟨2, 2, true, false, false, 16⟩

/-- What the checks of a record answer: its fields and handles, or a code and a detail. -/
abbrev Checked := Except (Nat × Nat) (LaunchRec × List Nat)

/-- The checks of R399 in order, with `extra` of the handles beside the second. A handle list in a not-present extent is
waited for. -/
def State.checkRecord (s : State) (v : View) (b : List Byte) (deps : Nat) (extra : List Nat → Bool) : Res Checked :=
  let r := recordOf b
  let code := tfind s.codes r.code
  match recordError b deps (code.map (·.sizeS)) with
  | some off => .ok (.error (stBadRecord, off)) s
  | none =>
    let nh := fieldAt b 56 2
    match s.readHandles v (BitVec.ofNat 64 (fieldAt b 48 8)) (min nh 256) with
    | .hold h => .hold h
    | .trap _ _ => .ok (.error (stBadRecord, 48)) s
    | .ok handles s =>
      let dataBad := match code.bind (·.datah) with
        | none => false
        | some (h, _) => match handles[h]? with | none => false | some i => i != noIndex
      if dataBad || !extra handles then .ok (.error (stBadRecord, 48)) s
      else match s.resourceReason v.ctx nh r handles with
        | some why => .ok (.error (stExceeds, why)) s
        | none => .ok (.ok (r, handles)) s

/-! ## STATUS (15 R389, R398, R399) -/

/-- A status as STATUS holds it. -/
def statusWord (code detail : Nat) : Nat := 2 ^ 31 + detail % 256 * 256 + code

/-- The home of a dispatcher's write is offline, so that the write is held. -/
def State.homeOffline (s : State) (v : View) (a : Word) : Bool :=
  match windowOf a with
  | some (.glob h off) =>
    (match tfind v.objs h with
    | none => false
    | some o =>
      let e := extentOf (s.findExtent v o (extOf off)).1
      e.present && !e.host && (s.die e.die).st == .offline)
  | _ => false

/-- The write itself: the 4 bytes of STATUS, or the DONE counter increased by 1, indivisibly (15 R397, R399). -/
def State.dueWrite (s : State) (d : StatusDue) : Res Unit :=
  let v := frontView d.ctx d.objs
  match d.done with
  | none =>
    let w : Want := ⟨4, 4, false, true, false, 16⟩
    (s.place v d.addr w).bind fun p s =>
      if !p.there then .hold ⟨.extent, 0, d.addr⟩ else s.memWriteHome v frontOwed d.addr w d.val
  | some _ =>
    (s.memAtomic v frontOwed d.addr ⟨8, 8, true, true, false, 16⟩ fun x => some ((x + 1) % 2 ^ 64)).bind fun _ s => .ok () s

/-- The events of a write that is dropped. -/
def State.tellLost (s : State) (d : StatusDue) : State :=
  match d.done with
  | none => (s.tellCtx d.ctx evStatusLost [d.ctx, d.addr.toNat, d.val]).tellMgmt evStatusLost [d.ctx, d.addr.toNat, d.val]
  | some n => s.tellCtx d.ctx evDoneLost [d.ctx, n, d.addr.toNat]

/-- One write of the dispatcher, or none while it is held. -/
def State.tryStatus (s : State) (d : StatusDue) : Option State :=
  match s.dueWrite d with
  | .ok _ s => some s
  | .hold _ => none
  | .trap c _ => if c = cDieLost ∧ s.homeOffline (frontView d.ctx d.objs) d.addr then none else some (s.tellLost d)

/-- A write made now, or kept until its home answers. -/
def State.putDue (s : State) (d : StatusDue) : State :=
  match s.tryStatus d with
  | some s => s
  | none => { s with statusDue := s.statusDue ++ [d] }

/-- A STATUS written now, or kept until its home answers. -/
def State.putStatus (s : State) (c : Nat) (objs : Tbl ObjDesc) (a : Word) (code detail : Nat) : State :=
  s.putDue ⟨c, objs, a, statusWord code detail, none⟩

/-- The writes held are tried again. -/
def State.retryStatus (s : State) : State :=
  s.statusDue.foldl (fun s d => s.putDue d) { s with statusDue := [] }

/-! ## Room and admission (15 R406, R407) -/

/-- Tasks that are bound together (01 R35). -/
def LaunchRec.group (r : LaunchRec) : Nat :=
  match r.cls with
  | 0 => 1
  | 1 => 4
  | 2 => r.g
  | _ => r.n

/-- A slot-table entry at which a task of a context could bind. -/
def State.entryEmpty (s : State) (c k : Nat) : Bool :=
  !s.bound k && (match s.slotReserved k with | none => true | some x => x == c)

/-- A slot-table entry with room for a task of a context. -/
def State.entryFree (s : State) (c k : Nat) : Bool := s.entryEmpty c k && !((tfind s.slotRecs k).any (·.valid))

/-- Entries of a kind on a die with a property, within one quad where one is given. -/
def countEntries (f : Nat → Bool) (d : Nat) (loft : Bool) (quad : Option Nat) : Nat :=
  ((rangeFrom (48 * d) 48).filter fun k => slotLoft k == loft && f k
    && (match quad with | none => true | some q => slotPair k / 4 % 4 == q)).length

/-- Free entries of a kind on a die, within one quad where one is given. -/
def State.freeEntries (s : State) (c d : Nat) (loft : Bool) (quad : Option Nat) : Nat :=
  countEntries (s.entryFree c) d loft quad

/-- There is room for the first group of a launch. -/
def State.roomFor (s : State) (l : Launch) : Bool :=
  let r := l.record
  let n := min r.group r.n
  let can := fun d => s.dieOpen d && s.dieMeets d r
  match r.cls with
  | 1 => someDie fun d => can d && (List.range 4).any fun q => decide (n ≤ s.freeEntries l.ctx d r.loft (some q))
  | 3 => decide (n ≤ ((List.range 8).map fun d => if can d then s.freeEntries l.ctx d r.loft none else 0).foldl (· + ·) 0)
  | _ => someDie fun d => can d && decide (n ≤ s.freeEntries l.ctx d r.loft none)

/-- The priority at which a launch is admitted. -/
def State.prioOf (s : State) (l : Launch) : Nat := (s.queue l.round).attr.prio

/-- How far a launch's queue stands after the queue last granted at its priority. -/
def State.roundDistance (s : State) (l : Launch) : Nat := (l.round + 127 - tget 63 s.grants (s.prioOf l)) % 64

/-- `a` is admitted before `b`, which was made later. -/
def State.goesBefore (s : State) (a b : Launch) : Bool :=
  decide (s.prioOf b < s.prioOf a) || (s.prioOf a == s.prioOf b && decide (s.roundDistance a ≤ s.roundDistance b))

/-- The launch to guests, with those that go on waiting. -/
def State.nextAdmission (s : State) : Option (Launch × List Launch) :=
  let best := fun (l : List Launch) => l.foldl (fun (acc : Option Launch) x =>
    match acc with
    | none => some x
    | some a => if s.goesBefore a x then acc else some x) none
  match best (s.waiting.filter s.roomFor) with
  | none => none
  | some l =>
    let rest := s.waiting.foldl (fun (acc : List Launch × Bool) x =>
      if !acc.2 && x == l then (acc.1, true) else (acc.1 ++ [x], acc.2)) ([], false)
    some (l, rest.1)

/-- The queue's command has ended: it goes on with the next one. -/
def Queue.ended (q : Queue) : Queue :=
  match q.cur with
  | none => q
  | some c => { q with pc := c.next, cur := none, waitk := 0, st := .running }

/-- A command register written; `c0` ignores writes (15 R381). -/
def Queue.setReg (q : Queue) (n : Nat) (v : Word) : Queue := if n = 0 then q else { q with c := tset 0 q.c n v }

/-- A status as a command register holds it (15 R383). -/
def statusReg (code detail : Nat) : Word := BitVec.ofNat 64 (detail * 256 + code)

/-- The queue of an admitted launch goes on, and counts the launch. -/
def State.queueAdmitted (s : State) (l : Launch) : State :=
  match l.queue with
  | none => s
  | some (q, d) =>
    let x := s.queue q
    let x := { x with since := x.since ++ [l.num], taken := none,
                      blocks := match l.block with | none => x.blocks | some b => tput x.blocks b l.num,
                      nextBlk := if l.block.isSome then (x.nextBlk + 1) % 64 else x.nextBlk }
    s.setQueue q ((x.setReg d (statusReg stOk 0)).ended)

/-- 15 R407. -/
def execLaunchAdmit (s : State) : Out :=
  .next
    (match s.nextAdmission with
    | none => s
    | some (l, rest) =>
      let l := { l with num := s.nextLaunch }
      let s := { s with
        waiting := rest, launches := tput s.launches l.num l, nextLaunch := (s.nextLaunch + 1) % 2 ^ 32,
        grants := tput s.grants (s.prioOf l) l.round }
      (s.queueAdmitted l).putStatus l.ctx l.objs l.addr stOk 0)

/-! ## Placement (15 R408) -/

/-- Ranges divide [0, n) in order without gaps, none empty, groups whole, each on a die that meets the needs. -/
def State.rangesOk (s : State) (l : Launch) (from_ : Nat) (rs : List DieRange) : Bool :=
  match rs with
  | [] => from_ == l.record.n
  | r :: t =>
    r.lo == from_ && decide (r.lo < r.hi) && decide (r.hi ≤ l.record.n) && decide (r.die < 8)
      && (r.hi == l.record.n || r.hi % l.record.group == 0 || l.record.cls == 3) && s.dieOpen r.die && s.dieMeets r.die l.record
      && s.rangesOk l r.hi t

/-- How long before the next launch a launch was admitted. -/
def State.admittedBefore (s : State) (lnum : Nat) : Nat := (s.nextLaunch + 2 ^ 32 - lnum % 2 ^ 32) % 2 ^ 32

/-- A range among those of a die, which stand in admission order (15 R408), those of one launch in the order of their tasks. -/
def State.insertRange (s : State) (u : UndRange) (l : List UndRange) : List UndRange :=
  let first := fun (r : UndRange) =>
    decide (s.admittedBefore u.lnum < s.admittedBefore r.lnum) || (r.lnum == u.lnum && decide (r.lo < u.lo))
  l.takeWhile first ++ u :: l.dropWhile first

/-- The dispatcher of a die holds one range more. -/
def State.addRange (s : State) (d : Nat) (u : UndRange) : State :=
  s.setDie d { s.die d with ranges := s.insertRange u (s.die d).ranges }

/-- A whole-class launch may lie on several dies; its group is the launch. -/
def State.place1 (s : State) (l : Launch) (rs : List DieRange) : State :=
  let s := rs.foldl (fun s r => s.addRange r.die ⟨l.num, r.lo, r.hi⟩) s
  { s with launches := tput s.launches l.num { l with placed := true } }

/-- 15 R408. Ranges are taken once for a launch; bind records are written whenever the management cores write them, but not on a
die whose management firmware is being switched (21 R489). -/
def execPlacement (lnum : Nat) (ranges : List DieRange) (recs : List BindWrite) (s : State) : Out :=
  let s := match tfind s.launches lnum with
    | none => s
    | some l => if !l.placed && s.rangesOk l 0 ranges then s.place1 l ranges else s
  .next (recs.foldl (fun s w =>
    if (s.die (slotDie w.slot)).fwSwitching then s else { s with slotRecs := tput s.slotRecs w.slot w.record }) s)

/-! ## Binding (15 R409, R410, 01 R18, R38, 08 R278, R280) -/

/-- Slots with a valid record of a task of a launch. -/
def State.recordsFor (s : State) (lnum idx : Nat) : List Nat :=
  (s.slotRecs.filter fun e => e.2.valid && !e.2.resume && e.2.lnum == lnum && e.2.task == idx).map (·.1)

/-- The task indices of the group of a task. -/
def LaunchRec.groupOf (r : LaunchRec) (idx : Nat) : List Nat :=
  let g := max 1 r.group
  let lo := idx / g * g
  rangeFrom lo (min g (r.n - lo))

/-- A die's dispatcher holds a task undispatched. -/
def State.holdsTask (s : State) (d lnum idx : Nat) : Bool :=
  (s.die d).ranges.any fun r => r.lnum == lnum && decide (r.lo ≤ idx) && decide (idx < r.hi)

/-- Local-store bytes that the owner's tasks on a pair have declared. -/
def State.lsbOn (s : State) (p c : Nat) : Nat :=
  ((pairSlots p).filter fun k => s.bound k && (s.task k).ctx == c).foldl (fun n k => n + (s.task k).lsb) 0

/-- A task that declares `lsb` bytes may not bind on a pair: another context owns it, or the owner's tasks there, with `extra`
that others binding with it declare, would exceed the scratchpad limit of the moment (08 R278, 15 R400). -/
def State.lsbRefused (s : State) (p c lsb extra : Nat) : Bool :=
  let own := (s.pair p).owner
  (lsb != 0 && own.isSome && own != some c)
    || ((lsb != 0 || own == some c) && decide (s.padLimit p < s.lsbOn p c + extra + lsb))

/-- An entry of the wrong kind, or none. -/
def State.entryRefused (s : State) (k : Nat) (loft : Bool) : Bool :=
  decide (384 ≤ k) || (slotLoft k && !(s.die (slotDie k)).loft) || slotLoft k != loft

/-- A record breaks a rule that refuses it (15 R400, R409). `extra` is what other records of its group declare on its pair. -/
def State.recordRefused (s : State) (l : Launch) (k idx extra : Nat) : Bool :=
  s.entryRefused k l.record.loft || !s.holdsTask (slotDie k) l.num idx || s.lsbRefused (slotPair k) l.ctx l.record.lsb extra

/-- An entry where a task of a context that declares `lsb` bytes must wait: it is taken, it or its pair is reserved for another's
resume (12 R336), or its die or its context does not run. -/
def State.entryWaits (s : State) (c lsb k : Nat) : Bool :=
  let other := fun (r : Option Nat) => r.isSome && r != some c
  s.bound k || !s.dieUp (slotDie k) || other (s.slotReserved k)
    || (lsb != 0 && (s.pair (slotPair k)).owner.isNone && other (s.pairReserved (slotPair k)))
    || (s.ctx c).st != .running || (s.ctx c).halt

/-- A record that must wait. -/
def State.recordWaits (s : State) (l : Launch) (k : Nat) : Bool := s.entryWaits l.ctx l.record.lsb k

/-- A producer has ended as a dependent launch needs it (15 R410). -/
def State.producerMet (s : State) (l : Launch) (p : Nat) : Bool :=
  match tfind s.launches p with
  | none => true
  | some x =>
    if l.record.early then decide (0 < x.dispatched)
    else if l.ownTasks then decide (x.record.n ≤ x.exited) else false

/-- A launch's tasks may bind as far as its producers go; an early one not while its context is pre-empted cooperatively. -/
def State.mayBind (s : State) (l : Launch) : Bool :=
  l.producers.all (s.producerMet l) && !(l.record.early && (s.ctx l.ctx).coop)

/-- A pair taken by a new owner: its store reads as zero, full, and its cache holds no line (08 R278). -/
def State.takePair (s : State) (p c : Nat) : State :=
  let s := s.writeBackAll p
  let s := s.zeroStore p 0 (s.lsBytes p)
  let x := s.pair p
  s.setPair p { x with owner := some c, epoch := nextEpoch (x.diversions.map (·.epoch)) diversionSize x.epoch, cache := [] }

/-- A task as it is at bind (01 R18). -/
def State.newTask (s : State) (l : Launch) (r : BindRecord) : Task :=
  let regs := tset 0 (tset 0 [] 1 l.record.args) 2 (BitVec.ofNat 64 r.task)
  { Task.init with
    ctx := l.ctx, lnum := l.num, idx := r.task, code := l.record.code, banks := l.record.banks, accr := l.record.accr,
    lsb := l.record.lsb, frame := l.record.frame * 4096, wantsMat := r.matrix, model := l.model, adpt := l.adpt,
    hart := { Hart.init with pc := BitVec.ofNat 64 l.record.entry, tvec := BitVec.ofNat 64 l.record.tvec,
                             rf := { RegFile.init with vals := regs } },
    objs := s.loadWindow l.ctx l.handles (tfind s.codes l.record.code) }

/-- Clean lines of a pair's cache go, as at an acquire (09 R308). -/
def State.acquirePair (s : State) (p : Nat) : State :=
  s.setPair p { s.pair p with cache := (s.pair p).cache.filterMap s.refreshLine }

/-- A range without one of its tasks. -/
def cutRange (lnum idx : Nat) (r : UndRange) : List UndRange :=
  if r.lnum = lnum ∧ r.lo ≤ idx ∧ idx < r.hi then
    (if r.lo < idx then [⟨r.lnum, r.lo, idx⟩] else []) ++ (if idx + 1 < r.hi then [⟨r.lnum, idx + 1, r.hi⟩] else [])
  else [r]

/-- A task's frame reads as zero (08 R276). -/
def State.clearFrame (s : State) (t : Task) : State :=
  let lo := frameKey t 0
  let s := s.dropBytes lo (lo + t.frame)
  { s with poison := s.poison.filter fun e => !(decide (lo / 128 ≤ e.1) && decide (e.1 * 128 < lo + t.frame)) }

/-- An entry takes a task: its die is in `DIEMASK`, its pair is the context's where the task declares bytes, and its record and
what the die has asked others for are gone (15 R409, R412, 01 R38, 08 R278). -/
def State.takeEntry (s : State) (k : Nat) (t : Task) : State :=
  let p := slotPair k
  let d := slotDie k
  let s := s.touch t.ctx d
  let s := if t.lsb != 0 && (s.pair p).owner.isNone then s.takePair p t.ctx else s
  let s := (s.acquirePair p).setTask k t
  let s := s.setDie d { s.die d with asked := [] }
  { s with slotRecs := terase s.slotRecs k }

/-- One task bound at an entry. -/
def State.bindTask (s : State) (l : Launch) (k : Nat) (r : BindRecord) : State :=
  let d := slotDie k
  let t := s.newTask l r
  let s := (s.clearFrame t).takeEntry k t
  let s := s.setDie d { s.die d with ranges := (s.die d).ranges.flatMap (cutRange l.num r.task) }
  let s := match tfind s.launches l.num with
    | none => s
    | some x => { s with launches := tput s.launches l.num { x with dispatched := x.dispatched + 1 } }
  s.askMatrix k

/-- The records of a group refused together. -/
def State.refuseRecords (s : State) (ks : List Nat) : State :=
  ks.foldl (fun s k =>
    match tfind s.slotRecs k with
    | none => s
    | some r => ({ s with slotRecs := terase s.slotRecs k }).tellMgmt evBindRefused [slotDie k, slotEntry k, r.lnum, r.task]) s

/-- Entries that do not keep a placement class: a quad-class group in one quad, a die-class group on one die (01 R35). -/
def LaunchRec.spread (r : LaunchRec) (ks : List Nat) : Bool :=
  let apart := fun (f : Nat → Nat) => ks.any fun k => f k != f (ks.headD 0)
  match r.cls with
  | 1 => apart fun k => slotPair k / 4
  | 2 => apart slotDie
  | _ => false

/-- What the group of a record comes to: it binds, waits or is refused. -/
def State.bindGroup (s : State) (l : Launch) (k : Nat) (r : BindRecord) : State :=
  let idx := l.record.groupOf r.task
  let mine := idx.filterMap fun i => if i = r.task then some (i, k) else ((s.recordsFor l.num i).head?).map fun x => (i, x)
  if mine.length < idx.length then s
  else
    let ks := mine.map (·.2)
    let spread := l.record.cls == 1 && l.record.spread ks
    let twice := ks.any fun x => decide (1 < (ks.filter fun y => y == x).length)
    let extra := fun x => ((ks.filter fun y => y != x && slotPair y == slotPair x).length) * l.record.lsb
    if spread || twice || mine.any fun e => s.recordRefused l e.2 e.1 (extra e.2) then s.refuseRecords ks
    else if !s.mayBind l || ks.any (s.recordWaits l) then s
    else mine.foldl (fun s e => s.bindTask l e.2 { r with task := e.1, matrix := ((tfind s.slotRecs e.2).map (·.matrix)).getD false }) s

/-- Slots with a valid RESUME record of a task. -/
def State.resumeRecordsFor (s : State) (c lnum idx : Nat) : List Nat :=
  (s.slotRecs.filter fun e => e.2.valid && e.2.resume && e.2.ctx == c && e.2.lnum == lnum && e.2.task == idx).map (·.1)

/-- A saved task bound at an entry. -/
def State.bindSavedTask (s : State) (k : Nat) (t : Task) : State :=
  let s := s.takeEntry k (s.asksAgain k t)
  let x := s.ctx t.ctx
  (s.setCtx t.ctx { x with tasks := x.tasks.filter fun u => !(u.task.lnum == t.lnum && u.task.idx == t.idx) }).askMatrix k

/-- What the group of a RESUME record of a context saved cooperatively comes to: its saved tasks bind together, at entries of their
kinds and of their placement class, beside the tasks of the group that are bound (12 R330, 15 R409). -/
def State.bindSavedGroup (s : State) (l : Launch) (k : Nat) (r : BindRecord) : State :=
  let idx := l.record.groupOf r.task
  let peers := (s.ctx r.ctx).tasks.filter fun t => t.task.lnum == r.lnum && idx.contains t.task.idx
  let mine := peers.filterMap fun t =>
    if t.task.idx = r.task then some (t, k)
    else ((s.resumeRecordsFor r.ctx r.lnum t.task.idx).head?).map fun x => (t, x)
  if mine.length < peers.length then s
  else
    let ks := mine.map (·.2)
    let there := (s.ctxSlots r.ctx).filter fun x => (s.task x).lnum == r.lnum && idx.contains (s.task x).idx
    let extra := fun x => ((mine.filter fun y => y.2 != x && slotPair y.2 == slotPair x).map fun y => y.1.task.lsb).foldl (· + ·) 0
    let bad := fun (e : SavedTask × Nat) => s.entryRefused e.2 (slotLoft e.1.slot)
      || s.lsbRefused (slotPair e.2) r.ctx e.1.task.lsb (extra e.2)
    if l.record.spread (ks ++ there) || ks.eraseDups.length != ks.length || mine.any bad then s.refuseRecords ks
    else if mine.any fun e => s.entryWaits r.ctx e.1.task.lsb e.2 then s
    else mine.foldl (fun s e => s.bindSavedTask e.2 e.1.task) s

/-- A RESUME record: of a context pre-empted by force it must name the saved task's own entry, where it waits for the resume
(12 R335, R336). -/
def State.bindSaved (s : State) (k : Nat) (r : BindRecord) : State :=
  let x := s.ctx r.ctx
  match x.tasks.find? (fun t => t.task.lnum == r.lnum && t.task.idx == r.task), tfind s.launches r.lnum with
  | some t, some l =>
    if x.st = .preempted then (if t.slot = k then s else s.refuseRecords [k]) else s.bindSavedGroup l k r
  | _, _ => s.refuseRecords [k]

/-- The record at an entry, where it is valid. -/
def State.bindAt (s : State) (k : Nat) (early : Bool) : State :=
  match tfind s.slotRecs k with
  | none => s
  | some r =>
    if !r.valid || s.bound k then s
    else if r.resume then (if early then s else s.bindSaved k r)
    else
      match tfind s.launches r.lnum with
      | none => s.refuseRecords [k]
      | some l =>
        if early && !l.record.early then s
        else if l.ctx ≠ r.ctx ∨ l.record.n ≤ r.task then s.refuseRecords [k] else s.bindGroup l k r

/-- 15 R409. -/
def execBindRecordBind (slot : Nat) (s : State) : Out := .next (s.bindAt slot false)

/-- 15 R410. -/
def execEarlyBind (slot : Nat) (s : State) : Out := .next (s.bindAt slot true)

/-! ## Work stealing (15 R412) -/

/-- The next die a thief has not asked since it last bound a task. -/
def nextVictim (thief : Nat) (asked : List Nat) : Option Nat :=
  (((List.range 7).map fun i => (thief + 1 + i) % 8).filter fun d => !asked.contains d).head?

/-- Tasks of a stealable range, and how many of them go; none where it is not stealable. -/
def stealOf (r : LaunchRec) (u : UndRange) : Option (Nat × Nat) :=
  match r.cls with
  | 0 => if 2 ≤ u.hi - u.lo then some (u.hi - u.lo, (u.hi - u.lo) / 2) else none
  | 1 =>
    let groups := cdiv (u.hi - u.lo) 4
    if 2 ≤ groups then some (4 * groups, (u.hi - u.lo) - 4 * (groups - groups / 2)) else none
  | _ => none

/-- The ranges of a die that a thief may take from, each with its size and part. -/
def State.stealable (s : State) (victim thief : Nat) (loft : Bool) : List (UndRange × Nat × Nat) :=
  (s.die victim).ranges.filterMap fun u =>
    match tfind s.launches u.lnum with
    | none => none
    | some l =>
      if l.record.loft != loft || !s.dieMeets thief l.record then none
      else (stealOf l.record u).map fun p => (u, p.1, p.2)

/-- The largest range, ties to the lowest launch number. -/
def largestRange (l : List (UndRange × Nat × Nat)) : Option (UndRange × Nat × Nat) :=
  l.foldl (fun acc x =>
    match acc with
    | none => some x
    | some a => if a.2.1 < x.2.1 ∨ (a.2.1 = x.2.1 ∧ x.1.lnum < a.1.lnum) then some x else acc) none

/-- A die's dispatcher can bind the next group of a range at its entries of a kind. -/
def State.bindable (s : State) (d : Nat) (loft : Bool) (u : UndRange) : Bool :=
  match tfind s.launches u.lnum with
  | none => false
  | some l =>
    let n := min l.record.group (u.hi - u.lo)
    let empty := countEntries (s.entryEmpty l.ctx) d loft
    l.record.loft == loft && s.mayBind l && (s.ctx l.ctx).st == .running && !(s.ctx l.ctx).halt
      && (match l.record.cls with
        | 1 => (List.range 4).any fun q => decide (n ≤ empty (some q))
        | 3 => decide (1 ≤ empty none)
        | _ => decide (n ≤ empty none))

/-- The dispatcher has an empty slot of the kind and no range that it can bind there. -/
def State.idleFor (s : State) (d : Nat) (loft : Bool) : Bool :=
  ((rangeFrom (48 * d) 48).any fun k => slotLoft k == loft && !s.bound k && (!loft || (s.die d).loft))
    && !(s.die d).ranges.any (s.bindable d loft)

/-- 15 R412. -/
def execStealRequest (thief : Nat) (loft : Bool) (s : State) : Out :=
  let t := s.die thief
  .next
    (match s.dieOpen thief && s.idleFor thief loft, nextVictim thief t.asked with
    | true, some v =>
      let s := s.setDie thief { t with asked := t.asked ++ [v] }
      if !s.dieUp v then s
      else
        (match largestRange (s.stealable v thief loft) with
        | none => s
        | some (u, _, n) =>
          let keep := fun (r : UndRange) => if r = u then ⟨r.lnum, r.lo, r.hi - n⟩ else r
          let s := s.setDie v { s.die v with ranges := (s.die v).ranges.map keep }
          s.addRange thief ⟨u.lnum, u.hi - n, u.hi⟩)
    | _, _ => s)

/-! ## Completion (15 R397, R411, 17 R431) -/

/-- A launch is attached to another that has not completed. -/
def State.hasAttached (s : State) (n : Nat) : Bool :=
  (s.launches.any fun l => l.2.root == some n) || s.waiting.any fun l => l.root == some n

/-- The DONE counter increased, now or once its home answers (15 R389, R397). -/
def State.addDone (s : State) (l : Launch) : State :=
  if l.record.done = 0 then s else s.putDue ⟨l.ctx, l.objs, l.record.done, 0, some l.num⟩

/-- Code objects that were unloaded go with the last task launched from them (14 R367), and not before they are recorded (R369). -/
def State.freeCode (s : State) (d : Nat) : State :=
  match tfind s.codes d with
  | none => s
  | some c =>
    let used := (s.launches.any fun l => l.2.record.code == d) || (s.waiting.any fun l => l.record.code == d)
      || s.tasks.any fun t => t.2.code == d
    if c.withdrawn && c.usable && !used then { s with codes := terase s.codes d } else s

/-- A launch leaves the table: its references, its block and its hold are released. -/
def State.endLaunch (s : State) (l : Launch) : State :=
  let s := { s with launches := terase s.launches l.num }
  let s := s.dropRefs l.refs
  let s := match l.queue with
    | none => s
    | some (q, _) =>
      let x := s.queue q
      let blocks := match l.block with
        | some b => if tget 0 x.blocks b = l.num then terase x.blocks b else x.blocks
        | none => x.blocks
      (s.setQueue q { x with blocks := blocks }).settleHolds q
  s.freeCode l.record.code

/-- 15 R397. It is complete while its DONE increase is held. -/
def execLaunchComplete (lnum : Nat) (s : State) : Out :=
  .next
    (match tfind s.launches lnum with
    | none => s
    | some l =>
      if l.exited < l.record.n || s.hasAttached lnum then s
      else (s.addDone l).endLaunch l)

/-! ## LAUNCH (04 R155, 15 R399, R410, R411) -/

/-- The window and the right to read and to write the record. -/
def State.launchPlace (s : State) (v : View) (a : Word) : Res Place :=
  (s.place v a ⟨128, 128, true, false, false, 16⟩).bind fun _ s => s.place v a ⟨128, 128, false, true, false, 16⟩

/-- The launch that a task's context descends from. -/
def State.rootOf (s : State) (lnum : Nat) : Nat :=
  match tfind s.launches lnum with
  | none => lnum
  | some l => l.root.getD lnum

/-- What the dispatcher makes of a record that a task hands it. -/
def State.kernelLaunch (s : State) (k : Nat) (a : Word) : Res Unit :=
  let t := s.task k
  let v := frontView t.ctx t.objs
  let refuse := fun (s : State) (code detail : Nat) => Res.ok () (s.putStatus t.ctx t.objs a code detail)
  match s.readRecord v a with
  | .hold h => .hold h
  | .trap _ _ => refuse s stBadRecord 0
  | .ok b s =>
    (s.checkRecord v b 1 fun _ => true).bind fun c s =>
      match c with
      | .error e => refuse s e.1 e.2
      | .ok (r, handles) =>
        let root := s.rootOf t.lnum
        let round := match tfind s.launches root with
          | some l => l.round
          | none => 0
        let l : Launch :=
          { num := 0, ctx := t.ctx, record := r, handles := handles, queue := none, round := round, root := some root,
            ownTasks := r.depn == 1, placed := false, dispatched := 0, exited := 0, trigged := 0,
            producers := if r.depn = 1 then [t.lnum] else [], model := t.model, adpt := t.adpt, addr := a, objs := t.objs,
            refs := none, under := none, block := none }
        .ok () { s with waiting := s.waiting ++ [l] }

/-- Everything the task has issued is performed, but for what its handler set aside. -/
def State.allDone (s : State) (k : Nat) : Bool :=
  (s.task k).enginesIdle && !s.owedList.any fun o => o.slot == k

/-- 04 R155. -/
def execLaunch (a : BitVec 5) (g : BitVec 4) (s : State) : Out :=
  let x := s.reg a
  guarded g s (taskWord s
    ((s.launchPlace s.view x).bind fun p s =>
      if !p.there then .hold ⟨.extent, 0, x⟩
      else if !s.allDone s.me then .hold Hold.init
      else (s.release 5).bind fun _ s => s.kernelLaunch s.me x))

end Sys2Proof.Machine
end

