-- ==== Sys2Proof/Machine/Summary.lean ====
section
/-! DEFINITION. What the host reads of the whole device: the readiness maps, queue and context records and the state summary (spec
15 R374, R416, R417, 16 R418, R427, 21 R484). -/
namespace Sys2Proof.Machine

/-! ## Readiness (21 R484) -/

/-- Bits that a list gives, lowest first. -/
def packBits (l : List Bool) : Nat :=
  match l with
  | [] => 0
  | b :: t => boolNat b + 2 * packBits t

/-- The function readiness map. A channel of a die that is not online cannot be used. -/
def State.readyMap (s : State) : Nat :=
  s.units.toNat % 64 + at_ (packBits ((List.range 8).map s.dieOpen)) 8 + at_ s.pod.up.toNat 16
    + (List.range 8).foldl (fun n d => n + at_ (if s.dieUp d then (s.die d).lpReady.toNat else 0) (32 + 16 * d)) 0

/-- A model slot holds a present, measured version. -/
def Model.measured (m : Model) : Bool := (m.v0.st == verPresent && m.v0.meas) || (m.v1.st == verPresent && m.v1.meas)

/-- The model map. -/
def State.modelMap (s : State) : Nat :=
  s.models.foldl (fun n e => if e.2.measured && decide (e.1 < 256) then n + 2 ^ e.1 else n) 0

/-- The event of a change of a readiness bit. -/
def evReady : Nat := 0x8001

/-- An event for each bit of a map that has changed. -/
def State.tellBits (s : State) (map old new : Nat) : State :=
  if old = new then s
  else (List.range 256).foldl (fun s i =>
    if bitOf old i = bitOf new i then s else s.tellHost evReady [map, i, boolNat (bitOf new i)]) s

/-- Every change of either map since `old`, told by the security controller once it works (20 R472). -/
def State.tellReady (s old : State) : State :=
  if s.units.getLsbD 1 then (s.tellBits 0 old.readyMap s.readyMap).tellBits 1 old.modelMap s.modelMap else s

/-! ## Records -/

/-- STATE of `QSTAT` (15 R374). -/
def queueState (x : QState) : Nat :=
  match x with | .created => 0 | .running => 1 | .waiting => 2 | .stopped => 3 | .halted => 4 | .saved => 5

/-- `QSTAT`. -/
def Queue.qstat (x : Queue) : Nat :=
  at_ x.where_ 32 + at_ x.code 24 + at_ x.waitk 20 + at_ x.calls.length 15 + at_ x.loops.length 11 + queueState x.st

/-- Launches and invocations of a queue that are not complete. -/
def State.launchesOf (s : State) (q : Nat) : Nat :=
  (s.launches.filter fun l => l.2.queue.any fun e => e.1 == q).length
    + (s.waiting.filter fun l => l.queue.any fun e => e.1 == q).length

/-- A queue record: 192 bytes. -/
def State.queueRecord (s : State) (q : Nat) : List Byte :=
  let x := s.queue q
  layOut 64 [(0, 8, x.qstat), (8, 8, x.pc.toNat), (16, 4, x.head), (20, 4, x.tail), (24, 4, x.node),
    (28, 4, s.launchesOf q), (32, 1, x.attr.prio), (33, 1, x.attr.ctx)]
    ++ (List.range 16).flatMap fun i => bytesOf 8 (tget 0 x.c i).toNat

/-- A context's state code. -/
def ctxStateCode (x : CtxState) : Nat :=
  match x with | .absent => 0 | .running => 1 | .halted => 2 | .preempted => 3 | .saved => 4

/-- Deferred faults of a context that have not been taken. -/
def State.faultsOf (s : State) (c : Nat) : Nat :=
  ((s.ctx c).saved.foldl (fun n v => n + v.faults.length) 0)
    + (s.ctxSlots c).foldl (fun n k => n + (s.task k).deferred.length) 0

/-- A context record: 16 bytes. -/
def State.ctxRecord (s : State) (c : Nat) : List Byte :=
  let x := s.ctx c
  layOut 16 [(0, 1, ctxStateCode x.st), (1, 1, x.diemask.toNat), (4, 4, (s.ctxSlots c).length),
    (8, 4, s.faultsOf c), (12, 4, (s.queues.filter fun e => e.2.live && e.2.attr.ctx == c).length)]

/-- A model slot is resident: it holds a version that is served (16 R427, R428). -/
def Model.resident (m : Model) : Bool := decide (verPresent ≤ m.v0.st) || decide (verPresent ≤ m.v1.st)

/-- An adapter slot record: 64 bytes (16 R418). -/
def Adapter.record (a : Adapter) : List Byte :=
  layOut 64 [(0, 1, a.st), (1, 1, a.kind), (2, 1, a.owner), (3, 1, a.model), (4, 2, a.bver), (6, 1, a.rankm1),
    (7, 1, a.eidx), (8, 2, a.parent), (10, 2, a.aidx), (12, 2, a.bidx), (14, 2, a.ridx), (16, 4, a.refs)]

/-- A version entry: 24 bytes. -/
def VerEnt.record (v : VerEnt) : List Byte :=
  layOut 24 [(0, 2, v.vid), (2, 1, v.st), (3, 1, boolNat v.meas), (4, 4, v.refs), (8, 8, v.entry.toNat), (16, 2, v.wobj),
    (18, 2, v.nwobj)]

/-- A model-slot record: 64 bytes (16 R427). -/
def Model.record (m : Model) : List Byte :=
  layOut 8 [(0, 1, boolNat m.resident), (1, 1, m.cur)] ++ m.v0.record ++ m.v1.record ++ List.replicate 8 0

/-! ## The summary (15 R416) -/

/-- The counts at 0x3840. -/
def State.counts (s : State) : List Nat :=
  [(s.adapters.filter fun e => e.2.st == slotLive).length, (s.models.filter fun e => e.2.resident).length,
    s.pairs.foldl (fun n e => n + e.2.diversions.length) 0, s.sectionsInUse.length,
    ((List.range 128).map s.faultsOf).foldl (· + ·) 0, s.launches.length, 0, 0]

/-- The 16 KiB of a summary. -/
def State.summaryBytes (s : State) : List Byte :=
  let now := bytesOf 8 (s.die 8).ptime.toNat
  bytesOf 8 1 ++ now ++ now ++ bytesOf 8 (s.die 8).csrTerr ++ bytesOf 32 s.readyMap
    ++ ((List.range 64).flatMap s.queueRecord) ++ ((List.range 128).flatMap s.ctxRecord)
    ++ (s.counts.flatMap (bytesOf 8)) ++ List.replicate 1920 0

end Sys2Proof.Machine
end

