-- ==== Sys2Proof/Machine/Commands.lean ====
section
/-! DEFINITION. The command front end: fetching a queue's commands, and what each does; a wait that ends by an event (spec 15
R373–R404, R413–R417). -/
namespace Sys2Proof.Machine

/-! ## The queue in issue -/

/-- The queue whose command is in issue. -/
def State.myQueue (s : State) : Nat := match s.turn.agent with | .queue q => q | _ => 0

/-- The queue itself. -/
def State.mine (s : State) : Queue := s.queue s.myQueue

def State.setMine (s : State) (x : Queue) : State := s.setQueue s.myQueue x

/-- The front end acting for a queue (15 R388, R396). -/
def State.queueView (s : State) (q : Nat) : View := frontView (s.queue q).attr.ctx (s.queue q).objs

/-- A command register of the queue in issue. -/
def State.creg (s : State) (n : BitVec 4) : Word := tget 0 s.mine.c n.toNat

/-- A turn of the front end: the command at `loc`, followed at `next`. -/
def State.queueTurn (s : State) (q : Nat) (loc next : Word) : State :=
  s.setTurn { Turn.init with agent := .queue q, pc := loc, wordPc := loc, next := next }

/-! ## How a command ends -/

/-- The queue goes on with the command after this one. -/
def Queue.finished (x : Queue) (next : Word) : Queue := { x with pc := next, cur := none, waitk := 0, st := .running }

/-- The command in issue ends, `f` being its effect on the queue. -/
def State.endCommand (s : State) (f : Queue → Queue) : State := s.setMine ((f s.mine).finished s.turn.next)

/-- The command in issue ends with a value in `c[D]`. -/
def State.endWith (s : State) (d : BitVec 4) (v : Word) : State := s.endCommand fun x => x.setReg d.toNat v

/-- Control goes to a location. -/
def State.goTo (s : State) (a : Word) (f : Queue → Queue) : State := s.setMine ((f s.mine).finished a)

/-- Stop codes (15 R375). -/
def stopIllegal : Nat := 1
def stopMalformed : Nat := 2
def stopStack : Nat := 3
def stopAccess : Nat := 4
def stopGangLate : Nat := 5
def stopHalted : Nat := 6

/-- Events of queues without a code of the spec's (log 21). -/
def evQueueStop : Nat := 0x1000C
def evGangLate : Nat := 0x1000D
def evGangArrived : Nat := 0x1000E

/-- The command in issue stops its queue (15 R375, R376); the event carries the die that does not answer, where there is one
(R389). -/
def State.stopQueue (s : State) (code : Nat) (addr : Word) (die : Option Nat := none) : State :=
  let x := s.mine
  let s := s.setMine { x with
    st := if code = stopHalted then .halted else .stopped, code := code, where_ := s.turn.pc.toNat % 2 ^ 32,
    waitk := 0, pc := s.turn.pc, cur := none,
    tail := if x.calls.isEmpty then s.turn.pc.toNat else x.tail }
  s.tellCtx x.attr.ctx evQueueStop ([s.myQueue, code, s.turn.pc.toNat, addr.toNat] ++ die.toList)

/-- The command in issue waits: for `waitk`, or with 0 for its access to proceed. -/
def State.holdCommand (s : State) (i : Instr) (waitk : Nat) : State :=
  let x := s.mine
  s.setMine { x with
    cur := some ⟨s.turn.pc, s.turn.next, i⟩, waitk := waitk, st := if waitk = 0 then .running else .waiting,
    pc := if waitk = 7 then s.turn.pc else s.turn.next,
    waitStart := if x.cur.isNone then (s.die 8).ptime else x.waitStart }

/-- The command in issue waits for an access: at an extent it says which. -/
def State.holdAccess (s : State) (i : Instr) (h : Hold) : State :=
  let s := s.holdCommand i (if h.kind = .extent then 8 else 0)
  s.setMine { s.mine with hold := h }

/-- The home die of an address of the queue in issue: of a global address, or of a device address of its ring or blocks. -/
def State.commandHome (s : State) (a : Word) : Option Nat :=
  if a.toNat < 2 ^ 39 then some (bits a.toNat 38 36) else s.homeDie (s.queueView s.myQueue) a

/-- A command's access fails: the queue stops. One that its home does not answer has set the home's bit of `DIEMASK`, and the
event names the die (15 R388, R389). -/
def State.stopAtAccess (s : State) (cause : Nat) (a : Word) : State :=
  if cause = cDieLost then
    let d := s.commandHome a
    (match d with | none => s | some d => s.touch s.mine.attr.ctx d).stopQueue stopAccess a d
  else s.stopQueue stopAccess a

/-- How a command's accesses end: it has its effect, its queue stops, or it waits (15 R388, R389). -/
def command (s : State) (i : Instr) (r : Res Unit) : Out :=
  match r with
  | .ok _ t => .next t
  | .trap c v => .next (s.stopAtAccess c v)
  | .hold h => .next (s.holdAccess i h)

/-! ## Accesses (15 R388–R391) -/

/-- What a command asks for: the global window, naturally aligned. -/
def wantCmd (n : Nat) (rd wr : Bool) : Want := ⟨n, n, rd, wr, false, 16⟩

/-- A checked place; an extent that is not present is waited for. -/
def State.cmdPlace (s : State) (v : View) (a : Word) (w : Want) : Res Place :=
  (s.place v a w).bind fun p s => if p.there then .ok p s else .hold ⟨.extent, 0, a⟩

/-- A read of `n` bytes. -/
def State.cmdRead (s : State) (v : View) (a : Word) (n : Nat) : Res Nat :=
  (s.cmdPlace v a (wantCmd n true false)).bind fun _ s => s.memReadHome v a (wantCmd n true false)

/-- A write of the low `n` bytes of a value. -/
def State.cmdWrite (s : State) (v : View) (a : Word) (n x : Nat) : Res Unit :=
  (s.cmdPlace v a (wantCmd n false true)).bind fun _ s => s.memWriteHome v frontOwed a (wantCmd n false true) x

/-! ## Fetching a command (15 R376–R380, R382) -/

/-- A memory key of a device address: die in [38:36], offset below (log 30). -/
def devKey (a : Nat) : Nat := a % 2 ^ 39

/-- Device memory at an address answers. -/
def State.devUp (s : State) (a : Nat) : Bool := s.dieUp (bits a 38 36) && s.channelUp (bits a 38 36) (bits a 35 0)

/-- Bytes of ring that the host has written from an offset on. -/
def Queue.written (x : Queue) (loc : Nat) : Nat := (x.head + x.attr.rsize - loc) % x.attr.rsize

/-- A ring offset. -/
def Queue.wrap (x : Queue) (a : Nat) : Nat := a % x.attr.rsize

/-- A command word by its place: in the ring, or through the handle list. -/
def State.readWord (s : State) (q : Nat) (loc : Word) (i : Nat) : Res Word :=
  let x := s.queue q
  if x.calls.isEmpty then
    let key := devKey (x.attr.rbase + x.wrap (loc.toNat + 8 * i))
    let a := BitVec.ofNat 64 key
    if !s.devUp key then .trap cDieLost a
    else if s.channelBusy (bits key 38 36) (bits key 35 0) then .hold Hold.init
    else if s.poisoned key 8 then .trap cPoison a
    else .ok (BitVec.ofNat 64 (s.getNat key 8)) (s.touch x.attr.ctx (bits key 38 36))
  else (s.cmdRead (s.queueView q) (loc + BitVec.ofNat 64 (8 * i)) 8).bind fun w s => .ok (BitVec.ofNat 64 w) s

/-- What a fetch comes to. -/
inductive Fetched where
  | command (c : Command)
  | bad (code : Nat)
  | unwritten

/-- The location that follows a command of `n` words. -/
def Queue.after (x : Queue) (loc : Word) (n : Nat) : Word :=
  if x.calls.isEmpty then BitVec.ofNat 64 (x.wrap (loc.toNat + 8 * n)) else loc + BitVec.ofNat 64 (8 * n)

/-- A word that names no command stops the queue before the words after it are awaited (15 R375). -/
def badWord (w : Word) : Option Nat :=
  match decodeCommand w.toNat (List.replicate (extWords w.toNat) 0) with
  | .ok _ => none
  | .error .reservedOpcode => some stopIllegal
  | .error _ => some stopMalformed

/-- The command at a location with its extension words. -/
def State.fetchCommand (s : State) (q : Nat) (loc : Word) : Res Fetched :=
  let x := s.queue q
  let short := fun n => x.calls.isEmpty && decide (x.written loc.toNat < 8 * n)
  if short 1 then .ok .unwritten s
  else (s.readWord q loc 0).bind fun w s =>
    match badWord w with
    | some code => .ok (.bad code) s
    | none =>
      let n := 1 + extWords w.toNat
      if short n then .ok .unwritten s
      else (Res.collect (rangeFrom 1 (n - 1)) s fun i s => s.readWord q loc i).bind fun ext s =>
        match decodeCommand w.toNat ext with
        | .error _ => .ok (.bad stopMalformed) s
        | .ok i =>
          let next := x.after loc n
          let tail := if x.calls.isEmpty then next.toNat else x.tail
          .ok (.command ⟨loc, next, i⟩) (s.setQueue q { s.queue q with tail := tail })

/-! ## Arithmetic (15 R385) -/

/-- A number in IMM. -/
def cNum (w : CWord) : Word := w.imm.signExtend 64

/-- `y`: the immediate or `c[B]`. -/
def State.cmdY (s : State) (w : CWord) : Word := if w.auxBit 0 then cNum w else s.creg w.b

/-- A command of the arithmetic group. -/
def cmdAlu (f : Word → Word → Word) (w : CWord) (s : State) : Out :=
  .next (s.endWith w.d (f (s.creg w.a) (s.cmdY w)))

/-- 15 R385. -/
def execCmdLdi (w : CWord) (ext : List Word) (s : State) : Out :=
  .next (s.endWith w.d (if w.auxBit 0 then ext.headD 0 else cNum w))

/-- 15 R385. -/
def execCmdAdd (w : CWord) (s : State) : Out := cmdAlu (· + ·) w s

/-- 15 R385. -/
def execCmdSub (w : CWord) (s : State) : Out := cmdAlu (· - ·) w s

/-- 15 R385. -/
def execCmdAnd (w : CWord) (s : State) : Out := cmdAlu (· &&& ·) w s

/-- 15 R385. -/
def execCmdOr (w : CWord) (s : State) : Out := cmdAlu (· ||| ·) w s

/-- 15 R385. -/
def execCmdShl (w : CWord) (s : State) : Out := cmdAlu (fun x y => x <<< (y.setWidth 6).toNat) w s

/-- 15 R385. -/
def execCmdCmp (w : CWord) (s : State) : Out :=
  cmdAlu (fun x y => if condHolds w.cond.toNat x y then 1 else 0) w s

/-- 15 R395. -/
def execCmdNop (s : State) : Out := .next (s.endCommand id)

/-! ## Control flow (15 R378, R379, R386, R387) -/

/-- Entries that a branch to a target leaves: those of the current depth from the top whose range excludes it. -/
def popLoops (depth : Nat) (t : Word) (l : List LoopEnt) : List LoopEnt :=
  match l with
  | [] => []
  | e :: r =>
    if e.depth = depth ∧ !(decide (e.start ≤ t) && decide (t ≤ e.stop)) then popLoops depth t r else e :: r

/-- A branch, taken or not. -/
def cmdBranch (i : Instr) (taken : Bool) (w : CWord) (s : State) : Out :=
  let x := s.mine
  let loc := s.turn.pc
  .next
    (if x.calls.isEmpty then
      let d := (cNum w).toInt
      if d < 1 ∨ x.attr.rsize / 8 - 1 < d.toNat then s.stopQueue stopMalformed 0
      else if !taken then s.endCommand id
      else if x.written loc.toNat < 8 * d.toNat then s.holdCommand i 7
      else
        let t := x.wrap (loc.toNat + 8 * d.toNat)
        s.goTo (BitVec.ofNat 64 t) fun x => { x with tail := t }
    else if !taken then s.endCommand id
    else
      let t := loc + (cNum w) * 8
      s.goTo t fun x => { x with loops := popLoops x.calls.length t x.loops })

/-- 15 R386. -/
def execCmdBr (w : CWord) (s : State) : Out := cmdBranch (.cmdBr w) true w s

/-- 15 R386. -/
def execCmdBrc (w : CWord) (s : State) : Out :=
  cmdBranch (.cmdBrc w) (condHolds w.cond.toNat (s.creg w.a) (s.creg w.b)) w s

/-- Depths of the call and loop stacks (15 R375). -/
def callDepth : Nat := 16
def loopDepth : Nat := 8

/-- 15 R386. -/
def execCmdCall (w : CWord) (s : State) : Out :=
  let a := s.creg w.a
  .next
    (if callDepth ≤ s.mine.calls.length then s.stopQueue stopStack 0
    else if a.toNat % 8 ≠ 0 ∨ bits a.toNat 63 60 ≠ 8 then s.stopQueue stopMalformed a
    else s.goTo a fun x => { x with calls := s.turn.next :: x.calls })

/-- 15 R386. Holds of the frame go with it (16 R422). -/
def execCmdRet (s : State) : Out :=
  .next
    (match s.mine.calls with
    | [] => s.stopQueue stopStack 0
    | a :: t =>
      let d := s.mine.calls.length
      let s := s.goTo a fun x => { x with calls := t, loops := x.loops.filter fun e => e.depth != d }
      s.leaveFrame s.myQueue d)

/-- 15 R387. Not accepted in the ring (R378). -/
def execCmdLoop (w : CWord) (s : State) : Out :=
  let x := s.mine
  let loc := s.turn.pc
  let n := BitVec.ofNat 64 (8 * w.imm.toNat)
  .next
    (if x.calls.isEmpty then s.stopQueue stopMalformed 0
    else if s.creg w.a = 0 then s.goTo (loc + n) id
    else if loopDepth ≤ x.loops.length then s.stopQueue stopStack 0
    else s.endCommand fun x => { x with loops := ⟨s.turn.next, loc + n - 8, s.creg w.a, x.calls.length⟩ :: x.loops })

/-- 15 R387. Not accepted in the ring (R378). -/
def execCmdEndl (s : State) : Out :=
  let x := s.mine
  .next
    (if x.calls.isEmpty then s.stopQueue stopMalformed 0
    else
      match x.loops with
      | [] => s.stopQueue stopStack 0
      | e :: t =>
        if e.stop ≠ s.turn.pc then s.stopQueue stopStack 0
        else if e.count = 1 then s.endCommand fun x => { x with loops := t }
        else s.goTo e.start fun x => { x with loops := { e with count := e.count - 1 } :: t })

/-! ## Memory (15 R390, R391, R393) -/

/-- Bytes that AUX[1:0] names. -/
def cBytes (w : CWord) : Nat := 2 ^ (w.aux.toNat % 4)

/-- 15 R390. -/
def execCmdLoad (w : CWord) (s : State) : Out :=
  command s (.cmdLoad w) ((s.cmdRead (s.queueView s.myQueue) (s.creg w.a + (cNum w)) (cBytes w)).bind fun x s =>
    .ok () (s.endWith w.d (BitVec.ofNat 64 x)))

/-- 15 R390. -/
def execCmdStore (w : CWord) (s : State) : Out :=
  command s (.cmdStore w)
    ((s.cmdWrite (s.queueView s.myQueue) (s.creg w.a + (cNum w)) (cBytes w) (s.creg w.b).toNat).bind fun _ s =>
      .ok () (s.endCommand id))

/-- One indivisible operation on the 8 bytes at `c[A]`. -/
def cmdSignal (i : Instr) (f : Nat → Nat) (w : CWord) (s : State) : Out :=
  let v := s.queueView s.myQueue
  let want := wantCmd 8 true true
  command s i ((s.cmdPlace v (s.creg w.a) want).bind fun _ s =>
    (s.memAtomic v frontOwed (s.creg w.a) want fun x => some (f x)).bind fun _ s => .ok () (s.endCommand id))

/-- 15 R391. -/
def execCmdSignalSet (w : CWord) (s : State) : Out :=
  cmdSignal (.cmdSignalSet w) (fun _ => (s.creg w.b).toNat) w s

/-- 15 R391. -/
def execCmdSignalAdd (w : CWord) (s : State) : Out :=
  cmdSignal (.cmdSignalAdd w) (fun x => (x + (s.creg w.b).toNat) % 2 ^ 64) w s

/-- 15 R393. Every earlier store and signal has been performed at its home. -/
def execCmdFence (s : State) : Out := .next (s.endCommand id)

/-! ## Waiting on memory and time (15 R392, R394) -/

/-- A WAIT's time-out has passed by more than `ps` picoseconds. -/
def State.waitOver (s : State) (q : Nat) (w : CWord) (ps : Nat) : Bool :=
  w.imm != 0 && decide (((s.queue q).waitStart.toNat + 1000 * w.imm.toNat) * 1000 + ps < (s.die 8).ptime.toNat * 1000)

/-- 15 R392: one read of the location. A wait that is over by more than `TERR` can only time out. -/
def execCmdWait (w : CWord) (s : State) : Out :=
  if s.mine.cur.isSome && s.waitOver s.myQueue w (s.die 8).csrTerr then .next (s.endWith w.d (statusReg stTimeout 0))
  else command s (.cmdWait w) ((s.cmdRead (s.queueView s.myQueue) (s.creg w.a) 8).bind fun x t =>
    .ok () (if condHolds w.cond.toNat (BitVec.ofNat 64 x) (s.creg w.b) then t.endWith w.d (statusReg stOk 0)
      else t.holdCommand (.cmdWait w) 1))

/-- The command that a queue waits in, put into issue again. -/
def State.again (s : State) (q : Nat) (c : Command) : State := s.queueTurn q c.loc c.next

/-- What an event makes of a queue that waits. -/
def State.onWaiting (s : State) (q : Nat) (f : Command → Option Out) : Out :=
  let x := s.queue q
  match x.st, x.cur with
  | .waiting, some c => (f c).getD (.next s)
  | _, _ => .next s

/-- 15 R392. -/
def execWaitReread (q : Nat) (s : State) : Out :=
  s.onWaiting q fun c => match c.instr with
    | .cmdWait w => if (s.queue q).waitk = 1 then some (execCmdWait w (s.again q c)) else none
    | _ => none

/-- 15 R392. -/
def execWaitTimeout (q : Nat) (s : State) : Out :=
  s.onWaiting q fun c => match c.instr with
    | .cmdWait w => if s.waitOver q w 0 then some (.next ((s.again q c).endWith w.d (statusReg stTimeout 0))) else none
    | _ => none

/-- 15 R394. The front end keeps the time of I/O die 0's unit. -/
def execTimeat (w : CWord) (s : State) : Out :=
  let d := s.die 8
  .next (if !d.unlk && decide (s.creg w.a ≤ d.ptime) then s.endCommand id else s.holdCommand (.timeat w) 2)

/-- 15 R394. -/
def execTimeatReached (q : Nat) (s : State) : Out :=
  s.onWaiting q fun c => match c.instr with
    | .timeat w => some (execTimeat w (s.again q c))
    | _ => none

/-! ## Launching (15 R398–R402, 16 R422, 17 R430) -/

/-- The command ends with a status that the record's STATUS also gets. -/
def State.refuseLaunch (s : State) (d : BitVec 4) (a : Word) (code detail : Nat) : State :=
  let x := s.mine
  (s.endWith d (statusReg code detail)).putStatus x.attr.ctx x.objs a code detail

/-- The most recent launches that DEPN names. -/
def lastOf (n : Nat) (l : List Nat) : List Nat := l.drop (l.length - n)

/-- A launch of the queue in issue that has passed its checks. -/
def State.queueLaunch (s : State) (d : BitVec 4) (a : Word) (r : LaunchRec) (handles : List Nat) : Launch :=
  let x := s.mine
  { num := 0, ctx := x.attr.ctx, record := r, handles := handles, queue := some (s.myQueue, d.toNat), round := s.myQueue,
    root := none, ownTasks := false, placed := false, dispatched := 0, exited := 0, trigged := 0,
    producers := lastOf r.depn x.since, model := 0xFF, adpt := 0xFFF, addr := a, objs := x.objs, refs := none,
    under := none, block := none }

/-- The launch waits for admission, and the queue with it. -/
def State.submit (s : State) (i : Instr) (l : Launch) : State :=
  let s := s.holdCommand i 6
  { s with waiting := s.waiting ++ [l] }

/-- 15 R401. -/
def execCmdLaunch (w : CWord) (s : State) : Out :=
  let a := s.creg w.a
  let v := s.queueView s.myQueue
  if a.toNat % 128 ≠ 0 then .next (s.stopQueue stopMalformed a)
  else
    command s (.cmdLaunch w) ((s.cmdPlace v a ⟨128, 128, true, false, false, 16⟩).bind fun _ s =>
      (s.readRecord v a).bind fun b s => (s.checkRecord v b s.mine.since.length fun _ => true).bind fun c s =>
        match c with
        | .error e => .ok () (s.refuseLaunch w.d a e.1 e.2)
        | .ok (r, handles) => .ok () (s.submit (.cmdLaunch w) (s.queueLaunch w.d a r handles)))

/-- The version of a model slot that an invocation may use, or the status that refuses it. -/
def Model.require (m : Model) (vid : Nat) : Option (Nat × Nat) :=
  match m.findVer vid [verPresent] with
  | none => some (stVersionAbsent, 0)
  | some e => if (m.entry e).meas then none else some (stNotMeasured, 0)

/-- References of its own, on the slot and on the version. -/
def State.takeOwn (s : State) (slot model ver : Nat) : State × Except (Nat × Nat) Taken :=
  ((s.takeSlot slot).takeVer model ver, .ok ⟨slot, model, ver, true, none⟩)

/-- A hold of the current frame, or references of its own where the table is full or there is no frame (16 R421). -/
def State.takeHeld (s : State) (q slot model ver : Nat) : State × Except (Nat × Nat) Taken :=
  let x := s.queue q
  if 0 < x.calls.length ∧ x.holds.length < holdTableSize then
    let s := (s.takeSlot slot).takeVer model ver
    let s := s.setQueue q { x with holds := x.holds ++ [⟨s.nextId, x.calls.length, slot, model, ver, false⟩] }
    ({ s with nextId := s.nextId + 1 }, .ok ⟨slot, model, ver, false, some s.nextId⟩)
  else s.takeOwn slot model ver

/-- The hold of the current frame for a model and a slot. -/
def Queue.frameHold (x : Queue) (slot model : Nat) : Option AdpHold :=
  if x.calls.isEmpty then none
  else x.holds.find? fun h => !h.left && h.depth == x.calls.length && h.slot == slot && h.model == model

/-- Step 1 of INVOKE (15 R402, 16 R422). -/
def State.invokeRefs (s : State) (q slot model : Nat) (pin : Option Nat) : State × Except (Nat × Nat) Taken :=
  let m := s.model model
  let a := s.adapter slot
  let named := slot != noSlot
  if !m.resident then (s, .error (stNotResident, 0))
  else if named && a.model != model then (s, .error (stAdapterRefused, a.st))
  else
    match pin, (s.queue q).frameHold slot model with
    | some v, _ =>
      if named && a.st != slotLive then (s, .error (stAdapterRefused, a.st))
      else (match m.require v with
        | some e => (s, .error e)
        | none => s.takeOwn slot model v)
    | none, some h =>
      if named && a.st == slotGone then (s, .error (stAdapterRefused, slotGone))
      else (s, .ok ⟨slot, model, h.ver, false, some h.id⟩)
    | none, none =>
      if named && a.st != slotLive then (s, .error (stAdapterRefused, a.st))
      else
        let v := if named then a.bver else (m.entry m.cur).vid
        (match m.require v with
        | some e => (s, .error e)
        | none => s.takeHeld q slot model v)

/-- The references that step 1 took are released, but for a hold. -/
def State.giveBack (s : State) (t : Taken) : State := if t.own then s.dropRefs (some (t.slot, t.model, t.ver)) else s

/-- The offset of a device block within an object, where the object's extents map it (17 R430). -/
def State.offsetIn (s : State) (o : ObjDesc) (block : Nat) : Option Nat :=
  ((List.range (cdiv o.size (2 ^ 21))).filterMap fun x =>
    let e := extentOf (s.walkedExtent o x)
    let base := keyLpddr e.die e.base
    let off := x * 2 ^ 21 + (block - base)
    if e.present && !e.host && decide (base ≤ block) && decide (block < base + 2 ^ 21) && decide (off + 128 ≤ o.size) then
      some off else none).head?

/-- The offset of an invocation block in the object that element 0 of a handle list names. -/
def State.blockOffset (s : State) (c block : Nat) (handles : List Nat) : Option Nat :=
  (handles.head?.bind (s.objRow c)).bind fun r => s.offsetIn r.desc block

/-- The device address of a queue's invocation block. -/
def Queue.blockAddr (x : Queue) (b : Nat) : Nat := devKey (x.attr.ibase + 128 * b)

/-- Steps 2 and 3 of INVOKE with what step 1 took. -/
def State.invokeGo (s : State) (i : Instr) (w : CWord) (ext : List Word) (t : Taken) : Res Unit :=
  let q := s.myQueue
  let x := s.queue q
  let v := s.queueView q
  let key := x.blockAddr x.nextBlk
  let m := s.model t.model
  let entry := ((m.findVer t.ver [verPresent, verRetiring]).map fun e => (m.entry e).entry).getD 0
  if (tfind x.blocks x.nextBlk).isSome then
    .ok () ((s.setQueue q { x with taken := some t }).holdCommand i 5)
  else if !s.devUp key then .trap cDieLost (BitVec.ofNat 64 key)
  else
    let s := (s.touch x.attr.ctx (bits key 38 36)).putBytes key ((List.range 16).flatMap fun i => bytesOf 8 (ext.getD i 0).toNat)
    (s.cmdPlace v entry ⟨128, 128, true, false, false, 16⟩).bind fun _ s => (s.readRecord v entry).bind fun b s =>
      (s.checkRecord v b x.since.length fun h => (s.blockOffset x.attr.ctx key h).isSome).bind fun c s =>
        match c with
        | .error e => .ok () ((s.giveBack t).refuseLaunch w.d entry e.1 e.2)
        | .ok (r, handles) =>
          let off := (s.blockOffset x.attr.ctx key handles).getD 0
          let r := { r with args := BitVec.ofNat 64 (8 * 2 ^ 60 + off), done := s.creg w.b }
          let l := { s.queueLaunch w.d entry r handles with
            model := BitVec.ofNat 8 t.model, adpt := BitVec.ofNat 12 t.slot,
            refs := if t.own then some (t.slot, t.model, t.ver) else none, under := t.under, block := some x.nextBlk }
          .ok () ((s.setQueue q { s.queue q with taken := some t }).submit i l)

/-- An INVOKE that cannot be read stops its queue and gives back what step 1 took; one that waits keeps it. -/
def invokeOut (s : State) (i : Instr) (t : Taken) (r : Res Unit) : Out :=
  let keep := fun (s : State) (t : Option Taken) => s.setMine { s.mine with taken := t }
  match r with
  | .ok _ u => .next (if u.mine.cur.isNone then keep u none else u)
  | .trap c v => .next ((keep (s.giveBack t) none).stopAtAccess c v)
  | .hold h => .next ((keep s (some t)).holdAccess i h)

/-- 15 R402. -/
def execInvoke (w : CWord) (ext : List Word) (s : State) : Out :=
  let i := Instr.invoke w ext
  let q := s.myQueue
  match s.mine.taken with
  | some t => invokeOut s i t (s.invokeGo i w ext t)
  | none =>
    let pin := if w.auxBit 5 then some (bits (s.creg w.a).toNat 15 0) else none
    match s.invokeRefs q (bits w.imm.toNat 19 8) (bits w.imm.toNat 7 0) pin with
    | (s, .error e) => .next (s.endWith w.d (statusReg e.1 e.2))
    | (s, .ok t) => invokeOut s i t (s.invokeGo i w ext t)

/-- 15 R402. -/
def execInvokeBlockFree (q : Nat) (s : State) : Out :=
  s.onWaiting q fun c => match c.instr with
    | .invoke w ext => if (s.queue q).waitk = 5 then some (execInvoke w ext (s.again q c)) else none
    | _ => none

/-! ## Graph nodes (15 R403, R404) -/

/-- A launch has not completed. -/
def State.pending (s : State) (n : Nat) : Bool := (tfind s.launches n).isSome

/-- An early launch whose tasks have all bound. -/
def State.mayCarry (s : State) (n : Nat) : Bool :=
  (tfind s.launches n).any fun l => l.record.early && decide (l.record.n ≤ l.dispatched)

/-- An early launch that a cooperative pre-emption keeps from binding further: no boundary waits for it (12 R330). -/
def State.barred (s : State) (n : Nat) : Bool :=
  (tfind s.launches n).any fun l => l.record.early && decide (l.dispatched < l.record.n) && (s.ctx l.ctx).coop

/-- 15 R403. -/
def execGraph (w : CWord) (s : State) : Out :=
  let x := s.mine
  let live := x.since.filter s.pending
  let carried := x.carried.filter s.pending
  .next
    (if (carried.any fun n => !s.barred n) || live.any fun n => !s.mayCarry n && !s.barred n then s.holdCommand (.graph w) 4
    else if x.slice.stop then
      (s.setMine { x with slice := { x.slice with stop := false } }).stopQueue stopGangLate 0
    else
      let s := s.endCommand fun x => { x with node := w.imm.toNat, since := [], carried := carried ++ live }
      if (s.ctx x.attr.ctx).coop then s.setMine { s.mine with st := .saved } else s)

/-! ## Adapters (15 R405) -/

/-- The adapter slot that IMM names. -/
def cSlot (w : CWord) : Nat := bits w.imm.toNat 11 0

/-- 15 R405. -/
def execBind (w : CWord) (s : State) : Out :=
  let r := s.claimSlot (cSlot w) s.mine.attr.ctx (bits (s.creg w.a).toNat 7 0)
  .next (r.1.endWith w.d (statusReg (if r.2 then stOk else stBusy) 0))

/-- 15 R405. -/
def execEvict (w : CWord) (s : State) : Out :=
  .next
    (match s.evictSlot (cSlot w) s.mine.attr.ctx with
    | some t => t.endWith w.d (statusReg stOk 0)
    | none => s.endWith w.d (statusReg stAdapterRefused (s.adapter (cSlot w)).st))

/-! ## Gang slices (15 R413–R415) -/

/-- Every pre-emption requested under a gang number has reached its last stage; none is requested under 0 (20 R474). -/
def State.gangReady (s : State) (g : Nat) : Bool :=
  g == 0 || s.ctxs.all fun c => !(c.2.gang == g && (c.2.stage == .halting || c.2.stage == .armed))

/-- The front end's time has reached `t` picoseconds after T0. -/
def State.pastT0 (s : State) (x : GangSlice) (ps : Nat) : Bool :=
  decide (x.t0.toNat * 1000 + ps ≤ (s.die 8).ptime.toNat * 1000)

/-- The guard, in picoseconds. -/
def GangSlice.guard (x : GangSlice) : Nat := 2 * x.bound + 2000000

/-- The slice opens and the queue goes on. -/
def State.openSlice (s : State) (d : BitVec 4) : State :=
  s.endCommand fun x => { x.setReg d.toNat (statusReg stOk 0) with slice := { x.slice with opened := true } }

/-- A gang message to every other member. -/
def State.tellGang (s : State) (x : GangSlice) (arrived : Bool) : State :=
  let others := x.members &&& ~~~(BitVec.ofNat 256 (2 ^ s.pod.self))
  { s with podSent := s.podSent ++ [⟨arrived, x.id, others⟩] }

/-- The first bad byte of a gang descriptor. -/
def gangError (b : List Byte) : Option Nat :=
  if fieldAt b 32 1 ≠ 1 then some 32 else (rangeFrom 33 31).find? fun i => fieldAt b i 1 != 0

/-- 15 R413. -/
def execGang (w : CWord) (s : State) : Out :=
  let d8 := s.die 8
  if d8.unlk then .next (s.endWith w.d (statusReg stTimeUnlocked 0))
  else
    let v := s.queueView s.myQueue
    let want : Want := ⟨64, 64, true, false, false, 16⟩
    command s (.gang w) ((s.cmdPlace v (s.creg w.b) want).bind fun p s => (s.readPlace v p).bind fun b s =>
      let members := BitVec.ofNat 256 (fieldAt b 0 32)
      match gangError b with
      | some off => .ok () (s.endWith w.d (statusReg stBadRecord off))
      | none =>
        if !members.getLsbD s.pod.self then .ok () (s.endWith w.d (statusReg stBadRecord 0))
        else
          let limit := bits w.imm.toNat 15 0
          let y := s.mine
          let x : GangSlice := ⟨s.creg w.a, bits w.imm.toNat 31 16, if limit = 0 then 200 else limit, d8.bound, false,
            false, y.slice.stop, members⟩
          let s := s.setMine { y with slice := x, slices := if y.slice.opened then y.slices ++ [y.slice] else y.slices }
          .ok () (if s.pastT0 x 0 && s.gangReady x.id then s.openSlice w.d else s.holdCommand (.gang w) 3))

/-- What an event makes of a queue that waits at its GANG. -/
def State.atGang (s : State) (q : Nat) (f : CWord → State → Option State) : Out :=
  s.onWaiting q fun c => match c.instr with
    | .gang w => if (s.queue q).waitk = 3 then (f w (s.again q c)).map .next else none
    | _ => none

/-- 15 R413. -/
def execGangStart (q : Nat) (s : State) : Out :=
  let x := (s.queue q).slice
  s.atGang q fun w s => if s.pastT0 x 0 && !x.late && s.gangReady x.id then some (s.openSlice w.d) else none

/-- 15 R414. -/
def execGangGuardExpiry (q : Nat) (s : State) : Out :=
  let x := (s.queue q).slice
  s.atGang q fun _ s =>
    if s.pastT0 x x.guard && !x.late && !s.gangReady x.id then
      let s := s.setQueue q { s.queue q with slice := { x with late := true } }
      some ((s.tellGang x false).tellCtx (s.queue q).attr.ctx evGangLate [q, x.id])
    else none

/-- 15 R414. -/
def execGangArrived (q : Nat) (s : State) : Out :=
  let x := (s.queue q).slice
  s.atGang q fun w s =>
    if x.late && s.gangReady x.id then
      some (((s.tellGang x true).openSlice w.d).tellCtx (s.queue q).attr.ctx evGangArrived [q, x.id])
    else none

/-- The front end's time has passed the limit of a slice. -/
def State.pastLimit (s : State) (x : GangSlice) : Bool := decide (x.t0.toNat + 1000 * x.limit < (s.die 8).ptime.toNat)

/-- A member of the slice's gang is late. -/
def State.lateIn (s : State) (x : GangSlice) : Bool := s.gangLate.any fun e => e.1 == x.id

/-- 15 R415. A member that started notes the stop for its next GRAPH, its last slice's limit and those of slices before it each
once; one that still waits at the limit stops at its GANG. -/
def execGangLateLimit (q : Nat) (s : State) : Out :=
  let y := s.queue q
  let x := y.slice
  if x.opened && s.pastLimit x then
    .next (s.setQueue q { y with slice := { x with opened := false, stop := x.stop || s.lateIn x } })
  else if y.slices.any s.pastLimit then
    .next (s.setQueue q { y with
      slice := { x with stop := x.stop || y.slices.any fun z => s.pastLimit z && s.lateIn z },
      slices := y.slices.filter fun z => !s.pastLimit z })
  else if !s.pastT0 x (1000000 * x.limit) then .next s
  else s.atGang q fun _ s => if s.gangReady x.id then none else some (s.stopQueue stopGangLate 0)

/-- 15 R415. -/
def execGangLateReceive (gang sender : Nat) (s : State) : Out :=
  .next (if s.gangLate.contains (gang, sender) then s else { s with gangLate := s.gangLate ++ [(gang, sender)] })

/-- 15 R415. -/
def execGangArrivedReceive (gang sender : Nat) (s : State) : Out :=
  .next { s with gangLate := s.gangLate.filter fun e => e != (gang, sender) }

/-! ## Reports, summaries and the end (15 R395, R416, R417) -/

/-- 15 R395. -/
def execReport (w : CWord) (s : State) : Out :=
  .next ((s.tellCtx s.mine.attr.ctx (w.imm.toNat % 2 ^ 16) [s.myQueue, w.imm.toNat, (s.creg w.a).toNat]).endCommand id)

/-- The summary written in 64-byte lines. -/
def State.writeSummary (s : State) (v : View) (a : Word) (b : List Byte) : Res Unit :=
  (Res.collect (List.range (b.length / 64)) s fun i s =>
    s.cmdPlace v (a + BitVec.ofNat 64 (64 * i)) ⟨64, 64, false, true, false, 16⟩).bind fun ps s =>
      s.storeAll v frontOwed (((List.range ps.length).zip ps).map fun e => ⟨e.2, 3, slice b (64 * e.1) 64⟩)

/-- 15 R416, R417. -/
def execSummary (w : CWord) (s : State) : Out :=
  let b := (s.endCommand id).summaryBytes
  command s (.summary w) ((s.writeSummary (s.queueView s.myQueue) (s.creg w.a) b).bind fun _ s =>
    .ok () (s.endWith w.d (statusReg stOk 0)))

/-- 15 R395. -/
def execCmdHalt (s : State) : Out := .next (s.stopQueue stopHalted 0)

end Sys2Proof.Machine
end

