-- ==== Sys2Proof/Machine/Rings.lean ====
section
/-! DEFINITION. The host's rings: completion entries, events, and how they reach host memory (spec 20 R470–R474). -/
namespace Sys2Proof.Machine

/-! ## The completion ring (20 R470–R472) -/

/-- A ring size that the device takes: a power of two from 16 to 4,096. -/
def ringOk (n : Nat) : Bool := [16, 32, 64, 128, 256, 512, 1024, 2048, 4096].contains n

/-- The completion ring has room for one entry more. -/
def Fn.room (f : Fn) : Bool := ringOk f.crsize && (f.crhead + 1) % f.crsize != f.crtail

/-- A completion entry of 32 bytes. -/
def completionEntry (kind status tag : Nat) (res : List Byte) : List Byte :=
  layOut 8 [(0, 1, kind), (2, 2, status), (4, 4, tag)] ++ (res ++ List.replicate 24 0).take 24

/-- An entry written at the head of a function's completion ring. -/
def State.putEntry (s : State) (f : Nat) (e : List Byte) : State :=
  let x := s.fn f
  (s.putBytes (keyHost (x.crbase.toNat + 32 * x.crhead)) e).setFn f { x with crhead := (x.crhead + 1) % x.crsize }

/-- Completions that wait are written, oldest first, while there is room. -/
def State.pumpCompletions (s : State) (f : Nat) (l : List (List Byte)) : State :=
  match l with
  | [] => s
  | e :: t =>
    if (s.fn f).room then
      let s := s.putEntry f e
      (s.setFn f { s.fn f with waiting := t }).pumpCompletions f t
    else s

/-- The code of an event as an entry carries it. -/
def Event.status (e : Event) : Nat := if e.code < 2 ^ 16 then e.code else (Config.eventCode e.code).toNat

/-- The entry of an event; the spec does not lay out its data (log 21). -/
def Event.entry (e : Event) : List Byte :=
  completionEntry 2 e.status 0 (bytesOf 24 (Config.eventData e.code e.data).toNat)

/-- Events are written in the order they arose, each to its function's ring while there is room. -/
def State.pumpEvents (s : State) (l : List Event) : State :=
  match l with
  | [] => s
  | e :: t =>
    if (s.fn e.fn).room && (s.fn e.fn).waiting.isEmpty && !s.events.any (fun x => x.fn == e.fn) then
      (s.putEntry e.fn e.entry).pumpEvents t
    else ({ s with events := s.events ++ [e] }).pumpEvents t

/-- Whatever waits for the host is written as far as its rings have room. -/
def State.pump (s : State) : State :=
  let s := (s.fns.map (·.1)).foldl (fun s f => s.pumpCompletions f (s.fn f).waiting) s
  if s.events.isEmpty then s else ({ s with events := [] }).pumpEvents s.events

/-! ## Completing a message (20 R471, R472, R474) -/

def msOk : Nat := 0
def msBad : Nat := 1
def msNotSecured : Nat := 2
def msNotOwner : Nat := 3
def msResetting : Nat := 4
def msDebug : Nat := 5
def msBadState : Nat := 6
def msDieBusy : Nat := 0x0201
def msDieNotOnline : Nat := 0x0202
def msNoSpace : Nat := 0x0203
def msRefused : Nat := 0x0204

/-- The message in issue completes with a status and result bytes. -/
def State.complete (s : State) (status : Nat) (res : List Byte) : State :=
  let m := s.turn.msg
  let x := s.fn m.fn
  s.setFn m.fn { x with waiting := x.waiting ++ [completionEntry 1 status m.tag.toNat res] }

/-- A completion with no result. -/
def State.answer (s : State) (status : Nat) : State := s.complete status []

/-- A refusal with its detail. -/
def State.refuse (s : State) (status detail : Nat) : State := s.complete status (bytesOf 4 detail)

/-- A result in the buffer that the message names (20 R474). -/
def State.answerBuffer (s : State) (b : List Byte) : State :=
  let a := s.turn.msg.buf.toNat
  if a % 64 ≠ 0 then s.answer msBad else (s.putBytes (keyHost a) b).complete msOk (bytesOf 4 b.length)

end Sys2Proof.Machine
end

