-- ==== Sys2Proof/Machine/Weight.lean ====
section
/-! DEFINITION. The weight tier: taking targets, pulsing, flipping, draining and spoiling rows, the hash tree, loading a version, and
re-calibration (spec 18 R432–R448, 16 R427). -/
namespace Sys2Proof.Machine

/-! ## Banks and rows (18 R432, R437–R439) -/

/-- Rows that a bank names, and the spares after them. -/
def bankRows : Nat := 262144
def bankSpares : Nat := 4096

/-- Rows in the free pool. -/
def Bank.free (b : Bank) : Nat := bankSpares - b.taken + b.tail.length

/-- The head of the free pool. -/
def Bank.head (b : Bank) : Option Nat := if b.taken < bankSpares then some (bankRows + b.taken) else b.tail.head?

/-- The pool without its head. -/
def Bank.pop (b : Bank) : Bank :=
  if b.taken < bankSpares then { b with taken := b.taken + 1 } else { b with tail := b.tail.drop 1 }

/-- WEAR of a physical row. -/
def Bank.wearOf (b : Bank) (row : Nat) : Nat := tget 0 b.wear row

/-- A row pulsed once more; the counter saturates. -/
def Bank.pulse (b : Bank) (row : Nat) : Bank := { b with wear := tset 0 b.wear row (min 16777215 (b.wearOf row + 1)) }

/-- A bank row mapped to a physical row; an unlisted row maps the one of its number. -/
def Bank.mapRow (b : Bank) (row phys : Nat) : Bank :=
  { b with map := if phys = row then terase b.map row else tput b.map row phys, draining := b.draining ++ [b.phys row] }

/-- Management events without a code of the spec's (log 21). -/
def evFreeLow : Nat := 0x1000F
def evRowSpoiled : Nat := 0x10010
def evModelFailed : Nat := 0x10011
def evModelLoaded : Nat := 0x10012

/-- The event of a unit that fails its step of start-up (21 R487). -/
def evStartFailed : Nat := 0x8002

/-- The die of a bank. -/
def bankDie (b : Nat) : Nat := pairDie (b / 128)

/-- A bank changed, with the event of its free pool falling below 64 and of its becoming empty. -/
def State.changeBank (s : State) (k : Nat) (b : Bank) : State :=
  let old := (s.bank k).free
  let t := s.setBank k b
  let t := if 64 ≤ old ∧ b.free < 64 then t.tellMgmt evFreeLow [bankDie k, k, b.free] else t
  if 0 < old ∧ b.free = 0 then t.tellMgmt evFreeLow [bankDie k, k, 0] else t

/-- The bank, bank row and offset of a byte of an object. -/
def State.rowOf (s : State) (id row : Nat) : Nat × Nat :=
  let o := s.wobj id
  (rowBank o.home (o.lrow + row), rowInBank (o.lrow + row))

/-! ## The hash tree (18 R446) -/

/-- `n` bytes of an object from an offset, as a fetch of its rows now reads them. -/
def State.objectBytes (s : State) (id off n : Nat) : List Byte :=
  (rangeFrom off n).map fun o =>
    let e := s.rowOf id (o / 64)
    s.getByte (keyWeight e.1 ((s.bank e.1).phys e.2) (o % 64))

/-- A hash as bytes, most significant first, as SHA-256 gives it. -/
def hashBytes (h : BitVec 256) : List Byte := (bytesOf 32 h.toNat).reverse

/-- The leaves of an object's tree. -/
def State.leaves (s : State) (id : Nat) : List (BitVec 256) :=
  let size := (s.wobj id).size
  (List.range (cdiv size 4096)).map fun i =>
    let n := min 4096 (size - 4096 * i)
    sha256 (s.objectBytes id (4096 * i) n ++ List.replicate (4096 - n) 0)

/-- One level up: a node without a right sibling is carried up. -/
def levelUp (l : List (BitVec 256)) : List (BitVec 256) :=
  match l with
  | a :: b :: t => sha256 (hashBytes a ++ hashBytes b) :: levelUp t
  | l => l

/-- The node at the top of a level; a level of `2^n` or fewer nodes has it after `n` steps. -/
def topNode (n : Nat) (l : List (BitVec 256)) : BitVec 256 :=
  match n with
  | 0 => l.headD 0
  | k + 1 => topNode k (levelUp l)

/-- An object's root; an object has at most 2^19 lines. -/
def State.objectRoot (s : State) (id : Nat) : BitVec 256 := topNode 20 (s.leaves id)

/-- The root of a version, over its objects in increasing id. -/
def State.versionRoot (s : State) (v : VerEnt) : BitVec 256 :=
  sha256 (2 :: (rangeFrom v.wobj v.nwobj).flatMap fun i => hashBytes (s.objectRoot i))

/-- The stored root of an object's version after a flip. -/
def State.updateRoot (s : State) (id : Nat) : State :=
  let o := s.wobj id
  let m := s.model o.model
  let v := m.entry o.vent
  if v.st = verAbsent ∨ id < v.wobj ∨ v.wobj + v.nwobj ≤ id then s
  else s.setModel o.model (m.setEntry o.vent { v with root := s.versionRoot v })

/-! ## The end of a request (18 R440, 07 R267) -/

/-- RES codes (01 R54). -/
def resDone : Nat := 1
def resMoved : Nat := 2
def resNoRow : Nat := 3
def resDenied : Nat := 4

/-- `WPSTAT` of the issuing task. -/
def State.reportWprog (s : State) (r : WpReq) (res n : Nat) : State :=
  if r.load then s
  else s.modIssuer r.ctx r.owed.slot r.owed.lnum fun t =>
    { t with wseq := t.wseq + 1, witer := BitVec.ofNat 8 (min n 255), wres := BitVec.ofNat 4 res, wbusy := t.wbusy - 1 }

/-- The request leaves the engine. -/
def State.leaveEngine (s : State) (d : Nat) : State := s.setDie d { s.die d with wcur := none }

/-! ## Loading a version (18 R448) -/

/-- The home die of an object. -/
def State.wobjDie (s : State) (id : Nat) : Nat := pairDie (s.wobj id).home

/-- The objects of a version in a state. -/
def State.setObjects (s : State) (v : VerEnt) (st : Nat) : State :=
  (rangeFrom v.wobj v.nwobj).foldl (fun s i => s.setWobj i { s.wobj i with st := st }) s

/-- The load of a version ends: it is present and measured where its root is the signed one, and absent otherwise. -/
def State.endLoad (s : State) (l : ModelLoad) (failed : Bool) : State :=
  let m := s.model l.model
  let v := m.entry l.ent
  let s := { s with loads := s.loads.filter fun x => x != l }
  let root := s.versionRoot v
  if !failed && l.root == some root then
    let s := (s.setObjects v 1).setModel l.model (m.setEntry l.ent { v with st := verPresent, meas := true, root := root })
    s.tellFn l.fn evModelLoaded [l.model, l.ent]
  else ((s.dropVersion l.model l.ent)).tellFn l.fn evModelFailed [l.model, l.ent]

/-- The next row of a load goes to the engine of its home, or the load ends. -/
def State.nextRow (s : State) (l : ModelLoad) : State :=
  match l.rest with
  | [] => s.endLoad l false
  | (id, row, data) :: t =>
    let d := s.wobjDie id
    let s := { s with loads := s.loads.map fun x => if x = l then { l with rest := t, die := d } else x }
    s.setDie d { s.die d with wq := (s.die d).wq ++ [⟨0, id, row, data, ⟨512, none, none, 0, 0⟩, true, 0⟩] }

/-- What the end of a request of a load does for the load. -/
def State.loadStep (s : State) (d : Nat) (r : WpReq) (failed : Bool) : State :=
  if !r.load then s
  else
    let v := fun (l : ModelLoad) => (s.model l.model).entry l.ent
    match s.loads.find? fun l => l.die == d && decide ((v l).wobj ≤ r.obj) && decide (r.obj < (v l).wobj + (v l).nwobj) with
    | none => s
    | some l => if failed then s.endLoad l true else s.nextRow l

/-- A request that ends without a flip. -/
def State.failRequest (s : State) (d : Nat) (r : WpReq) (res n : Nat) : State :=
  (((s.leaveEngine d).reportWprog r res n).settleIssuer r.ctx r.owed.slot).loadStep d r true

/-! ## Targets (18 R440) -/

/-- The head of the pool taken as target; heads already worn out are spoiled on the way. -/
def State.takeTarget (s : State) (fuel d : Nat) (x : WpRun) : State :=
  let e := s.rowOf x.req.obj x.req.row
  let b := s.bank e.1
  match fuel, b.head with
  | 0, _ => s
  | _, none => s.failRequest d x.req resNoRow x.n
  | n + 1, some t =>
    let s := s.changeBank e.1 b.pop
    if x.wlim ≤ b.wearOf t then
      (s.setBank e.1 { s.bank e.1 with spoiled := (s.bank e.1).spoiled ++ [t] }).takeTarget n d { x with spoiled := true }
    else s.setDie d { s.die d with wcur := some { x with target := t, iter := 0 } }

/-- More targets than a bank has rows. -/
def targetFuel : Nat := 266241

/-- A request of a task whose context may not program the object. -/
def State.wpDenied (s : State) (r : WpReq) : Bool := !r.load && !(s.wobj r.obj).pg.getLsbD r.ctx

/-- A request the engine begins. -/
def State.beginRequest (s : State) (d : Nat) (r : WpReq) (rest : List WpReq) : State :=
  let s := s.setDie d { s.die d with wq := rest }
  let x : WpRun := ⟨r, .taken, 0, 0, 0, false, (s.die d).wlim, (s.die d).itmax⟩
  if s.wpDenied r then s.failRequest d r resDenied 0
  else (s.setDie d { s.die d with wcur := some x }).takeTarget targetFuel d x

/-- A request that has not flipped and was issued before one of the same task. -/
def WpReq.before (q r : WpReq) : Bool :=
  !q.load && !r.load && q.owed.slot == r.owed.slot && q.owed.lnum == r.owed.lnum && decide (q.seq < r.seq)

/-- A request has reached its engine: those that its task issued before it, to whatever die, have flipped or ended (07 R267, 09
R312). -/
def State.arrived (s : State) (r : WpReq) : Bool :=
  !s.dies.any fun d => (d.2.wq.any fun q => q.before r)
    || d.2.wcur.any fun x => x.phase != .tree && x.req.before r

/-- 18 R440. The first request that has arrived; a bank being re-calibrated is waited for, by a request that is not denied. -/
def execWpRequestBegin (die : Nat) (s : State) : Out :=
  let x := s.die die
  .next
    (match x.wcur, x.wq.find? s.arrived with
    | none, some r =>
      if !s.dieUp die || (!s.wpDenied r && (s.bank (s.rowOf r.obj r.row).1).rcal == 2) then s else s.beginRequest die r (x.wq.erase r)
    | _, _ => s)

/-- 18 R440, R441. -/
def execWpIterationEnd (die : Nat) (s : State) : Out :=
  .next
    (match (s.die die).wcur with
    | none => s
    | some x =>
      if x.phase ≠ .taken then s
      else
        let k := (s.rowOf x.req.obj x.req.row).1
        let b := (s.bank k).pulse x.target
        let f := s.fresh
        let s := f.2.setBank k b
        let x := { x with n := x.n + 1, iter := x.iter + 1 }
        if Config.checkPasses f.1 then s.setDie die { s.die die with wcur := some { x with phase := .flipping } }
        else if x.itmax ≤ x.iter || x.wlim ≤ b.wearOf x.target then
          (s.setBank k { b with spoiled := b.spoiled ++ [x.target] }).takeTarget targetFuel die { x with spoiled := true }
        else s.setDie die { s.die die with wcur := some x })

/-- A physical row is no longer poisoned. -/
def State.clearRow (s : State) (k row : Nat) : State :=
  { s with poison := terase s.poison (keyWeight k row 0 / 128) }

/-- The flip: the row is the target's from now on. -/
def State.flip (s : State) (d : Nat) (x : WpRun) : State :=
  let e := s.rowOf x.req.obj x.req.row
  let s := (s.putBytes (keyWeight e.1 x.target 0) x.req.data).clearRow e.1 x.target
  let s := s.setBank e.1 ((s.bank e.1).mapRow e.2 x.target)
  let o := s.wobj x.req.obj
  let s := s.setWobj x.req.obj { o with ver := (o.ver + 1) % 2 ^ 32 }
  let s := s.setDie d { s.die d with wcur := some { x with phase := .tree } }
  (s.reportWprog x.req (if x.spoiled then resMoved else resDone) x.n).settleIssuer x.req.ctx x.req.owed.slot

/-- 18 R441. -/
def execWpFlip (die : Nat) (s : State) : Out :=
  .next (match (s.die die).wcur with | none => s | some x => if x.phase = .flipping then s.flip die x else s)

/-- 18 R441, R446. -/
def execWpTreeUpdateEnd (die : Nat) (s : State) : Out :=
  .next
    (match (s.die die).wcur with
    | none => s
    | some x =>
      if x.phase ≠ .tree then s else ((s.leaveEngine die).updateRoot x.req.obj).loadStep die x.req false)

/-- 18 R437, R438. -/
def execDrainingRowFree (bank row : Nat) (s : State) : Out :=
  let b := s.bank bank
  whenOk (b.draining.contains row) s
    (let b := { b with draining := b.draining.erase row }
    if (s.die (bankDie bank)).wlim ≤ b.wearOf row then
      (s.setBank bank { b with spoiled := b.spoiled ++ [row] }).tellMgmt evRowSpoiled [bankDie bank, bank, row]
    else s.setBank bank { b with tail := b.tail ++ [row] })

/-! ## Re-calibration (18 R445) -/

/-- 18 R445. -/
def execRecalStart (bank : Nat) (s : State) : Out :=
  let busy := (s.die (bankDie bank)).wcur.isSome
  whenOk ((s.bank bank).rcal == 1 && !busy) s (s.setBank bank { s.bank bank with rcal := 2 })

/-- 18 R445. -/
def execRecalEnd (bank : Nat) (s : State) : Out :=
  whenOk ((s.bank bank).rcal == 2) s (s.setBank bank { s.bank bank with rcal := 0 })

/-! ## Measurement at start-up (18 R447) -/

/-- The fuse counter that withdraws model versions (14 R372). -/
def modelFuse : Nat := 3

/-- VERSION_WITHDRAWN as a completion or an event carries it (14 R367, 20 R472). -/
def codeWithdrawn : Nat := 0x0106

/-- A model version as the event of a start-up step names it, among the units of 21 R487. -/
def modelUnit (model ent : Nat) : List Nat := [8, model, ent]

/-- 18 R447, once the home dies are online, and once in a start-up (21 R487). A withdrawn version is reported with both values
(14 R372). -/
def execModelStartupMeasure (model ent : Nat) (s : State) : Out :=
  let m := s.model model
  let v := m.entry ent
  let t := { s with measured := (model, ent) :: s.measured }
  .next
    (if v.st ≠ verPresent ∨ v.meas ∨ s.measured.contains (model, ent)
        ∨ (rangeFrom v.wobj v.nwobj).any (fun i => !s.dieUp (s.wobjDie i)) then s
    else if v.svn < tget 0 s.fuses modelFuse then
      ((t.setObjects v 0).setModel model (m.setEntry ent VerEnt.init)).tellHost evStartFailed
        (modelUnit model ent ++ [codeWithdrawn, v.svn, tget 0 s.fuses modelFuse])
    else if s.versionRoot v = v.root then t.setModel model (m.setEntry ent { v with meas := true })
    else t.tellHost evStartFailed (modelUnit model ent))

/-! ## Registers (18 R439) -/

/-- `WPCFG`. -/
def Die.wpcfg (d : Die) : Nat := at_ d.wlim 20 + d.itmax

/-- `WTBANK`. -/
def Bank.wtbank (b : Bank) : Nat := at_ b.rcal 30 + at_ b.spoiled.length 16 + b.free

end Sys2Proof.Machine
end

