-- ==== Sys2Proof/Machine/Dies.lean ====
section
/-! DEFINITION. Dies and what joins them: loss, warm reset, modules and pod links, time, errors and power (spec 12 R347, R348, 19
R449–R468, 21 R484–R492). -/
namespace Sys2Proof.Machine

/-! ## Events without a code of the spec's (log 21) -/

def evDieLost : Nat := 0x10013
def evUnresumable : Nat := 0x10014
def evWarmStep : Nat := 0x10015
def evReplays : Nat := 0x10016
def evIoDie : Nat := 0x10017

/-! ## Losing a die (12 R348, 19 R463–R465) -/

/-- The mask of lost compute dies, with bit 63 (12 R348). -/
def State.lostMask (s : State) : Word :=
  BitVec.ofNat 64 (2 ^ 63 + packBits ((List.range 8).map fun d => (s.die d).st == .lost))

/-- The cores of a die, as a mask. -/
def dieCores (d : Nat) : BitVec 256 :=
  BitVec.ofNat 256 ((List.range 256).foldl (fun m c => if coreDie c = d then m ||| 2 ^ c else m) 0)

/-- Traps of several tasks of a context, raised together and delivered once its engines have stopped. -/
def State.raiseAll (s : State) (c : Nat) (ks : List Nat) (r : Nat → Raised) : State :=
  if ks.isEmpty then s
  else
    let s := ks.foldl (fun s k => s.setTask k { s.task k with raised := (s.task k).raised ++ [r k] }) s
    let s := s.setCtx c { s.ctx c with halt := true }
    if s.quiet c then s.deliver c else s

/-- What a lost die, or I/O die, does to a context that used it: `mask` is the value of its traps. -/
def State.loseContext (s : State) (mask : Word) (c : Nat) : State :=
  let gone := (s.ctxSlots c).filter fun k => (s.die (slotDie k)).st == .lost
  let names := gone.map fun k => (s.task k).idx
  let s := gone.foldl (fun s k => { s with tasks := terase s.tasks k }) s
  let s := s.tellCtx c evDieLost (c :: mask.toNat :: names)
  let live := if (s.ctx c).st = .running then s.ctxSlots c else []
  let s := s.raiseAll c live fun k => ⟨0, cDieLost, 0, mask, (s.task k).hart.pc⟩
  let s := (s.ctx c).tasks.foldl (fun s t => s.assignFault none ⟨cDieLost, 0, c, t.slot, t.task.lnum, mask, none⟩) s
  if s.sectionsLost c then s.tellCtx c evUnresumable [c] else s

/-- What stood on a lost die or was on its way to or from it is gone; what its tasks' transfers left elsewhere is poisoned. -/
def State.dropTraffic (s : State) (d : Nat) : State :=
  let s := (s.xfers.filter fun x => slotDie x.slot == d && !x.failed).foldl State.poisonRest s
  let s := (s.requests.filter fun r => slotDie r.slot == d).foldl State.endRequest s
  State.sweepBoards { s with
    xfers := s.xfers.filter fun x => slotDie x.slot != d, requests := s.requests.filter fun r => slotDie r.slot != d,
    arrivals := s.arrivals.filter fun a => slotDie a.owed.slot != d && pairDie a.pair != d,
    queued := s.queued.filter fun q => coreDie q.core != d && (keyHome q.key).die != some d,
    chans := s.chans.filter fun c => c.ch.src != d && c.ch.dst != d,
    cores := s.cores.map fun c => if coreDie c.1 = d then (c.1, { c.2 with sidelog := [] }) else c }

/-- A compute die becomes lost. -/
def State.loseDie (s : State) (d : Nat) : State :=
  let s := ((s.setDie d { s.die d with st := .lost, ready := false, lpReady := 0, warm := 0 }).dropTraffic d).forgetAcks (dieCores d)
  let used := ((List.range 128).filter fun c => (s.ctx c).diemask.getLsbD d)
  used.foldl (fun s c => s.loseContext s.lostMask c) s

/-! ## Modules, replays and permits (19 R456, R457, R460) -/

/-- An online die that no other online die reaches. -/
def State.cutOff (s : State) (d : Nat) : Bool :=
  let others := (List.range 8).filter fun e => e != d && s.dieUp e
  s.dieUp d && !others.isEmpty && others.all fun e => (s.firstHop e d).isNone

/-- Dies that have no route left are lost, and with them those that only they led to (19 R463). -/
def State.loseCutOff (s : State) : State :=
  (List.range 64).foldl (fun s i => if s.cutOff (i % 8) then s.loseDie (i % 8) else s) s

/-- 12 R348, 19 R463. -/
def execDieLost (die : Nat) (s : State) : Out :=
  whenOk (decide (die < 8) && (s.die die).st != .lost) s (s.loseDie die).loseCutOff

/-- 19 R465. Every context is affected, whatever it used; the other I/O die, where it works, reports the failure. -/
def execIoDieFailure (k : Nat) (s : State) : Out :=
  whenOk (decide (k < 2) && (s.die (8 + k)).st != .lost) s
    (let s := s.setDie (8 + k) { s.die (8 + k) with st := .lost, ready := false }
    let s := { s with units := s.units &&& ~~~(BitVec.ofNat 8 (2 ^ (4 + k))) }
    let s := if s.ioUp (1 - k) then s.tellHost evIoDie [k] else s
    let mask := BitVec.ofNat 64 (2 ^ 63 + 2 ^ (8 + k))
    ((s.ctxs.map (·.1)).foldl (fun s c => if (s.ctx c).st = .absent then s else s.loseContext mask c) s).loseCutOff)

/-- The link at a module of a die, or between the I/O dies, marked up or down. -/
def State.setModule (s : State) (d m : Nat) (up : Bool) : State :=
  if m = 4 then { s with iodLink := up }
  else
    let x := s.die d
    let b : BitVec 4 := BitVec.ofNat 4 (2 ^ m)
    s.setDie d { x with modules := if up then x.modules ||| b else x.modules &&& ~~~b }

/-- 19 R457. Routes are chosen afresh for each message, from the links that are up. -/
def execUcieModuleDown (die module : Nat) (s : State) : Out := .next (s.setModule die module false).loseCutOff

/-- The module of the I/O-die link among the bits of `retraining`: it is kept with die 8. -/
def State.retrainBit (s : State) (d m : Nat) : Bool :=
  if m = 4 then (s.die 8).retraining.getLsbD 0 else (s.die d).retraining.getLsbD m

def State.setRetrain (s : State) (d m : Nat) (on : Bool) : State :=
  let k := if m = 4 then 8 else d
  let b : BitVec 4 := BitVec.ofNat 4 (2 ^ (if m = 4 then 0 else m))
  let x := s.die k
  s.setDie k { x with retraining := if on then x.retraining ||| b else x.retraining &&& ~~~b }

/-- 19 R457. -/
def execUcieModuleRetrainEnd (die module : Nat) (s : State) : Out :=
  whenOk (s.retrainBit die module) s ((s.setRetrain die module false).setModule die module true)

/-- 19 R457. The replay happens inside the link; it is counted. -/
def execFlitCrcReplay (die module : Nat) (s : State) : Out :=
  let x := s.die die
  let n := tget 0 x.replays module + 1
  let s := s.setDie die { x with replays := tput x.replays module n }
  .next (if n = Config.replayLimit + 1 then s.tellMgmt evReplays [die, module, n] else s)

/-- Messages of a class from a die that leave by a module and hold a buffer until they are applied. -/
def State.unapplied (s : State) (d m cls : Nat) : Nat :=
  (s.chans.map fun c =>
    if c.ch.cls == cls && c.ch.src == d && s.firstHop d c.ch.dst == some m then c.unacked.length - c.applied else 0).foldl (· + ·) 0

/-- 19 R460. A buffer that a message still needs is not freed: while messages wait, each applied one's permit is theirs. -/
def execPermitReturn (die module cls : Nat) (s : State) : Out :=
  let n := s.permitsHeld die module cls
  whenOk (decide (s.unapplied die module cls < n)) s (s.setPermits die module cls (n - 1))

/-! ## Pod links (19 R461, R462) -/

/-- A pod port's bit. -/
def State.setPort (s : State) (k : Nat) (up : Bool) : State :=
  let b : BitVec 16 := BitVec.ofNat 16 (2 ^ k)
  { s with pod := { s.pod with up := if up then s.pod.up ||| b else s.pod.up &&& ~~~b } }

/-- The port by which a message to a package goes out: its primary while that is up, and its alternate otherwise. -/
def Pod.portTo (p : Pod) (pkg : Nat) : Nat :=
  let r := tget (0, 0) p.routes pkg
  if p.up.getLsbD r.1 then r.1 else r.2

/-- 19 R462. -/
def execPodLinkDown (port : Nat) (s : State) : Out := .next (s.setPort port false)

/-- 19 R462. -/
def execPodLinkUp (port : Nat) (s : State) : Out := .next (s.setPort port true)

/-! ## Time (19 R449–R454) -/

/-- The limit of BOUND in picoseconds, in a pod and without one. -/
def State.boundLimit (s : State) : Nat := if s.pod.member then 50000 else 4000

/-- The die that follows no other. -/
def State.timeMaster (s : State) (d : Nat) : Bool := d == 8 && (!s.pod.member || s.pod.master == s.pod.self)

/-- How far a die's time moves over `ns` nanoseconds of master time, in parts of 2^-16 ns: the master's is that time; another's
is as its own clock has it, within the bounds of lock, and at half rate while it waits for its offset to go (R452). -/
def Die.rate (d : Die) (master : Bool) (ns own : Nat) : Nat :=
  if master then ns * 65536
  else if d.acquiring then ns * 32768
  else if d.unlk then own
  else min (ns * 65536 * 10001 / 10000) (max ((ns * 65536 * 9999 + 9999) / 10000) own)

/-- BOUND as holdover has grown it. -/
def Die.heldBound (d : Die) : Nat := d.holdBase + (d.sinceEx - d.holdAt) / 10

/-- A locked die whose bound passes the limit of its lock domain is no longer locked (R454). -/
def Die.within (d : Die) (limit : Nat) : Die :=
  if !d.unlk && decide (limit < d.bound) then { d with unlk := true, bound := 0x7FFFFFFF } else d

/-- A die's time and cycles after a span: `cyc` of its cycles, and `own` parts of 2^-16 ns by its own clock. -/
def Die.pass (d : Die) (master : Bool) (limit ns cyc own : Nat) : Die :=
  let adv := d.frac.toNat + d.rate master ns own
  let n := adv / 65536
  let d := { d with
    cycle := d.cycle + BitVec.ofNat 64 cyc, ptime := d.ptime + BitVec.ofNat 64 n, frac := BitVec.ofNat 16 adv,
    sinceEx := d.sinceEx + n, offset := if d.acquiring then max 0 (d.offset - (ns / 2 : Nat)) else d.offset }
  if d.holdover && !d.unlk then { d with bound := d.heldBound }.within limit else d

/-- How far the times of two dies are apart, in picoseconds. -/
def Die.apart (d e : Die) : Nat := 1000 * (d.ptime.toNat - e.ptime.toNat + (e.ptime.toNat - d.ptime.toNat))

/-- A die that keeps time with the others. -/
def Die.keepsTime (d : Die) : Bool := !d.unlk && d.st != .lost

/-- Two dies that both keep time differ by no more than the lesser of their bounds (R453). -/
def Die.near (d e : Die) : Bool := !d.keepsTime || !e.keepsTime || decide (d.apart e ≤ min d.bound e.bound)

/-- Every two of the package's dies do. -/
def State.inStep (s : State) : Bool := (List.range 10).all fun d => (List.range 10).all fun e => (s.die d).near (s.die e)

/-- Time passes on every die of the list: its number is its place. Dies that keep time never drift apart beyond their bounds, so
a span in which they would is none (R453). -/
def State.elapse (s : State) (ns : Nat) (ds : List (Nat × Nat)) : State :=
  let t := ((List.range ds.length).zip ds).foldl
    (fun s e => s.setDie e.1 ((s.die e.1).pass (s.timeMaster e.1) s.boundLimit ns e.2.1 e.2.2)) s
  if t.inStep then t else s

/-- The least bound that a time may have: how far it is from any other die that keeps time, in picoseconds. -/
def State.spread (s : State) (x : Die) : Nat :=
  (List.range 10).foldl (fun n e => if (s.die e).keepsTime then max n (x.apart (s.die e)) else n) 0

/-- A live bound of a time: a free value within its limit, and no less than the dies are apart (R453). -/
def State.liveBound (s : State) (x : Die) (f : Nat) : Nat := min s.boundLimit (max (s.spread x) (Config.timeBound f))

/-- 19 R451, R453. -/
def execTimeExchange (die delay : Nat) (offset : Int) (s : State) : Out :=
  let f := s.fresh
  let x := s.die die
  .next
    (if s.timeMaster die then s
    else f.2.setDie die { x with
      delay := delay, offset := offset, sinceEx := 0, holdover := false, holdAt := 0, bound := s.liveBound x f.1 })

/-- 19 R454. -/
def execHoldoverEnter (die : Nat) (s : State) : Out :=
  let x := s.die die
  whenOk (!s.timeMaster die && !x.holdover && decide (4000 ≤ x.sinceEx)) s
    (s.setDie die { x with holdover := true, holdBase := x.bound, holdAt := x.sinceEx })

/-- 19 R454. -/
def execTimeUnlock (die : Nat) (s : State) : Out :=
  let x := s.die die
  whenOk (x.holdover && !x.unlk && decide (s.boundLimit < x.bound)) s (s.setDie die { x with unlk := true, bound := 0x7FFFFFFF })

/-- A die locked to its master. -/
def State.lock (s : State) (d : Nat) (x : Die) : State :=
  let f := s.fresh
  f.2.setDie d { x with unlk := false, acquiring := false, offset := 0, bound := s.liveBound x f.1 }

/-- A die with this time may lock: it is as near to every die that keeps time as that die's bound has it (R453). -/
def State.mayLock (s : State) (d : Nat) (x : Die) : Bool :=
  (List.range 10).all fun e => e == d || !(s.die e).keepsTime || decide (x.apart (s.die e) ≤ min s.boundLimit (s.die e).bound)

/-- A die whose counter steps forward by its offset. -/
def Die.stepped (x : Die) : Die := { x with ptime := x.ptime + BitVec.ofNat 64 x.offset.natAbs }

/-- 19 R452. `offset` is how far the counter is ahead of the master, in nanoseconds: behind, it steps forward; ahead, it runs
at half rate first. -/
def execTimeLockAcquire (die : Nat) (s : State) : Out :=
  let x := s.die die
  .next
    (if !x.unlk || x.holdover then s
    else if 0 < x.offset then s.setDie die { x with acquiring := true }
    else if s.mayLock die x.stepped then s.lock die x.stepped else s)

/-! ## Warm reset (19 R466–R468) -/

/-- Every message of a channel is applied and acknowledged. -/
def State.settleChannels (s : State) (d : Nat) : State :=
  let mine := fun (c : Chan) => c.ch.src == d || c.ch.dst == d
  let s := (s.performWhere fun _ => true).drainWhere mine
  { s with chans := s.chans.map fun c => if mine c then { c with unacked := [], applied := 0 } else c }

/-- A line is homed on a die. -/
def lineOn (d line : Nat) : Bool := decide (keyLpddr d 0 ≤ line * 128) && decide (line * 128 < keyLpddr (d + 1) 0)

/-- Lines of a pair's cache that `sel` selects go back to their homes and leave it. -/
def State.flushLines (s : State) (p : Nat) (sel : Nat → Bool) : State :=
  (s.pair p).cache.foldl (fun s e => if sel e.1 then s.writeBack p e.1 else s) s

/-- The pairs of a die. -/
def diePairs (d : Nat) : List Nat := rangeFrom (16 * d) 16

/-- Everything the logic of a die holds goes back to its reset value; local store is lost. -/
def State.resetLogic (s : State) (d : Nat) : State :=
  let x := s.die d
  let s := s.setDie d { x with
    cycle := 0, frac := 0, unlk := true, bound := 0x7FFFFFFF, holdover := false, acquiring := false, sinceEx := 0, llc := [],
    wlim := Die.init.wlim, itmax := Die.init.itmax, replays := [], errs := [] }
  let s := (diePairs d).foldl (fun s p => s.zeroStore p 0 (2 ^ 25)) s
  let keep := fun (p : Nat) => pairDie p != d
  { s with
    pairs := s.pairs.filter fun e => keep e.1, mats := s.mats.filter fun e => keep e.1,
    cores := s.cores.filter fun e => coreDie e.1 != d, fws := s.fws.filter fun e => coreDie e.1 != d,
    slotRecs := s.slotRecs.filter fun e => slotDie e.1 != d,
    banks := s.banks.map fun e => if bankDie e.1 = d then (e.1, { e.2 with rcal := 0 }) else e }

/-- The time that a die takes up after its warm reset: that of a die that keeps time, the master's first (log 62). -/
def State.packageTime (s : State) (d : Nat) : Word :=
  ((((8 :: List.range 10).filter fun e => e != d && (s.die e).keepsTime).head?).map fun e => (s.die e).ptime).getD (s.die d).ptime

/-- What the end of a step of a warm reset does; none while it cannot end. -/
def State.warmStep (s : State) (d : Nat) : Option State :=
  let x := s.die d
  match x.warm with
  | 1 => some (s.settleChannels d)
  | 2 => some ((List.range 128).foldl (fun s p => if pairDie p = d then s else s.flushLines p (lineOn d)) s)
  | 3 => some ((diePairs d).foldl (fun s p => (s.flushLines p fun l => !lineOn d l).setPair p
      { (s.flushLines p fun l => !lineOn d l).pair p with cache := [] }) s)
  | 4 => some (s.setDie d { x with llc := [] })
  | 5 => some ((s.resetLogic d).forgetAcks (dieCores d))
  | 6 => some (s.setDie d { x with modules := 15, retraining := 0 })
  | 7 => some (s.lock d { x with ptime := s.packageTime d })
  | 8 =>
    let mine := fun (c : Chan) => c.ch.src == d || c.ch.dst == d
    if s.chans.any fun c => mine c && !c.unacked.isEmpty then none
    else some (({ s with chans := s.chans.filter fun c => !mine c }).setDie d { x with permits := [] })
  | 9 => some (s.setDie d { x with st := .online, ready := true })
  | _ => none

/-- 19 R467. The event of step 9 is DIE_READY. -/
def execWarmResetStepEnd (die : Nat) (s : State) : Out :=
  let n := (s.die die).warm
  .next
    (match s.warmStep die with
    | none => s
    | some t =>
      (t.setDie die { t.die die with warm := if n = 9 then 0 else n + 1 }).tellHost evWarmStep [die, n])

/-- 21 R489. -/
def execLpddrRetrainEnd (die channel : Nat) (s : State) : Out :=
  let x := s.die die
  whenOk (x.lpRetrain.getLsbD channel) s
    (s.setDie die { x with lpRetrain := x.lpRetrain &&& ~~~(BitVec.ofNat 16 (2 ^ channel)) })

/-- 21 R486. -/
def execLpddrChannelFailure (die channel : Nat) (s : State) : Out :=
  let x := s.die die
  let b : BitVec 16 := ~~~(BitVec.ofNat 16 (2 ^ channel))
  .next (s.setDie die { x with lpReady := x.lpReady &&& b, lpRetrain := x.lpRetrain &&& b })

/-! ## Errors (21 R490, 12 R346, R347) -/

/-- The event codes of corrected and uncorrectable errors. -/
def evCorrected : Nat := 0x8010
def evUncorrectable : Nat := 0x8011

/-- The die of a unit. -/
def errDie (u : ErrUnit) : Nat :=
  match u with
  | .memory key => if key < 2 ^ 39 then bits key 38 36 else if 2 ^ 66 ≤ key ∧ key < 2 ^ 67 then pairDie ((key - 2 ^ 66) / 2 ^ 25) else 8
  | .register slot _ _ => slotDie slot
  | .accRow pair _ => pairDie pair
  | .weightRow bank _ => bankDie bank
  | .llc die _ => die

/-- The unit as an event names it: its kind and its address. -/
def errName (u : ErrUnit) : List Nat :=
  match u with
  | .memory key => [0, key]
  | .register slot file num => [1, slot, file, num]
  | .accRow pair row => [2, pair, row]
  | .weightRow bank row => [3, bank, row]
  | .llc die line => [4, die, line]

/-- Poison at what the unit holds. -/
def State.spoil (s : State) (u : ErrUnit) : State :=
  match u with
  | .memory key => s.poisonLine (key / 128)
  | .register slot file num =>
    if s.regPoison.contains (slot, file, num) then s else { s with regPoison := s.regPoison ++ [(slot, file, num)] }
  | .accRow pair row =>
    let m := s.mat pair
    s.setMat pair { m with acc := tset AccRow.init m.acc row { tget AccRow.init m.acc row with poison := true } }
  | .weightRow bank row => s.poisonLine (keyWeight bank row 0 / 128)
  | .llc die line => s.poisonLine (keyLpddr die 0 / 128 + line)

/-- 21 R490. -/
def execUncorrectableError (u : ErrUnit) (s : State) : Out := .next ((s.spoil u).tellHost evUncorrectable (errName u))

/-- The unit's kind as its counter's number: each die counts LPDDR, registers, accumulator rows, weight rows, LLC and local store. -/
def errKind (u : ErrUnit) : Nat :=
  match u with
  | .memory key => if key < 2 ^ 39 then 0 else 5
  | .register _ _ _ => 1
  | .accRow _ _ => 2
  | .weightRow _ _ => 3
  | .llc _ _ => 4

/-- 21 R490. -/
def execCorrectedError (u : ErrUnit) (s : State) : Out :=
  let d := errDie u
  let x := s.die d
  let n := tget 0 x.errs (errKind u) + 1
  let s := s.setDie d { x with errs := tput x.errs (errKind u) n }
  .next (if n = Config.errorLimit + 1 then s.tellHost evCorrected (errName u) else s)

/-! ## Power (21 R491, R492) -/

/-- MGOV.BUDGET of a die's cores, one each by member; 0 is stored as 1, and more than 32 as 32 (01 R52). -/
def State.setBudgets (s : State) (d : Nat) (l : List Nat) : State :=
  ((diePairs d).zip l).foldl (fun s e => s.setMat e.1 { s.mat e.1 with budget := max 1 (min 32 e.2) }) s

/-- 21 R491. -/
def execRailTelemetry (die : Nat) (budgets : List Nat) (s : State) : Out := .next (s.setBudgets die budgets)

/-- Events of the thermal rules. -/
def evHot : Nat := 0x8020
def evTrip : Nat := 0x8021

/-- No budget rises (21 R492). -/
def State.lowerBudgets (s : State) (d : Nat) (l : List Nat) : State :=
  s.setBudgets d (((diePairs d).zip l).map fun e => min e.2 (s.mat e.1).budget)

/-- 21 R492. -/
def execJunctionOvertemp (die : Nat) (budgets : List Nat) (s : State) : Out :=
  .next ((s.lowerBudgets die budgets).tellHost evHot [die])

/-- A target cut off returns to its pool, and rows that were draining are free (18 R444). -/
def State.settleBanks (s : State) : State :=
  let s := { s with banks := s.banks.map fun e => (e.1, { e.2 with tail := e.2.tail ++ e.2.draining, draining := [], rcal := 0 }) }
  (List.range 8).foldl (fun s d =>
    match (s.die d).wcur with
    | some x =>
      if x.phase = .tree then s
      else
        let k := (s.rowOf x.req.obj x.req.row).1
        s.setBank k { s.bank k with tail := (s.bank k).tail ++ [x.target] }
    | none => s) s

/-- A version entry that lasts: present, unmeasured and without references. -/
def VerEnt.durable (v : VerEnt) : VerEnt := if v.st = verPresent then { v with meas := false, refs := 0 } else VerEnt.init

/-- Versions that were not present are absent, and their objects unmapped. -/
def State.dropUnfinished (s : State) : State :=
  (s.models.map (·.1)).foldl (fun s k => [0, 1].foldl (fun s e =>
    if ((s.model k).entry e).st = verPresent ∨ ((s.model k).entry e).st = verAbsent then s else s.dropVersion k e) s) s

/-- What outlasts a loss of power or a cold reset: the weight tier and its tables, fuses, firmware images, and the host's own
memory (18 R444, R447, 14 R371). -/
def State.durable (s : State) : State :=
  let s := s.settleBanks.dropUnfinished
  let lasts := fun (e : Nat × Byte) => (decide (2 ^ 64 ≤ e.1) && decide (e.1 < 2 ^ 66)) || (decide (2 ^ 150 ≤ e.1) && decide (e.1 < 2 ^ 192))
  let r := State.reset
  { r with
    freeIdx := s.freeIdx, mem := s.mem.filter lasts,
    poison := s.poison.filter fun e => decide (2 ^ 143 ≤ e.1) && decide (e.1 < 2 ^ 185),
    banks := s.banks, wobjs := s.wobjs.filter fun e => e.2.st != 2, fuses := s.fuses,
    models := s.models.map fun e => (e.1, { e.2 with v0 := e.2.v0.durable, v1 := e.2.v1.durable }),
    cfeA := s.cfeA, cfeB := s.cfeB, cfeActiveB := s.cfeActiveB,
    dies := s.dies.map fun e => (e.1, { Die.init with
      loft := e.2.loft, fwA := e.2.fwA, fwB := e.2.fwB, fwActiveB := e.2.fwActiveB }) }

/-- Power is gone: what lasts, and nothing works until a cold reset. -/
def State.powerOff (s : State) : State := { s.durable with power := false }

/-- 18 R444. -/
def execPowerLoss (s : State) : Out := .next s.powerOff

/-- 21 R492. The event is written before power falls, where the host link is up. -/
def execThermalTrip (s : State) : Out :=
  .next (if s.units.getLsbD 0 then ((s.tellHost evTrip []).pump).powerOff else s.powerOff)

/-- 21 R487. The package starts its sequence with nothing ready. -/
def execColdReset (s : State) : Out := .next { s.durable with power := true }

end Sys2Proof.Machine
end

