-- ==== Sys2Proof/Machine/Messages.lean ====
section
/-! DEFINITION. Host messages about contexts, objects, extents, queues and pre-emption: what every message is checked for, and what
each does (spec 20 R469–R474, R477, 08 R279, R284, R288, 15 R373–R376, 12 R330–R336, 21 R488). -/
namespace Sys2Proof.Machine

/-! ## What every message is checked for (20 R469, R472, R477, R483, 21 R485) -/

/-- Bits of the readiness map below 8 (21 R484). -/
def unitHost : Nat := 0
def unitSec : Nat := 1
def unitCfe : Nat := 2
def unitLoader : Nat := 3

def State.unitUp (s : State) (u : Nat) : Bool := s.units.getLsbD u

/-- The function of the message in issue. -/
def State.sender (s : State) : Nat := s.turn.msg.fn

/-- A context belongs to the sender. -/
def State.owns (s : State) (c : Nat) : Bool := tfind s.fnOf c == some s.sender

/-- The checks of a message that names a context, or none; `sec` where it must be secured in every case, `unit` the unit
that serves it. The first that fails gives the status (log 32). -/
def State.gate (s : State) (ctx : Option Nat) (sec : Bool) (unit : Nat) : List (Bool × Nat) :=
  let prot := match ctx with | none => false | some c => (s.ctx c).prot
  let foreign := match ctx with | none => false | some c => !s.owns c
  [(!s.unitUp unitSec || !s.unitUp unit, msBadState), ((s.fn s.sender).flr != 0, msResetting),
    ((sec || prot) && !s.turn.msg.sec, msNotSecured), (foreign, msNotOwner)]

/-- A message: the first check that fails gives its status; it has its effect otherwise. -/
def message (s : State) (checks : List (Bool × Nat)) (k : State) : Out :=
  match checks.find? (·.1) with
  | some e => .next (s.answer e.2)
  | none => .next k

/-- A context exists. -/
def State.lives (s : State) (c : Nat) : Bool := (s.ctx c).st != .absent

/-! ## Contexts (20 R469, R474, R478, R482) -/

/-- Debug states (20 R475). -/
def debugPart : Nat := 1
def debugFull : Nat := 2

/-- Interface states (20 R470). -/
def tdiLocked : Nat := 1
def tdiRun : Nat := 2
def tdiError : Nat := 3

/-- A security event, stamped with the package's time. -/
def State.logSec (s : State) (kind what detail : Nat) : State :=
  { s with secLog := s.secLog ++ [⟨kind, s.sender, what, (s.die 8).ptime, detail⟩] }

/-- CTX_CREATE. -/
def execCtxCreate (ctx : Nat) (prot : Bool) (fn entries : Nat) (s : State) : Out :=
  let made := s.setCtx ctx { Ctx.init with st := .running, prot := prot, fn := fn, nobj := entries }
  let made := if prot then made.logSec 2 ctx 0 else made
  message s (s.gate none prot unitSec ++
    [(!s.owns ctx || fn != s.sender, msNotOwner), (s.lives ctx, msBadState),
      (prot && (s.fn s.sender).tdi != tdiRun, msBadState), (prot && s.debug == debugFull, msDebug)])
    (made.answer msOk)

/-- Every key slot of a context becomes empty (20 R480). -/
def State.eraseKeys (s : State) (c : Nat) : State := { s with keys := s.keys.filter fun e => e.2.ctx != some c }

/-- A queue is gone, its holds released (16 R422). -/
def State.removeQueue (s : State) (q : Nat) : State :=
  let s := (s.queue q).holds.foldl (fun s h => s.dropHold h) s
  { s with queues := terase s.queues q }

/-- Queues of a context. -/
def State.queuesOf (s : State) (c : Nat) : List Nat := (s.queues.filter fun e => e.2.live && e.2.attr.ctx == c).map (·.1)

/-- Memory without a code object's sections (14 R367). -/
def State.dropCode (s : State) (d : Nat) : State :=
  let s := s.dropBytes (keyCode d 0 0) (keyCode (d + 1) 0 0)
  { s with codes := terase s.codes d }

/-- A core without a context's parked writes and cached extents. -/
def Core.without (x : Core) (c : Nat) : Core :=
  { x with sidelog := x.sidelog.filter fun e => e.ctx != c, xcache := x.xcache.filter fun e => e.ctx != c }

/-- A pair without a context's diversion entries and admission. -/
def Pair.without (x : Pair) (c : Nat) : Pair :=
  { x with diversions := x.diversions.filter fun d => d.ctx != c, guests := x.guests &&& ~~~(BitVec.ofNat 128 (2 ^ c)) }

/-- A die without the ranges of these launches. -/
def Die.without (x : Die) (l : List Nat) : Die := { x with ranges := x.ranges.filter fun r => !l.contains r.lnum }

/-- What a context leaves in tables that name it, once no task of it runs. -/
def State.forget (s : State) (c : Nat) : State :=
  let mine := (s.waiting ++ s.launches.map (·.2)).filter fun l => l.ctx == c
  let nums := (s.launches.filter fun l => l.2.ctx == c).map (·.1)
  let s := mine.foldl (fun (s : State) l => s.dropRefs l.refs) s
  let t : State :=
    { s with
      waiting := s.waiting.filter fun l => l.ctx != c, launches := s.launches.filter fun l => l.2.ctx != c,
      statusDue := s.statusDue.filter fun d => d.ctx != c, bars := s.bars.filter fun b => b.ctx != c,
      slotRecs := s.slotRecs.filter fun r => r.2.ctx != c, cores := s.cores.map fun e => (e.1, e.2.without c),
      pairs := s.pairs.map fun e => (e.1, e.2.without c), dies := s.dies.map fun e => (e.1, e.2.without nums) }
  let t := (t.queuesOf c).foldl (fun (s : State) q => s.removeQueue q) t
  let t := ((t.codes.filter fun e => e.2.ctx == c).map (·.1)).foldl (fun (s : State) d => s.dropCode d) t
  { t with ctxs := terase t.ctxs c }

/-- CTX_DESTROY. -/
def execCtxDestroy (ctx : Nat) (s : State) : Out :=
  message s (s.gate (some ctx) false unitSec ++ [(!s.lives ctx || !(s.ctxSlots ctx).isEmpty, msBadState)])
    (((s.eraseKeys ctx).forget ctx).answer msOk)

/-- FN_ASSIGN. -/
def execFnAssign (ctx fn : Nat) (s : State) : Out :=
  message s (s.gate none false unitSec ++ [(s.sender != 0, msNotOwner), (s.lives ctx, msBadState)])
    (({ s with fnOf := if fn = 0xFF then terase s.fnOf ctx else tput s.fnOf ctx fn }).answer msOk)

/-! ## Objects (08 R279) -/

/-- The fields of entry bytes 8–47, where they are ones that R279 allows. -/
def objFields (b : List Byte) : Option ObjRow :=
  let f := fieldAt b
  let key := f 16 2
  let prot := bitOf key 15
  let mode := f 18 1
  let ok := decide (1 ≤ f 0 8) && decide (f 0 8 ≤ 2 ^ 52) && f 8 8 % 8 == 0 && bits key 14 13 == 0 && decide (f 19 1 < 4)
    && (if prot then mode == 1 || mode == 2 else mode == 0)
  if ok then
    some ⟨⟨0, 0, f 0 8, f 8 8, prot, bits key 12 0, mode, bitOf (f 19 1) 0, bitOf (f 19 1) 1⟩, f 20 4, f 24 8, f 32 8⟩
  else none

/-- An entry is loaded in an object window: a task's, bound or saved, or a queue's. -/
def State.entryLoaded (s : State) (c idx : Nat) : Bool :=
  let has := fun (t : Tbl ObjDesc) => t.any fun e => e.2.idx == idx
  (s.ctxSlots c).any (fun k => has (s.task k).objs) || (s.ctx c).tasks.any (fun t => has t.task.objs)
    || (s.queuesOf c).any fun q => has (s.queue q).objs

/-- OBJ_WRITE. An unused entry gets the next GID; another keeps its own. -/
def execObjWrite (ctx idx : Nat) (ent : List Byte) (s : State) : Out :=
  let x := s.ctx ctx
  let old := s.objRow ctx idx
  let gid := match old with | some r => r.desc.gid | none => s.nextGid
  let next := if old.isSome then s.nextGid else s.nextGid + 1
  match objFields ent with
  | none => message s (s.gate (some ctx) false unitSec ++ [(true, msBad)]) s
  | some r =>
    let r := { r with desc := { r.desc with idx := idx, gid := gid } }
    message s (s.gate (some ctx) false unitSec ++
      [(!s.lives ctx || s.entryLoaded ctx idx, msBadState), (decide (x.nobj ≤ idx), msBad)])
      ((({ s with nextGid := next }).setCtx ctx { x with objs := tput x.objs idx r }).complete msOk (bytesOf 6 gid))

/-! ## Extents (08 R284, R288) -/

/-- The event of step 3 of R284. -/
def evInvalidated : Nat := 0x8030

/-- The event of an extent declared unresolvable, without a code of the spec's (log 21). -/
def evExtentFatal : Nat := 0x10018

/-- Entries of an extent in any core's cache. -/
def State.cachedEverywhere (s : State) (c obj ext : Nat) : List Nat :=
  s.cores.flatMap fun e => (e.2.xcache.filter fun x => x.ctx == c && x.obj == obj && x.ext == ext).map (·.val)

/-- Every write to a frame is performed there, and no cache holds a line of it. -/
def State.settleFrame (s : State) (e : Nat) : State :=
  let x := extentOf e
  let base := if x.host then keyHost x.base else keyLpddr x.die x.base
  let inside := fun (line : Nat) => decide (base ≤ line * 128) && decide (line * 128 < base + 2 ^ 21)
  let s := s.drainWhere fun c => (c.unacked.drop c.applied).any fun m => inside (m.key / 128)
  (s.pairs.map (·.1)).foldl (fun s p => s.flushLines p inside) s

/-- What the context's tasks, bound or saved, have translated is performed, and their pairs' caches hold none of it: an entry that has
left every extent cache may have served it. -/
def State.settleAccesses (s : State) (c : Nat) : State :=
  let slots := s.ctxSlots c ++ (s.ctx c).tasks.map (·.slot)
  let s := (s.performWhere fun q => slots.contains q.owed.slot).drainWhere fun k => slots.any k.carries
  (slots.map slotPair).eraseDups.foldl (fun s p => s.flushLines p fun _ => true) s

/-- Steps 2 and 3 of R284. -/
def State.invalidateExtent (s : State) (c obj ext : Nat) : State :=
  let s := s.settleAccesses c
  let s := (s.cachedEverywhere c obj ext).foldl (fun s e => s.settleFrame e) s
  let keep := fun (x : ExtentEnt) => !(x.ctx == c && x.obj == obj && x.ext == ext)
  { s with cores := s.cores.map fun e => (e.1, { e.2 with xcache := e.2.xcache.filter keep }) }

/-- The checks of an extent message. -/
def State.extentGate (s : State) (c idx : Nat) : List (Bool × Nat) :=
  s.gate (some c) false unitSec ++ [((s.objRow c idx).isNone, msBadState)]

/-- EXTENT_INVALIDATE. -/
def execExtentInvalidate (ctx idx ext : Nat) (s : State) : Out :=
  message s (s.extentGate ctx idx)
    (((s.invalidateExtent ctx idx ext).answer msOk).tellFn s.sender evInvalidated [ctx, idx, ext])

/-- A stream that an extent held goes on at its next turn. -/
def State.letGo (s : State) (a : Agent) : State :=
  let s := s.clearHold a
  { s with heldSince := s.heldSince.filter fun e => e.1 != a }

/-- EXTENT_MAP. Held accesses go on at their next turn, and the side log is replayed by its own step. -/
def execExtentMap (ctx idx ext : Nat) (s : State) : Out :=
  message s (s.extentGate ctx idx)
    (((s.heldAt ctx idx ext).foldl (fun s e => s.letGo e.1) s).answer msOk)

/-- The handle of a global address. -/
def handleIn (a : Word) : Nat := bits a.toNat 59 52

/-- A read of a transfer or of a remote atomic that its extent keeps from being made. -/
def State.readAwaits (s : State) (v : View) (obj ext : Nat) (a : Word) (n : Nat) : Bool :=
  namesExtent v.objs obj ext a && (match s.place v a { wantSource with n := n } with | .ok q _ => !q.there | _ => false)

/-- A piece of the transfer that waits to be read from an extent. -/
def State.pieceAwaiting (s : State) (x : Xfer) (obj ext : Nat) : Option XRun :=
  if x.failed || x.kind == .prefetch then none
  else
    let v := s.issuerView x.ctx x.slot x.lnum
    let ps := x.pieces
    (((List.range ps.length).zip ps).find? fun e =>
      !tget false x.landed e.1 && s.readAwaits v obj ext e.2.src e.2.n).map (·.2)

/-- Transfers and remote atomics of a context that wait for an extent, each transfer with a piece that does. -/
def State.xfersAwaiting (s : State) (c obj ext : Nat) : List (Xfer × XRun) :=
  (s.xfers.filter fun x => x.ctx == c).filterMap fun x => (s.pieceAwaiting x obj ext).map fun r => (x, r)

def State.requestsAwaiting (s : State) (c obj ext : Nat) : List Request :=
  s.requests.filter fun r => r.ctx == c && s.readAwaits (s.issuerView c r.slot r.owed.lnum) obj ext r.addr r.size

/-- The age of what a stream waits for: that of its access where it is noted, younger than everything else where it is not. -/
def State.heldAge (s : State) (a : Agent) : Nat := ((s.heldSince.find? fun e => e.1 == a).map (·.2.2)).getD s.nextId

/-- An access that an unresolvable extent ends: its age, its task's slot, its engine and its handle. -/
abbrev Doomed := Nat × Nat × Nat × Nat

/-- An access among others, the oldest first. -/
def insertDoomed (x : Doomed) (l : List Doomed) : List Doomed :=
  l.takeWhile (fun y => decide (y.1 ≤ x.1)) ++ x :: l.dropWhile fun y => decide (y.1 ≤ x.1)

/-- Accesses that an unresolvable extent ends, the oldest first (08 R288). -/
def State.doomed (s : State) (c obj ext : Nat) : List Doomed :=
  let logs := (s.cores.flatMap fun e => e.2.sidelog) ++ (s.ctx c).moved
  let parked := (logs.filter fun e => e.ctx == c && e.obj == obj && e.ext == ext).map fun e =>
    (e.age, e.owed.slot, e.eng, handleIn e.addr)
  let held := (s.heldAt c obj ext).map fun e => (s.heldAge e.1, (agentSlot e.1).getD 0, agentEng e.1, e.2)
  let moving := (s.xfersAwaiting c obj ext).map fun e => (e.1.id, e.1.slot, 3, handleIn e.2.src)
  let remote := (s.requestsAwaiting c obj ext).map fun r => (r.id, r.slot, 3, handleIn r.addr)
  (parked ++ held ++ moving ++ remote).foldl (fun l x => insertDoomed x l) []

/-- Parked writes of an extent are discarded. -/
def State.discardParked (s : State) (c obj ext : Nat) : State :=
  let s := { s with cores := s.cores.map fun e => (e.1, { e.2 with sidelog := dropExtent c obj ext e.2.sidelog }) }
  if (s.ctx c).moved.isEmpty then s else s.setCtx c { s.ctx c with moved := dropExtent c obj ext (s.ctx c).moved }

/-- Queues that wait for an extent stop (15 R375, R388). -/
def State.stopAtExtent (s : State) (c obj ext : Nat) : State :=
  (s.queuesOf c).foldl (fun s q =>
    let x := s.queue q
    if x.waitk = 8 ∧ namesExtent x.objs obj ext x.hold.v then
      ((match x.cur with | some k => s.again q k | none => s.queueTurn q x.pc x.pc)).stopQueue stopAccess
        (extAddr (bits x.hold.v.toNat 59 52) ext)
    else s) s

/-- The deferred faults that the parked writes of an absent context leave (08 R287, 12 R343). -/
def State.deferParked (s : State) (c obj ext : Nat) : State :=
  ((s.ctx c).moved.filter fun e => e.obj == obj && e.ext == ext).foldl (fun s e =>
    s.assignFault none ⟨cPageFatal, 4, c, e.owed.slot, e.owed.lnum, extAddr (bits e.addr.toNat 59 52) ext, e.owed.prod⟩) s

/-- Transfers and remote atomics that wait for an unresolvable extent are over; those of an absent context are faults of its
resume. -/
def State.endAwaiting (s : State) (c obj ext : Nat) (away : Bool) : State :=
  let defer := fun (s : State) (slot lnum : Nat) (a : Word) (prod : Option Gen) =>
    if away then s.assignFault none ⟨cPageFatal, 3, c, slot, lnum, extAddr (handleIn a) ext, prod⟩ else s
  let s := (s.xfersAwaiting c obj ext).foldl (fun s e =>
    defer (s.failXfer e.1 cPageFatal (extAddr (handleIn e.2.src) ext)) e.1.slot e.1.lnum e.2.src e.1.owed.prod) s
  (s.requestsAwaiting c obj ext).foldl (fun s r =>
    (defer (s.endRequest r) r.slot r.owed.lnum r.addr r.owed.prod).settleIssuer c r.slot) s

/-- 08 R288. The accesses of an absent context are faults of its resume. -/
def State.killExtent (s : State) (c obj ext : Nat) : State :=
  let l := s.doomed c obj ext
  let turn := s.turn
  let away := s.isAbsent c && !l.isEmpty
  let s := if away then s.deferParked c obj ext else s
  let s := (s.endAwaiting c obj ext away).discardParked c obj ext
  let s := (s.stopAtExtent c obj ext).setTurn turn
  let s := s.tellCtx c evExtentFatal (c :: obj :: ext :: l.flatMap fun e => [e.2.1, e.2.2.1, e.2.2.2])
  match l with
  | [] => (s.setCtx c { s.ctx c with st := .halted, halt := true }).tellCtx c evHalted [c, cPageFatal]
  | (_, k, eng, h) :: _ =>
    if away then s
    else if s.bound k && (s.ctx c).st == .running then s.raiseTrap k ⟨eng, cPageFatal, 0, extAddr h ext, s.epc k eng⟩
    else s.setCtx c { s.ctx c with st := .halted, halt := true }

/-- EXTENT_FATAL. -/
def execExtentFatal (ctx idx ext : Nat) (s : State) : Out :=
  message s (s.extentGate ctx idx) ((s.answer msOk).killExtent ctx idx ext)

/-! ## Queues (15 R373–R376) -/

/-- Attributes that R373 allows. -/
def queueAttrOk (a : QueueAttr) : Bool :=
  decide (a.prio ≤ 7) && a.rbase % 64 == 0 && decide (64 ≤ a.rsize) && decide (a.rsize ≤ 2 ^ 24) && a.rsize % 64 == 0
    && decide (1 ≤ a.nh) && decide (a.nh ≤ 256) && a.ibase % 128 == 0

/-- The window that a queue's handle list loads. -/
def State.queueWindow (s : State) (a : QueueAttr) : Tbl ObjDesc :=
  s.loadWindow a.ctx ((List.range a.nh).map fun i => s.getNat (devKey (a.hlist + 2 * i)) 2) none

/-- The context of a queue, for the checks of a message that names it. -/
def State.queueCtx (s : State) (q : Nat) : Option Nat := if (s.queue q).live then some (s.queue q).attr.ctx else none

/-- The checks of a message about a queue, in one of the given states. -/
def State.queueGate (s : State) (q : Nat) (sts : List QState) : List (Bool × Nat) :=
  s.gate (s.queueCtx q) false unitCfe ++ [(!(s.queue q).live || !sts.contains (s.queue q).st, msBadState)]

def allQStates : List QState := [.created, .running, .waiting, .stopped, .halted, .saved]

/-- QUEUE_CREATE. -/
def execQueueCreate (q : Nat) (attr : QueueAttr) (s : State) : Out :=
  message s (s.gate (some attr.ctx) false unitCfe ++
    [(!queueAttrOk attr, msBad), ((s.queue q).live || !s.lives attr.ctx || !s.devUp (devKey attr.hlist), msBadState)])
    ((s.setQueue q { Queue.init with live := true, attr := attr, objs := s.queueWindow attr }).answer msOk)

/-- QUEUE_CONFIG. A queue stays its context's. -/
def execQueueConfig (q : Nat) (attr : QueueAttr) (s : State) : Out :=
  message s (s.queueGate q [.created, .stopped] ++
    [(!queueAttrOk attr, msBad), (attr.ctx != (s.queue q).attr.ctx || !s.devUp (devKey attr.hlist), msBadState)])
    ((s.setQueue q { s.queue q with attr := attr, objs := s.queueWindow attr }).answer msOk)

/-- The event of a doorbell that is ignored, without a code of the spec's (log 21). -/
def evDoorbell : Nat := 0x10019

/-- QUEUE_DOORBELL (15 R376). -/
def execQueueDoorbell (q head : Nat) (s : State) : Out :=
  let x := s.queue q
  let bad := head % 8 != 0 || decide (x.attr.rsize ≤ head)
  message s (s.queueGate q allQStates)
    (if bad then (s.answer msOk).tellCtx x.attr.ctx evDoorbell [q, head]
    else (s.setQueue q { x with head := head, st := if x.st = .created then .running else x.st }).answer msOk)

/-- QUEUE_RESTART (15 R375, R376). -/
def execQueueRestart (q : Nat) (loc : Word) (s : State) : Out :=
  let x := s.queue q
  let ring := x.calls.isEmpty
  let bad := loc.toNat % 8 != 0 || (ring && decide (x.attr.rsize ≤ loc.toNat))
  message s (s.queueGate q [.stopped, .halted] ++ [(bad, msBad)])
    ((s.setQueue q { x with
      pc := loc, tail := if ring then loc.toNat else x.tail, st := .running, code := 0, waitk := 0,
      cur := none }).answer msOk)

/-- QUEUE_DESTROY. -/
def execQueueDestroy (q : Nat) (s : State) : Out :=
  message s (s.queueGate q [.created, .stopped, .halted]) ((s.removeQueue q).answer msOk)

/-- QUEUE_READ. -/
def execQueueRead (q : Nat) (s : State) : Out :=
  message s (s.queueGate q allQStates) (s.answerBuffer (s.queueRecord q))

/-! ## The cellar pool (21 R488) -/

/-- Bytes of a section. -/
def cellarUnit : Nat := 32 * 2 ^ 20

/-- Entry `i` of a message may join the pool. -/
def State.sectionOk (s : State) (l : List (Nat × Nat)) (i : Nat) : Bool :=
  match l[i]? with
  | none => false
  | some e => s.dieOpen e.1 && e.2 % cellarUnit == 0 && decide (e.2 < 2 ^ 36) && s.channelUp e.1 e.2
      && !s.cellar.contains e && !((List.range l.length).any fun j => j != i && l[j]? == some e)

/-- The sender owns a protected context. -/
def State.ownsProtected (s : State) : Bool := s.ctxs.any fun e => e.2.prot && s.owns e.1

/-- CELLAR_POOL. -/
def execCellarPool (ents : List (Nat × Nat)) (s : State) : Out :=
  message s (s.gate none s.ownsProtected unitSec)
    (match (List.range ents.length).find? fun i => !s.sectionOk ents i with
    | some i => s.refuse msRefused (i + 1)
    | none => ({ s with cellar := s.cellar ++ ents }).complete msOk (bytesOf 4 ents.length))

/-- CELLAR_WITHDRAW. -/
def execCellarWithdraw (die addr : Nat) (s : State) : Out :=
  message s (s.gate none s.ownsProtected unitSec ++ [(s.sectionsInUse.contains (keyLpddr die addr), msBadState)])
    (if s.cellar.contains (die, addr) then ({ s with cellar := s.cellar.filter fun e => e != (die, addr) }).answer msOk
    else s.refuse msRefused 0)

/-! ## Pre-emption (12 R330, R332, R336) -/

/-- PREEMPT_COOP. -/
def execPreemptCoop (ctx : Nat) (s : State) : Out :=
  let x := s.ctx ctx
  message s (s.gate (some ctx) false unitSec ++ [(x.st != .running || x.stage != .none, msBadState)])
    ((s.setCtx ctx { x with coop := true }).answer msOk)

/-- PREEMPT_FORCE. -/
def execPreemptForce (ctx gang : Nat) (s : State) : Out :=
  let x := s.ctx ctx
  let full := (s.ownedPairs ctx).any fun p => decide (diversionSize ≤ (s.pair p).diversions.length)
  message s (s.gate (some ctx) false unitSec ++ [(x.st != .running || x.stage != .none, msBadState), (full, msRefused)])
    (match s.forceSections ctx with
    | some l => (s.acceptForce ctx gang l).answer msOk
    | none => s.answer msNoSpace)

/-- Queues of a context that were saved go on (15 R404). -/
def State.unsaveQueues (s : State) (c : Nat) : State :=
  (s.queuesOf c).foldl (fun s q =>
    if (s.queue q).st = .saved then s.setQueue q { s.queue q with st := .running } else s) s

/-- RESUME. -/
def execResume (ctx : Nat) (s : State) : Out :=
  let x := s.ctx ctx
  message s (s.gate (some ctx) false unitSec ++ [(x.st != .saved && !s.mayResume ctx, msBadState)])
    (if x.st = .saved then
      (((s.setCtx ctx { x with st := .running, coop := false }).unsaveQueues ctx).tellCtx ctx evResumed [ctx]).answer msOk
    else (s.setCtx ctx { x with stage := .resuming }).answer msOk)

end Sys2Proof.Machine
end

