-- ==== Sys2Proof/Machine/Loader.lean ====
section
/-! DEFINITION. The loader: the container and its checks, relocation, placement, measurement and unloading (spec 14 R352–R372). -/
namespace Sys2Proof.Machine

/-- Loader status codes (14 R367). -/
def ldMalformed : Nat := 1
def ldGen : Nat := 2
def ldRange : Nat := 3
def ldSymbol : Nat := 4
def ldTranslate : Nat := 5
def ldWithdrawn : Nat := 6
def ldNoSpace : Nat := 7

/-- A status as a completion carries it (20 R472). -/
def loaderStatus (n : Nat) : Nat := 0x0100 + n

/-- What a step of a load answers: its result, or a status with its detail. -/
abbrev Load (α : Type) := Except (Nat × Nat) α

/-- Malformed at a section or record. -/
def malformedAt (b : Bool) (i : Nat) : Load Unit := if b then .error (ldMalformed, i) else .ok ()

/-! ## The container (14 R352, R353) -/

/-- One section: its kind, and its bytes. -/
structure Section where
  kind : Nat
  off : Nat
  data : List Byte
deriving DecidableEq, Repr

/-- The header of an object. -/
structure Header where
  form : Nat
  gen : Nat
  nsec : Nat
  nrel : Nat
  sect : Nat
  relt : Nat
  svn : Nat
  datah : Nat
  imgcls : Nat
deriving DecidableEq, Repr

def headerOf (b : List Byte) : Header :=
  let f := fieldAt b
  ⟨f 5 1, f 6 1, f 8 4, f 12 4, f 16 8, f 24 8, f 32 4, f 36 1, f 37 1⟩

/-- The header keeps R352. -/
def headerOk (b : List Byte) (h : Header) : Bool :=
  let f := fieldAt b
  decide (64 ≤ b.length) && f 0 4 == 0x374F4D44 && f 4 1 == 1 && decide (h.form ≤ 1) && (h.form == 0 || h.gen == 0) && f 7 1 == 0
    && decide (1 ≤ h.nsec) && decide (h.nsec ≤ 32) && decide (h.nrel ≤ 1048576) && h.sect % 8 == 0 && h.relt % 8 == 0
    && decide (h.imgcls ≤ 1) && f 38 26 == 0 && decide (h.sect + 24 * h.nsec ≤ b.length)
    && decide (h.relt + 16 * h.nrel ≤ b.length)

/-- The unit and the largest size of a kind. -/
def kindLimits (k : Nat) : Nat × Nat :=
  match k with
  | 1 => (4, 2 ^ 24) | 2 => (12, 2 ^ 24) | 3 => (24, 2 ^ 24) | 4 => (4, 2 ^ 24) | 5 => (1, 2 ^ 32) | 6 => (16, 4096)
  | 7 => (128, 2 ^ 64) | 8 => (16, 2 ^ 64) | 9 => (64, 2 ^ 64) | 10 => (16, 2 ^ 64) | 11 => (8, 2 ^ 64)
  | 12 => (16, 2 ^ 64) | 13 => (1, 2 ^ 64) | 14 => (8, 2 ^ 64) | _ => (1, 2 ^ 64)

/-- An entry of the section table keeps R353, beside the entries before it. -/
def sectionEntryOk (b : List Byte) (h : Header) (before : List Section) (i : Nat) : Bool :=
  let f := fun off n => fieldAt b (h.sect + 24 * i + off) n
  let k := f 0 1
  let off := f 8 8
  let size := f 16 8
  f 1 7 == 0 && decide (1 ≤ k) && decide (k ≤ 15) && off % 64 == 0 && decide (off + size ≤ b.length)
    && size % (kindLimits k).1 == 0 && decide (size ≤ (kindLimits k).2)
    && (if h.form = 0 then k != 15 && !before.any fun s => s.kind == k else !([1, 2, 3, 4, 8, 9].contains k))
    && !before.any fun s => decide (s.off < off + size) && decide (off < s.off + s.data.length)

/-- The sections in order, with the check of each. -/
def sectionsFrom (b : List Byte) (h : Header) (before : List Section) (n i : Nat) : Load (List Section) :=
  match n with
  | 0 => .ok before
  | k + 1 =>
    if sectionEntryOk b h before i then
      let e := h.sect + 24 * i
      sectionsFrom b h (before ++ [⟨fieldAt b e 1, fieldAt b (e + 8) 8, slice b (fieldAt b (e + 8) 8) (fieldAt b (e + 16) 8)⟩]) k (i + 1)
    else .error (ldMalformed, i)

/-- The index of the first section of a kind. -/
def sectionIndex (l : List Section) (k : Nat) : Option Nat := l.findIdx? fun s => s.kind == k

/-- The bytes of a kind; none gives no bytes. -/
def kindBytes (l : List Section) (k : Nat) : List Byte := ((l.find? fun s => s.kind == k).map (·.data)).getD []

/-- Entries of `n` bytes. -/
def entriesOf (n : Nat) (b : List Byte) : List (List Byte) := (List.range (b.length / n)).map fun i => slice b (n * i) n

/-! ## Tables (14 R354, R356–R358) -/

/-- Handles the code needs. -/
def needsOf (l : List Section) : List (Nat × Nat × Nat) :=
  (entriesOf 16 (kindBytes l 6)).map fun e => (fieldAt e 0 1, fieldAt e 1 1, fieldAt e 8 8)

/-- The handle list: no handle twice, none that the data section takes. -/
def needsOk (l : List Section) (h : Header) : Bool :=
  let hs := (needsOf l).map (·.1)
  (entriesOf 16 (kindBytes l 6)).all (fun e => decide (fieldAt e 1 1 ≤ 3) && fieldAt e 2 2 == 0) && hs.eraseDups.length == hs.length
    && !((sectionIndex l 5).isSome && hs.contains h.datah)

/-- Safe points. -/
def safeOf (l : List Section) : List SafePoint :=
  (entriesOf 16 (kindBytes l 8)).map fun e =>
    ⟨fieldAt e 0 4, fieldAt e 4 4, fieldAt e 8 2, bitOf (fieldAt e 10 1) 0, bitOf (fieldAt e 10 1) 1⟩

/-- Live masks. -/
def masksOf (l : List Section) : List LiveMask :=
  (entriesOf 64 (kindBytes l 9)).map fun e =>
    { s := BitVec.ofNat 32 (fieldAt e 0 4), p := BitVec.ofNat 12 (fieldAt e 4 2), v := BitVec.ofNat 32 (fieldAt e 8 4),
      x := BitVec.ofNat 32 (fieldAt e 12 4), accLo := fieldAt e 16 2, accN := fieldAt e 18 2,
      ls := (List.range 5).map fun i => (fieldAt e (24 + 8 * i) 4, fieldAt e (28 + 8 * i) 4) }

/-- A bundle begins at a scalar stream address: the stream begins there, or the word before it ends its bundle (03 R84). -/
def bundleAt (b : List Byte) (a : Nat) : Bool := a == 0 || bitOf (fieldAt b (a - 4) 4) 31

/-- A bundle's first word is WAITDEP. -/
def waitdepAt (b : List Byte) (a : Nat) : Bool :=
  bundleAt b a && match decodeFields (fieldAt b a 4) with
  | .ok (.waitdep _) => true
  | _ => false

/-- Safe points are sorted, disjoint and inside the scalar section, and a cooperative one names a WAITDEP. -/
def safeOk (l : List Section) : Bool :=
  let t := safeOf l
  let scalar := kindBytes l 1
  (entriesOf 16 (kindBytes l 8)).all (fun e => decide (fieldAt e 10 1 ≤ 3) && fieldAt e 11 5 == 0)
    && t.all (fun e => e.start % 4 == 0 && decide (e.start < e.stop) && decide (e.stop ≤ scalar.length)
      && decide (e.mask < (masksOf l).length) && (!e.coop || waitdepAt scalar e.start))
    && (t.zip (t.drop 1)).all fun e => decide (e.1.stop ≤ e.2.start)

/-- Live masks name what there is. -/
def masksOk (l : List Section) : Bool :=
  (entriesOf 64 (kindBytes l 9)).all (fun e => decide (fieldAt e 4 2 < 4096) && fieldAt e 6 2 == 0 && fieldAt e 20 4 == 0)
    && (masksOf l).all fun m => decide (m.accLo ≤ 1023) && decide (m.accN ≤ 1024) && decide (m.accLo + m.accN ≤ 1024)
      && m.ls.all fun r => r.1 % 128 == 0 && r.2 % 128 == 0

/-- Symbols (14 R354). -/
def symbolsOk (l : List Section) : Bool :=
  (entriesOf 16 (kindBytes l 12)).all fun e =>
    (fieldAt e 4 1 == 0xFF || decide (fieldAt e 4 1 < l.length)) && decide (fieldAt e 5 1 ≤ 2) && fieldAt e 6 2 == 0

/-- A table of a kind must hold. -/
def tableOk (l : List Section) (k : Nat) (ok : Bool) : Load Unit := malformedAt (!ok) ((sectionIndex l k).getD 0)

/-! ## Relocation (14 R361–R363) -/

/-- A relocation record. -/
structure Reloc where
  off : Nat
  sec : Nat
  kind : Nat
  zero : Nat
  sym : Nat
  add : Nat
deriving DecidableEq, Repr

def relocOf (b : List Byte) (h : Header) (i : Nat) : Reloc :=
  let f := fun off n => fieldAt b (h.relt + 16 * i + off) n
  ⟨f 0 4, f 4 1, f 5 1, f 6 2, f 8 4, f 12 4⟩

/-- A symbol: its section, where it has one, and its value. -/
def symbolOf (l : List Section) (n : Nat) : Option (Option Nat × Nat) :=
  (entriesOf 16 (kindBytes l 12))[n]?.map fun e => (if fieldAt e 4 1 = 0xFF then none else some (fieldAt e 4 1), fieldAt e 8 8)

/-- The bits [lo, lo+n) of the little-endian bytes at `off`, replaced. -/
def patchBits (b : List Byte) (off bytes lo n : Nat) (v : Int) : List Byte :=
  let x := fieldAt b off bytes
  let y := x - bits x (lo + n - 1) lo * 2 ^ lo + unsignedOf n v * 2 ^ lo
  b.take off ++ bytesOf bytes y ++ b.drop (off + bytes)

/-- A field that a record patches: byte offset, bytes, low bit, bits, value. -/
abbrev Patch := Nat × Nat × Nat × Nat × Int

/-- A value in a range, of which every unit is whole. -/
def inRange (v lo hi unit : Int) (k : Int → List Patch) (i : Nat) : Load (List Patch) :=
  if v % unit ≠ 0 ∨ v / unit < lo ∨ hi < v / unit then .error (ldRange, i) else .ok (k (v / unit))

/-- The low bits of the offset fields of a matrix word: activation, weight, output. -/
def offsetField (k : Nat) : Nat := match k with | 0 => 130 | 1 => 90 | _ => 32

/-- The fields that record `i` patches (14 R362). -/
def patchesOf (l : List Section) (datah : Nat) (r : Reloc) (i : Nat) : Load (List Patch) :=
  match symbolOf l r.sym with
  | none => .error (ldSymbol, i)
  | some (sec, s) =>
    let a := signedOf 32 r.add
    let v : Int := s + a
    let d := v - r.off
    let local_ := sec == some r.sec && [1, 4].contains ((l[r.sec]?.map (·.kind)).getD 0)
    let word := fun (off : Nat) => fieldAt ((l[r.sec]?.map (·.data)).getD []) off 4
    match r.kind with
    | 1 => .ok [(r.off, 8, 0, 64, v)]
    | 2 => inRange v 0 (2 ^ 52 - 1) 1 (fun v => [(r.off, 8, 0, 64, 8 * 2 ^ 60 + datah * 2 ^ 52 + v)]) i
    | 3 => inRange v (-2048) 2047 1 (fun v => [(r.off, 4, 0, 12, v)]) i
    | 4 =>
      (match decodeFields (word r.off), decodeFields (word (r.off + 4)) with
      | .ok (.limm _), .ok j =>
        if takesLimm j && !bitOf (word r.off) 31 then
          inRange v (-(2 ^ 33)) (2 ^ 33 - 1) 1 (fun v => [(r.off, 4, 0, 22, v / 4096), (r.off + 4, 4, 0, 12, v)]) i
        else .error (ldMalformed, i)
      | _, _ => .error (ldMalformed, i))
    | 5 => if local_ then inRange d (-65536) 65535 4 (fun v => [(r.off, 4, 0, 17, v)]) i else .error (ldMalformed, i)
    | 6 => if local_ then inRange d (-2048) 2047 4 (fun v => [(r.off, 4, 0, 12, v)]) i else .error (ldMalformed, i)
    | 7 => inRange v 0 65535 1 (fun v => [(r.off, 4, 0, 16, v)]) i
    | 8 =>
      let k := bits r.add 31 30
      if k = 3 then .error (ldMalformed, i)
      else inRange ((s + bits r.add 29 0 : Nat) : Int) 0 65535 64 (fun v => [(r.off, 24, offsetField k, 16, v)]) i
    | _ => .error (ldMalformed, i)

/-- The bits of a patch in its section, as low and high bit numbers. -/
def patchSpan (p : Patch) : Nat × Nat := (8 * p.1 + p.2.2.1, 8 * p.1 + p.2.2.1 + p.2.2.2.1)

/-- Records in index order; `done` is what earlier records have patched: section, low bit, high bit. -/
def relocate (b : List Byte) (h : Header) (l : List Section) (done : List (Nat × Nat × Nat)) (n i : Nat) : Load (List Section) :=
  match n with
  | 0 => .ok l
  | k + 1 =>
    let r := relocOf b h i
    match l[r.sec]? with
    | none => .error (ldMalformed, i)
    | some x =>
      match patchesOf l h.datah r i with
      | .error e => .error e
      | .ok ps =>
        let spans := ps.map fun p => (r.sec, patchSpan p)
        let clash := spans.any fun p => done.any fun q => q.1 == p.1 && decide (q.2.1 < p.2.2) && decide (p.2.1 < q.2.2)
        let outside := ps.any fun p => decide (x.data.length < p.1 + p.2.1)
        if r.zero ≠ 0 ∨ clash ∨ outside then .error (ldMalformed, i)
        else
          let data := ps.foldl (fun d p => patchBits d p.1 p.2.1 p.2.2.1 p.2.2.2.1 p.2.2.2.2) x.data
          relocate b h (l.set r.sec { x with data := data }) (done ++ spans) k (i + 1)

/-! ## A whole load (14 R355, R364–R369) -/

/-- An object of either form as it is received: its header and its sections, with every table checked. -/
def containerOf (b : List Byte) : Load (Header × List Section) :=
  let h := headerOf b
  (malformedAt (!headerOk b h) 0).bind fun _ =>
  (if h.form = 0 ∧ h.gen ≠ 7 then .error (ldGen, h.gen) else .ok () : Load Unit).bind fun _ =>
  (sectionsFrom b h [] h.nsec 0).bind fun l =>
  (malformedAt ((sectionIndex l (if h.form = 0 then 1 else 15)).isNone || ((sectionIndex l 5).isNone && h.datah != 0)) 0).bind fun _ =>
  (tableOk l 6 (needsOk l h)).bind fun _ =>
  (tableOk l 8 (safeOk l)).bind fun _ =>
  (tableOk l 9 (masksOk l)).bind fun _ =>
  (tableOk l 12 (symbolsOk l)).bind fun _ => .ok (h, l)

/-- The sections that a translation gives. -/
def translatedSections (t : Translated) : List Section :=
  [⟨1, 0, t.scalar⟩, ⟨2, 0, t.vector⟩, ⟨3, 0, t.matrix⟩, ⟨4, 0, t.transfer⟩, ⟨8, 0, t.safe⟩, ⟨9, 0, t.masks⟩]

/-- The sections that an object gains by translation; an object in native form is none. -/
def translateObject (h : Header) (l : List Section) : Load (List Section) :=
  if h.form = 0 then .ok []
  else match Config.translate (kindBytes l 15) with
    | .error why => .error (ldTranslate, why)
    | .ok t => .ok (translatedSections t)

/-- An object in either form: a Slamos module is translated, and the records are applied to the whole. -/
def loadObject (b : List Byte) : Load (Header × List Section) :=
  (containerOf b).bind fun x =>
  (translateObject x.1 x.2).bind fun extra =>
  (relocate b x.1 (x.2 ++ extra) [] x.1.nrel 0).bind fun l => .ok (x.1, l)

/-- The loader's data object for a descriptor: plain, readable and writable, at an index beyond every table's. -/
def dataObject (desc gid size : Nat) : ObjDesc :=
  ⟨2 ^ 17 + desc, gid, size, (Config.dataList desc).toNat * 8, false, 0, 0, true, true⟩

/-- The extent entries of a data section and its bytes, placed in device memory. -/
def State.placeData (s : State) (desc : Nat) (b : List Byte) : State :=
  (List.range (cdiv b.length (2 ^ 21))).foldl (fun s x =>
    let f := (Config.dataFrame desc x).toNat
    let die := f / 2 ^ 15
    let frame := f % 2 ^ 15 * 2 ^ 21
    let s := s.putBytes (devKey ((Config.dataList desc).toNat * 8 + 8 * x)) (bytesOf 8 (2 ^ 63 + die * 2 ^ 57 + frame))
    s.putBytes (keyLpddr die frame) (slice b (2 ^ 21 * x) (2 ^ 21))) s

/-- The placed image in the order in which it is hashed. -/
def hashedImage (l : List Section) : List Byte := [1, 2, 3, 4, 5, 8, 9].flatMap (kindBytes l)

/-- A descriptor's code object, not yet usable, with its sections and its data in place. -/
def State.placeCode (s : State) (c : Nat) (b : List Byte) (h : Header) (l : List Section) : State :=
  let d := s.nextCode
  let hasData := (sectionIndex l 5).isSome
  let x : CodeObj :=
    { ctx := c, sizeS := (kindBytes l 1).length, sizeV := (kindBytes l 2).length, sizeM := (kindBytes l 3).length,
      sizeX := (kindBytes l 4).length,
      datah := if hasData then some (h.datah, dataObject d s.nextGid (kindBytes l 5).length) else none,
      needs := needsOf l, safe := safeOf l, masks := masksOf l, withdrawn := false, usable := false,
      hs := sha256 b, hn := sha256 (hashedImage l), svn := h.svn }
  let s := [1, 2, 3, 4].foldl (fun s k => s.putBytes (keyCode d (k - 1) 0) (kindBytes l k)) s
  let s := if hasData then s.placeData d (kindBytes l 5) else s
  { s with codes := tput s.codes d x, nextCode := d + 1, nextGid := if hasData then s.nextGid + 1 else s.nextGid }

/-- A status with its detail in bytes 8–11, and a descriptor in bytes 12–15. -/
def State.answerLoad (s : State) (status detail desc : Nat) : State :=
  s.complete (loaderStatus status) (bytesOf 4 detail ++ bytesOf 4 desc)

/-- CODE_LOAD. Persistent images are held to their counter (14 R371, R372). -/
def execCodeLoad (ctx addr len : Nat) (s : State) : Out :=
  let b := s.getBytes (keyHost addr) len
  let f := s.fresh
  message s (s.gate (some ctx) false unitLoader ++ [(!s.lives ctx, msBadState)])
    (match loadObject b with
    | .error e => s.answerLoad e.1 e.2 0
    | .ok (h, l) =>
      let floor := tget 0 s.fuses modelFuse
      if h.imgcls = 1 ∧ h.svn < floor then s.complete (loaderStatus ldWithdrawn) (bytesOf 4 h.svn ++ bytesOf 4 floor)
      else if !Config.hasRoom f.1 then f.2.answerLoad ldNoSpace len 0
      else (f.2.placeCode ctx b h l).answerLoad 0 0 s.nextCode)

/-- The register's next value (14 R369). -/
def extendAtt (att : BitVec 256) (c : CodeObj) : BitVec 256 :=
  sha256 (hashBytes att ++ [1] ++ hashBytes c.hs ++ hashBytes c.hn ++ bytesOf 4 c.svn
    ++ bytesOf 4 Config.loaderVersion.toNat)

/-- Loads of a context extend its register in the order in which they ended, which is that of their descriptors. -/
def State.extendsNext (s : State) (c desc : Nat) : Bool :=
  s.codes.all fun e => !(e.2.ctx == c && !e.2.usable && decide (e.1 < desc))

/-- 14 R369. An object that was unloaded before goes once it is recorded. -/
def execLoadComplete (desc : Nat) (s : State) : Out :=
  .next
    (match tfind s.codes desc with
    | none => s
    | some c =>
      if c.usable || !s.extendsNext c.ctx desc then s
      else
        let x := s.ctx c.ctx
        let s := s.setCtx c.ctx { x with att := extendAtt x.att c, log := x.log ++ [⟨c.hs, c.hn, c.svn, desc⟩] }
        ({ s with codes := tput s.codes desc { c with usable := true } }).freeCode desc)

/-- CODE_UNLOAD. The memory goes with the last task launched from it. -/
def execCodeUnload (desc : Nat) (s : State) : Out :=
  match tfind s.codes desc with
  | none => message s (s.gate none false unitLoader ++ [(true, msBadState)]) s
  | some c =>
    message s (s.gate (some c.ctx) false unitLoader)
      ((({ s with codes := tput s.codes desc { c with withdrawn := true } }).freeCode desc).answer msOk)

end Sys2Proof.Machine
end

