-- ==== Sys2Proof/Machine/HostModels.lean ====
section
/-! DEFINITION. Host messages about adapters, model versions and weight objects (spec 16 R419, R420, R424, R427, 18 R435, R448, 20
R474). -/
namespace Sys2Proof.Machine

/-! ## Adapters (16 R419, R420, R424) -/

/-- Bit of the readiness map for I/O die 0, where the adapter home is (16 R418, 21 R484). -/
def unitHome : Nat := 4

/-- ADP_INSTALL. It names objects of the slot's owner, so a protected owner's must be secured. -/
def execAdpInstall (slot : Nat) (attr : AdpInstall) (s : State) : Out :=
  message s (s.gate none (s.ctx (s.adapter slot).owner).prot unitHome)
    (if s.installOk slot s.sender attr then (s.install slot attr).answer msOk else s.refuse msRefused 0)

/-- ADP_RELEASE. -/
def execAdpRelease (slot : Nat) (s : State) : Out :=
  let a := s.adapter slot
  message s (s.gate none false unitHome ++ [(a.st != slotClaimed, msBadState)])
    (if (s.ctx a.owner).fn = s.sender then (s.moveSlot slot { Adapter.init with evictFn := a.evictFn }).answer msOk
    else s.refuse msRefused 0)

/-- ADP_FORCE_EVICT. With no core to acknowledge it, it is complete at once. -/
def execAdpForceEvict (slot : Nat) (s : State) : Out :=
  let st := (s.adapter slot).st
  let t := (s.answer msOk).forceEvict slot s.sender
  message s (s.gate none false unitHome ++ [(st == slotFree || st == slotGone, msBadState)])
    (if (t.adapter slot).acks = 0 then
      (t.setAdapter slot { t.adapter slot with evictFn := none }).tellFn s.sender evForceEvicted [slot]
    else t)

/-- ADP_READ. -/
def execAdpRead (slot : Nat) (s : State) : Out :=
  message s (s.gate none false unitHome) (s.answerBuffer (s.adapter slot).record)

/-! ## Model versions (16 R427, 18 R448) -/

/-- Rows of the objects of a version in increasing id, each with its place in the image (log 31). -/
def State.imageRows (s : State) (v : VerEnt) (image : List Byte) : List (Nat × Nat × List Byte) :=
  let rows := (rangeFrom v.wobj v.nwobj).flatMap fun i => (List.range ((s.wobj i).size / 64)).map fun r => (i, r)
  ((List.range rows.length).zip rows).map fun e =>
    (e.2.1, e.2.2, (Config.imageRow image e.1 ++ List.replicate 64 0).take 64)

/-- The entry may be loaded: it is absent and not the current one of a slot in use, and its objects are unmapped. -/
def State.loadAllowed (s : State) (k e : Nat) (a : ModelImage) : Bool :=
  let m := s.model k
  (m.entry e).st == verAbsent && (e != m.cur || !m.resident) && decide (a.wobj + a.nwobj ≤ 65536)
    && (rangeFrom a.wobj a.nwobj).all fun i => (s.wobj i).st == 0

/-- A version begins to load: its rows go to the engines of their homes one after another. -/
def State.beginLoad (s : State) (k e : Nat) (a : ModelImage) : State :=
  let v : VerEnt := { VerEnt.init with
    vid := a.vid, st := verLoading, entry := BitVec.ofNat 64 a.entry, wobj := a.wobj, nwobj := a.nwobj, svn := a.svn }
  let image := s.getBytes (keyHost a.addr) a.len
  let l : ModelLoad := ⟨k, e, s.sender, s.imageRows v image, 0, Config.imageRoot image⟩
  let s := (s.setObjects v 2).setModel k ((s.model k).setEntry e v)
  ({ s with loads := s.loads ++ [l] }).nextRow l

/-- MODEL_LOAD. A withdrawn image is refused with both values (14 R372). -/
def execModelLoad (model ent : Nat) (attr : ModelImage) (s : State) : Out :=
  let floor := tget 0 s.fuses modelFuse
  message s (s.gate none false unitHome)
    (if attr.svn < floor then s.complete (loaderStatus ldWithdrawn) (bytesOf 4 attr.svn ++ bytesOf 4 floor)
    else if s.loadAllowed model ent attr then (s.answer msOk).beginLoad model ent attr
    else s.refuse msRefused 0)

/-- MODEL_SWITCH. -/
def execModelSwitch (model : Nat) (s : State) : Out :=
  let m := s.model model
  let v := m.entry (1 - m.cur)
  message s (s.gate none false unitHome)
    (if v.st = verPresent ∧ v.meas then (s.setModel model { m with cur := 1 - m.cur }).answer msOk else s.refuse msRefused 0)

/-- MODEL_RETIRE. -/
def execModelRetire (model ent : Nat) (s : State) : Out :=
  let m := s.model model
  let v := m.entry ent
  message s (s.gate none false unitHome)
    (if v.st = verPresent ∧ ent ≠ m.cur then
      ((s.setModel model (m.setEntry ent { v with st := verRetiring })).settleVersion model ent).answer msOk
    else s.refuse msRefused 0)

/-- MODEL_READ. -/
def execModelRead (model : Nat) (s : State) : Out :=
  message s (s.gate none false unitHome) (s.answerBuffer (s.model model).record)

/-! ## Weight objects (18 R435) -/

/-- An entry from its bytes 0–15 and 24–55, where R435 allows them; the device keeps VER. -/
def wobjOf (lo hi : List Byte) (ver : Nat) : Option WObj :=
  let f := fieldAt lo
  let ok := decide (f 0 1 < 3) && decide (f 2 1 < 2) && decide (f 3 1 < 128) && f 4 4 % 64 == 0 && f 8 8 % 64 == 0
    && decide (64 ≤ f 8 8) && decide (f 8 8 ≤ 2 ^ 31) && decide (f 4 4 + f 8 8 / 64 ≤ 2 ^ 25)
  if ok then
    some ⟨f 0 1, f 1 1, f 2 1, f 3 1, f 4 4, f 8 8, ver, BitVec.ofNat 128 (fieldAt hi 0 16), BitVec.ofNat 128 (fieldAt hi 16 16)⟩
  else none

/-- WOBJ_WRITE, in a secured session only (18 R435). -/
def execWobjWrite (id : Nat) (lo hi : List Byte) (s : State) : Out :=
  match wobjOf lo hi (s.wobj id).ver with
  | none => message s (s.gate none true unitSec ++ [(true, msBad)]) s
  | some o => message s (s.gate none true unitSec) ((s.setWobj id o).answer msOk)

end Sys2Proof.Machine
end

