-- ==== Sys2Proof/Machine/Service.lean ====
section
/-! DEFINITION. Start-up and live service: readiness, warm reset, retraining, re-calibration, firmware, the weight-tier registers,
time, the summary and the pod (spec 18 R439, R445, 19 R451, R457, R462, R466, 20 R473, R474, 21 R484–R489). -/
namespace Sys2Proof.Machine

/-! ## Start-up (21 R487) -/

/-- A unit as an event names it. -/
def unitName (u : StartUnit) : List Nat :=
  match u with
  | .security => [0] | .managementIod k => [1, k] | .frontEnd => [2] | .loader => [3] | .hostLink => [4]
  | .die d => [5, d] | .channel d c => [6, d, c] | .podPort k => [7, k]

/-- The second row of the sequence. -/
def secondRow : List StartUnit := [.managementIod 0, .managementIod 1, .frontEnd, .loader]

/-- The unit exists, and what its row waits for has ended. Nothing waits on a unit that has failed. -/
def State.mayStart (s : State) (u : StartUnit) : Bool :=
  let row := secondRow.all fun v => s.started.contains v
  let sec := s.started.contains .security
  match u with
  | .security => true
  | .managementIod k => decide (k < 2) && sec
  | .frontEnd => sec
  | .loader => sec
  | .hostLink => sec
  | .die d => decide (d < 8) && row && (s.die d).st == .offline && (s.die d).warm == 0
  | .channel d c => decide (d < 8) && decide (c < 16) && s.dieUp d
  | .podPort k => decide (k < 16) && row

/-- What slot A of a class holds: the image that the part was made with, until one is written (log 14). -/
def State.slotA (s : State) (cls : Nat) (x : Option FwImage) : FwImage :=
  let svn := (Config.madeSvn cls).toNat
  x.getD ⟨svn, Config.madeMeasure cls, decide (tget 0 s.fuses cls ≤ svn)⟩

/-- The image in the active slot of a die's management cores, and of the front end. -/
def State.firmware (s : State) (d : Nat) : Option FwImage :=
  let x := s.die d
  if x.fwActiveB then x.fwB else some (s.slotA 0 x.fwA)

def State.microcode (s : State) : Option FwImage := if s.cfeActiveB then s.cfeB else some (s.slotA 1 s.cfeA)

/-- The security version of a unit's image with the counter that it is checked against, where the unit runs one (14 R371). -/
def State.imageCheck (s : State) (u : StartUnit) : Option (Nat × Nat) :=
  let held := fun (x : Option FwImage) (c : Nat) => x.map fun i => (i.svn, tget 0 s.fuses c)
  match u with
  | .security => some (Config.securitySvn.toNat, tget 0 s.fuses 2)
  | .managementIod k => held (s.firmware (8 + k)) 0
  | .frontEnd => held s.microcode 1
  | .die d => held (s.firmware d) 0
  | _ => none

/-- A unit's image is not withdrawn (14 R372). -/
def State.imageOk (s : State) (u : StartUnit) : Bool := (s.imageCheck u).all fun e => decide (e.2 ≤ e.1)

/-- Why a unit fails its step: VERSION_WITHDRAWN with both values, or the reason of its own. -/
def State.failReason (s : State) (u : StartUnit) (reason : Nat) : List Nat :=
  match s.imageCheck u with
  | some (svn, floor) => if floor ≤ svn then [reason] else [codeWithdrawn, svn, floor]
  | none => [reason]

/-- A unit of the first 8 bits of the map is ready. -/
def State.setUnit (s : State) (k : Nat) : State := { s with units := s.units ||| BitVec.ofNat 8 (2 ^ k) }

/-- A unit's readiness bit is set. The link between the I/O dies is trained once both are ready: no step names it (DESIGN CHOICE,
log 80). -/
def State.unitReady (s : State) (u : StartUnit) : State :=
  match u with
  | .security => s.setUnit unitSec
  | .managementIod k => { s.setUnit (4 + k) with iodLink := s.iodLink || bitOf s.units.toNat (4 + (1 - k)) }
  | .frontEnd => s.setUnit unitCfe
  | .loader => s.setUnit unitLoader
  | .hostLink => s.setUnit unitHost
  | .die d => s.setDie d { s.die d with st := .online, ready := true, modules := 15 }
  | .channel d c => s.setDie d { s.die d with lpReady := (s.die d).lpReady ||| BitVec.ofNat 16 (2 ^ c) }
  | .podPort k => s.setPort k true

/-- 21 R487. A withdrawn image fails its unit whatever the step's own outcome. -/
def execStartupStepEnd (u : StartUnit) (ok : Bool) (reason : Nat) (s : State) : Out :=
  let t := { s with started := u :: s.started }
  whenOk (s.mayStart u && !s.started.contains u) s
    (if ok && s.imageOk u then t.unitReady u else t.tellHost evStartFailed (unitName u ++ s.failReason u reason))

/-! ## One operation at a time (21 R489) -/

/-- The banks of a die. -/
def State.banksOf (s : State) (d : Nat) : List Bank := (s.banks.filter fun e => bankDie e.1 == d).map (·.2)

/-- An operation runs on something that a die contains. -/
def State.partsBusy (s : State) (d : Nat) : Bool :=
  let x := s.die d
  x.lpRetrain != 0 || x.retraining != 0 || (s.banksOf d).any fun b => b.rcal != 0

/-! ## Warm reset (19 R466) -/

/-- READY_CLEAR. -/
def execReadyClear (die : Nat) (s : State) : Out :=
  message s (s.gate none false unitHost)
    (if 8 ≤ die then s.refuse msRefused 0 else (s.setDie die { s.die die with ready := false }).answer msOk)

/-- The reason for which a die is busy. -/
def State.busyReason (s : State) (d : Nat) : Option Nat :=
  let x := s.die d
  let pairs := (diePairs d).map s.pair
  if x.ready then some 1
  else if s.tasks.any fun e => slotDie e.1 == d then some 2
  else if pairs.any fun p => p.owner.isSome then some 3
  else if (s.sectionsInUse.any fun k => decide (keyLpddr d 0 ≤ k) && decide (k < keyLpddr (d + 1) 0))
      || pairs.any fun p => !p.diversions.isEmpty then some 4
  else if !x.wq.isEmpty || x.wcur.isSome then some 5
  else if x.fwSwitching || s.partsBusy d then some 6
  else none

/-- WARM_RESET. -/
def execWarmReset (die : Nat) (s : State) : Out :=
  message s (s.gate none false unitHost)
    (if 8 ≤ die then s.refuse msRefused 0
    else if !s.dieUp die then s.answer msDieNotOnline
    else
      match s.busyReason die with
      | some r => s.complete msDieBusy [BitVec.ofNat 8 r]
      | none => (s.setDie die { s.die die with st := .offline, warm := 1 }).answer msOk)

/-! ## Retraining and re-calibration (18 R445, 19 R457, 21 R489) -/

/-- MODULE_RETRAIN. The link is down while it trains. -/
def execModuleRetrain (die module : Nat) (s : State) : Out :=
  let off := module != 4 && !s.dieUp die
  message s (s.gate none false unitHost ++
    [(module != 4 && decide (8 ≤ die), msRefused), (off || s.retrainBit die module, msBadState)])
    (((s.setRetrain die module true).setModule die module false).loseCutOff.answer msOk)

/-- RECAL. -/
def execRecal (column bank : Nat) (s : State) : Out :=
  let k := column * 128 + bank
  message s (s.gate none false unitHost ++
    [(decide (128 ≤ bank), msBad), (!s.dieOpen (pairDie column) || (s.bank k).rcal != 0, msBadState)])
    ((s.setBank k { s.bank k with rcal := 1 }).answer msOk)

/-- RETRAIN. -/
def execRetrain (die channel : Nat) (s : State) : Out :=
  let x := s.die die
  message s (s.gate none false unitHost ++
    [(decide (8 ≤ die), msRefused),
      (!s.dieUp die || !x.lpReady.getLsbD channel || x.lpRetrain.getLsbD channel, msBadState)])
    ((s.setDie die { x with lpRetrain := x.lpRetrain ||| BitVec.ofNat 16 (2 ^ channel) }).answer msOk)

/-! ## Firmware (21 R489, 14 R371, R372) -/

/-- The image that is not in service. -/
def State.spareImage (s : State) (cls d : Nat) : Option FwImage :=
  if cls = 1 then (if s.cfeActiveB then some (s.slotA 1 s.cfeA) else s.cfeB)
  else if (s.die d).fwActiveB then some (s.slotA 0 (s.die d).fwA) else (s.die d).fwB

def State.setSpare (s : State) (cls d : Nat) (i : FwImage) : State :=
  if cls = 1 then (if s.cfeActiveB then { s with cfeA := some i } else { s with cfeB := some i })
  else if (s.die d).fwActiveB then s.setDie d { s.die d with fwA := some i }
  else s.setDie d { s.die d with fwB := some i }

/-- A switch is running. -/
def State.switching (s : State) (cls d : Nat) : Bool := if cls = 1 then s.cfeSwitching else (s.die d).fwSwitching

/-- The unit that a firmware message names can take it: it works, and no switch runs. -/
def State.firmwareIdle (s : State) (cls d : Nat) : Bool :=
  !s.switching cls d && (if cls = 1 then s.unitUp unitCfe else if d < 8 then s.dieUp d else s.unitUp (d - 4))

/-- A firmware message names no die for the front end. -/
def firmwareGate (s : State) (cls die : Nat) : List (Bool × Nat) :=
  s.gate none false unitSec ++ [(cls == 1 && die != 0, msBad), (!s.firmwareIdle cls die, msBadState)]

/-- FW_WRITE. The image is checked against its counter and measured now. -/
def execFwWrite (cls die svn addr len : Nat) (s : State) : Out :=
  let i : FwImage := ⟨svn, sha256 (s.getBytes (keyHost addr) len), decide (tget 0 s.fuses cls ≤ svn)⟩
  message s (firmwareGate s cls die) ((s.setSpare cls die i).answer msOk)

/-- FW_SWITCH. -/
def execFwSwitch (cls die : Nat) (s : State) : Out :=
  message s (firmwareGate s cls die ++ [(cls == 0 && s.partsBusy die, msBadState)])
    (match s.spareImage cls die with
    | none => s.answer msBadState
    | some i =>
      if !i.ok then s.complete (loaderStatus ldWithdrawn) (bytesOf 4 i.svn ++ bytesOf 4 (tget 0 s.fuses cls))
      else if cls = 1 then ({ s with cfeSwitching := true }).answer msOk
      else (s.setDie die { s.die die with fwSwitching := true }).answer msOk)

/-- 21 R489. -/
def execFirmwareSwitchEnd (cls die : Nat) (s : State) : Out :=
  let x := s.die die
  whenOk (s.switching cls die) s
    (if cls = 1 then { s with cfeSwitching := false, cfeActiveB := !s.cfeActiveB }
    else s.setDie die { x with fwSwitching := false, fwActiveB := !x.fwActiveB })

/-! ## Reading (18 R439, 20 R473, R474, 21 R484) -/

/-- WT_READ: `WPCFG`, then each `WTBANK`. -/
def execWtRead (die first count : Nat) (s : State) : Out :=
  message s (s.gate none false unitHost ++ [(decide (2048 < first + count), msBad), (!s.dieUp die, msBadState)])
    (s.answerBuffer (bytesOf 8 (s.die die).wpcfg ++
      (rangeFrom (2048 * die + first) count).flatMap fun k => bytesOf 8 (s.bank k).wtbank))

/-- TIME_QUERY. The host's time and the bound, at most 1 µs, are free values (19 R453). -/
def execTimeQuery (s : State) : Out :=
  let f := s.fresh
  message s (s.gate none false unitHost)
    (f.2.complete msOk (bytesOf 8 (s.die 8).ptime.toNat ++ bytesOf 8 (Config.hostTime f.1).toNat
      ++ bytesOf 4 (min 1000000 (Config.timeBound f.1))))

/-- SUMMARY (15 R416). -/
def execSummaryMsg (s : State) : Out := message s (s.gate none false unitHost) (s.answerBuffer s.summaryBytes)

/-- READY_QUERY. -/
def execReadyQuery (s : State) : Out :=
  message s (s.gate none false unitHost) (s.answerBuffer (bytesOf 32 s.readyMap ++ bytesOf 32 s.modelMap))

/-! ## The pod (19 R451, R462) -/

/-- POD_FORM. A die whose bound the new lock domain does not allow is no longer locked (19 R453, R454). -/
def execPodForm (self master : Nat) (form : Bool) (s : State) : Out :=
  let t : State := { s with pod := { s.pod with member := form, self := self, master := master } }
  message s (s.gate none false unitHost)
    (State.answer { t with dies := t.dies.map fun e => (e.1, e.2.within t.boundLimit) } msOk)

/-- POD_ROUTE. -/
def execPodRoute (first : Nat) (ports : List (Nat × Nat)) (s : State) : Out :=
  let routes := ((List.range ports.length).zip ports).foldl (fun t e => tput t (first + e.1) e.2) s.pod.routes
  message s (s.gate none false unitHost ++ [(decide (256 < first + ports.length), msBad)])
    (({ s with pod := { s.pod with routes := routes } }).answer msOk)

end Sys2Proof.Machine
end

