-- ==== Sys2Proof/Machine/Security.lean ====
section
/-! DEFINITION. The security controller: keys, counters, debug unlock, attestation, the SPDM session and the interface states, function
registers, and function-level reset (spec 14 R372, 20 R469–R483). -/
namespace Sys2Proof.Machine

/-! ## Keys, counters, debug (20 R479, R480, R482, 14 R372) -/

/-- KEY_SET. -/
def execKeySet (slot : Nat) (key : BitVec 256) (s : State) : Out :=
  message s (s.gate none true unitSec ++ [((tfind s.keys slot).isSome, msBadState)])
    (({ s with keys := tput s.keys slot ⟨key, none⟩ }).answer msOk)

/-- KEY_ASSIGN. -/
def execKeyAssign (slot ctx : Nat) (s : State) : Out :=
  match tfind s.keys slot with
  | none => message s (s.gate (some ctx) true unitSec ++ [(true, msBadState)]) s
  | some k =>
    message s (s.gate (some ctx) true unitSec) (({ s with keys := tput s.keys slot { k with ctx := some ctx } }).answer msOk)

/-- KEY_ERASE. Writes that took the key are on their way already encrypted; they are performed first. -/
def execKeyErase (slot : Nat) (s : State) : Out :=
  let t := (s.performWhere fun _ => true).drainWhere fun _ => true
  message s (s.gate none true unitSec) (({ t with keys := terase t.keys slot }).answer msOk)

/-- COUNTER_ADVANCE. -/
def execCounterAdvance (ctr val : Nat) (s : State) : Out :=
  message s (s.gate none true unitSec)
    (if val < tget 0 s.fuses ctr then s.refuse msRefused 0
    else (({ s with fuses := tput s.fuses ctr val }).logSec 3 ctr val).answer msOk)

/-- DEBUG_UNLOCK. A token that is not accepted is refused. -/
def execDebugUnlock (token : List Byte) (s : State) : Out :=
  let part := s.ctxs.any fun e => e.2.prot && e.2.st != .absent
  let detail := boolNat part
  message s (s.gate none true unitSec)
    (if !Config.tokenValid token then s.refuse msRefused 0
    else (({ s with debug := if part then debugPart else debugFull }).logSec 1 0 detail).complete msOk [BitVec.ofNat 8 detail])

/-! ## The attestation report (20 R475, R481) -/

/-- A firmware entry: 48 bytes. -/
def firmwareEntry (cls die slot : Nat) (active : Bool) (svn : Nat) (meas : BitVec 256) : List Byte :=
  layOut 16 [(0, 1, cls), (1, 1, die), (2, 1, slot), (3, 1, boolNat active), (4, 4, svn)] ++ hashBytes meas

/-- The entries of a pair of image slots that hold an image. -/
def imageEntries (cls die : Nat) (a b : Option FwImage) (bActive : Bool) : List (List Byte) :=
  let one := fun (x : Option FwImage) (n : Nat) (act : Bool) =>
    match x with | none => [] | some i => [firmwareEntry cls die n act i.svn i.meas]
  one a 0 (!bActive) ++ one b 1 bActive

/-- Every loaded firmware image: management, front end, security controller. -/
def State.firmwareEntries (s : State) : List (List Byte) :=
  ((List.range 10).flatMap fun d => imageEntries 0 d (some (s.slotA 0 (s.die d).fwA)) (s.die d).fwB (s.die d).fwActiveB)
    ++ imageEntries 1 0xFF (some (s.slotA 1 s.cfeA)) s.cfeB s.cfeActiveB
    ++ [firmwareEntry 2 0xFF 0 true Config.securitySvn.toNat Config.securityMeasure]

/-- A model entry of each present version: 40 bytes. -/
def State.modelEntries (s : State) : List (List Byte) :=
  s.models.flatMap fun e => [0, 1].flatMap fun k =>
    let v := e.2.entry k
    if v.st = verPresent then
      [layOut 8 [(0, 1, e.1), (1, 1, k), (2, 2, v.vid), (4, 1, boolNat v.meas)] ++ hashBytes v.root]
    else []

/-- An event-log entry: 80 bytes. -/
def LoadEvent.entry (e : LoadEvent) : List Byte :=
  hashBytes e.hs ++ hashBytes e.hn ++ layOut 16 [(0, 4, e.svn), (4, 4, Config.loaderVersion.toNat), (8, 4, e.desc)]

/-- A security event: 24 bytes. -/
def SecEvent.entry (e : SecEvent) : List Byte :=
  layOut 24 [(0, 1, e.kind), (1, 1, e.fn), (4, 4, e.what), (8, 8, e.at_.toNat), (16, 8, e.detail)]

/-- Bytes of the signature. -/
def signatureSize : Nat := 7856

/-- The report of a context. -/
def State.report (s : State) (c : Nat) (nonce : List Byte) : List Byte :=
  let x := s.ctx c
  let fw := s.firmwareEntries
  let md := s.modelEntries
  let tail := fw.flatten ++ md.flatten ++ x.log.flatMap LoadEvent.entry ++ s.secLog.flatMap SecEvent.entry
  let body := layOut 8 [(0, 1, 1), (4, 4, 144 + tail.length + signatureSize)] ++ bytesOf 16 Config.serial.toNat
    ++ (nonce ++ List.replicate 32 0).take 32 ++ bytesOf 8 (s.die 8).ptime.toNat
    ++ layOut 8 [(0, 1, c), (1, 1, boolNat x.prot), (2, 1, x.fn), (3, 1, (s.fn x.fn).tdi), (4, 1, s.debug)] ++ hashBytes x.att
    ++ (List.range 4).flatMap (fun i => bytesOf 4 (tget 0 s.fuses i))
    ++ layOut 24 [(0, 4, fw.length), (4, 4, md.length), (8, 4, x.log.length), (12, 4, s.secLog.length)] ++ tail
  body ++ (List.range signatureSize).map (Config.sign body)

/-- ATTEST. -/
def execAttest (ctx : Nat) (nonce : List Byte) (s : State) : Out :=
  message s (s.gate (some ctx) true unitSec ++ [(!s.lives ctx, msBadState)]) (s.answerBuffer (s.report ctx nonce))

/-! ## Function-level reset (20 R483) -/

/-- The event of the end of each step, without a code of the spec's (log 21). -/
def evFlr : Nat := 0x1001A

/-- A function's contexts. -/
def State.fnCtxs (s : State) (f : Nat) : List Nat := (s.ctxs.filter fun e => e.2.st != .absent && e.2.fn == f).map (·.1)

/-- Step 1 begins: the halt lines of the function's contexts rise. -/
def State.startFlr (s : State) (f : Nat) : State :=
  if (s.fn f).flr ≠ 0 then s
  else
    let s := s.setFn f { s.fn f with flr := 1, rst := true }
    (s.fnCtxs f).foldl (fun s c => s.setCtx c { s.ctx c with st := .halted, halt := true, stage := .none, sections := [] }) s

/-- A message of an aborted context keeps its place in its channel and writes nothing. -/
def Chan.abort (c : Chan) (slots : List Nat) : Chan :=
  { c with unacked := c.unacked.take c.applied ++
      (c.unacked.drop c.applied).map fun m => if slots.contains m.owed.slot then { m with bytes := [] } else m }

/-- What is on its way for a context is gone (step 3); requests of others no longer reach its local stores. -/
def State.abortTraffic (s : State) (c : Nat) : State :=
  let slots := s.ctxSlots c
  let x := s.ctx c
  let t : State :=
    { s with
      xfers := s.xfers.filter fun x => x.ctx != c, requests := s.requests.filter fun r => r.ctx != c,
      arrivals := s.arrivals.filter fun a => a.ctx != c, queued := s.queued.filter fun q => !slots.contains q.owed.slot,
      chans := s.chans.map fun k => k.abort slots,
      cores := s.cores.map fun e => (e.1, { e.2 with sidelog := e.2.sidelog.filter fun l => l.ctx != c }),
      tasks := s.tasks.map fun e => if e.2.ctx = c then (e.1, { e.2 with deferred := [], raised := [] }) else e,
      pairs := s.pairs.map fun e => if e.2.owner = some c then (e.1, { e.2 with guests := 0 }) else e }
  (t.setCtx c { x with moved := [], saved := x.saved.map fun v => { v with log := [], faults := [] } }).sweepBoards

/-- Windows, tables, cached extents and queues of a context are invalid (step 5). -/
def State.invalidateCtx (s : State) (c : Nat) : State :=
  let t : State :=
    { s with
      tasks := s.tasks.map fun e => if e.2.ctx = c then (e.1, { e.2 with objs := [] }) else e,
      cores := s.cores.map fun e => (e.1, { e.2 with xcache := e.2.xcache.filter fun l => l.ctx != c }) }
  let t := (t.queuesOf c).foldl (fun (s : State) q => s.removeQueue q) t
  t.setCtx c { t.ctx c with objs := [], nobj := 0, tasks := (t.ctx c).tasks.map fun x => { x with task := { x.task with objs := [] } } }

/-- Stores, accumulators and sections of a context are zero, and nothing of it is left (step 6). -/
def State.eraseCtx (s : State) (c : Nat) : State :=
  let x := s.ctx c
  let sections := x.saved.map (·.section_)
  let s := (s.ownedPairs c).foldl (fun s p => (s.zeroStore p 0 (2 ^ 25)).setPair p
    { (s.zeroStore p 0 (2 ^ 25)).pair p with cache := [], up := [], down := [], sb := [] }) s
  let s := sections.foldl (fun s k => s.dropBytes k (k + cellarUnit)) s
  let ks := s.ctxSlots c
  let s := ks.foldl (fun s k => if s.holdsMatrix k then s.setMat (slotPair k) { s.mat (slotPair k) with acc := [] } else s) s
  let s := ks.foldl (fun s k => s.unbindTask k) s
  let s := (s.ownedPairs c).foldl (fun s p => s.setPair p { s.pair p with owner := none }) s
  s.forget c

/-- What the end of a step does; none while it cannot end. -/
def State.flrStep (s : State) (f : Nat) : Option State :=
  let l := s.fnCtxs f
  match (s.fn f).flr with
  | 1 => if l.all s.quiet then some s else none
  | 2 => some s
  | 3 => some (l.foldl (fun s c => s.abortTraffic c) s)
  | 4 => some (l.foldl (fun s c => s.eraseKeys c) s)
  | 5 => some (l.foldl (fun s c => s.invalidateCtx c) s)
  | 6 => some (l.foldl (fun s c => s.eraseCtx c) s)
  | 7 => some (s.setFn f { s.fn f with tdi := 0, sess := false, rst := false })
  | _ => none

/-- The next function of a reset of function 0 begins, when this one was its turn. -/
def State.nextFlr (s : State) (f : Nat) : State :=
  match s.flrNext with
  | [] => s
  | g :: t =>
    if g ≠ f then s
    else match t with
      | [] => { s with flrNext := [] }
      | h :: _ => ({ s with flrNext := t }).startFlr h

/-- 20 R483. -/
def execFlrStepEnd (fn : Nat) (s : State) : Out :=
  let n := (s.fn fn).flr
  .next
    (match s.flrStep fn with
    | none => s
    | some t =>
      let t := (t.setFn fn { t.fn fn with flr := if n = 7 then 0 else n + 1 }).tellFn fn evFlr [fn, n]
      if n = 7 then t.nextFlr fn else t)

/-- 20 R483. Function 0 comes last, after every virtual function. -/
def execFunctionLevelReset (fn : Nat) (s : State) : Out :=
  .next
    (if fn ≠ 0 then s.startFlr fn
    else if !s.flrNext.isEmpty then s
    else ({ s with flrNext := rangeFrom 1 63 ++ [0] }).startFlr 1)

/-! ## The session and the interface (20 R476, R478) -/

/-- Every protected context of a function halts fatally (12 R329). -/
def State.haltProtected (s : State) (f : Nat) : State :=
  (s.fnCtxs f).foldl (fun s c =>
    let x := s.ctx c
    if x.prot && x.st != .halted then
      (s.setCtx c { x with st := .halted, halt := true, stage := .none }).tellCtx c evHalted [c]
    else s) s

/-- A locked or running interface moves to ERROR; every other state stays. -/
def State.breakInterface (s : State) (f : Nat) : State :=
  let x := s.fn f
  if x.tdi = tdiLocked ∨ x.tdi = tdiRun then (s.setFn f { x with tdi := tdiError }).haltProtected f else s

/-- A session ends, which is its loss to the interface. -/
def State.loseSession (s : State) (f : Nat) : State := (s.setFn f { s.fn f with sess := false }).breakInterface f

/-- 20 R478. -/
def execInterfaceError (fn : Nat) (why : IfaceError) (s : State) : Out :=
  .next (if why = .sessionLoss then s.loseSession fn else s.breakInterface fn)

/-- An answer of the SPDM responder in the buffer (log 9). -/
def State.respond (s : State) (x : List Byte) : State :=
  let f := s.fresh
  f.2.answerBuffer (Config.spdmResponse x f.1)

/-- A request about the interface: secured, and in one of the states that take it. -/
def State.tdiGate (s : State) (sts : List Nat) : List (Bool × Nat) :=
  s.gate none true unitSec ++ [(!sts.contains (s.fn s.sender).tdi, msBadState)]

/-- LOCK_INTERFACE. -/
def execLockInterface (s : State) : Out :=
  message s (s.tdiGate [0]) (((s.setFn s.sender { s.fn s.sender with tdi := tdiLocked })).respond [])

/-- START_INTERFACE. -/
def execStartInterface (s : State) : Out :=
  message s (s.tdiGate [tdiLocked]) (((s.setFn s.sender { s.fn s.sender with tdi := tdiRun })).respond [])

/-- STOP_INTERFACE. It completes when the reset sequence begins. -/
def execStopInterface (s : State) : Out :=
  message s (s.tdiGate [tdiLocked, tdiRun, tdiError]) ((s.respond []).startFlr s.sender)

/-- GET_DEVICE_INTERFACE_REPORT. -/
def execGetDeviceInterfaceReport (s : State) : Out :=
  let f := s.fresh
  message s (s.tdiGate [tdiLocked, tdiRun, tdiError]) (f.2.answerBuffer (Config.interfaceReport s.sender f.1))

/-- END_SESSION. -/
def execEndSession (s : State) : Out :=
  message s (s.gate none true unitSec ++ [(!(s.fn s.sender).sess, msBadState)]) ((s.respond []).loseSession s.sender)

/-- The state in which a request that a message of the session carries is decided: it is as secure as the session. -/
def State.inSession (s : State) : State :=
  s.setTurn { s.turn with msg := { s.turn.msg with sec := (s.fn s.sender).sess } }

/-- SPDM. A message that fails authentication is discarded (20 R476). -/
def execSpdm (addr len : Nat) (s : State) : Out :=
  let x := s.getBytes (keyHost addr) len
  let f := s.fresh
  let t := f.2
  match (s.gate none false unitSec).find? (·.1) with
  | some e => .next (s.answer e.2)
  | none =>
    match Config.spdmKind x f.1 with
    | 1 => .next ((t.setFn t.sender { t.fn t.sender with sess := true }).respond x)
    | 2 => execLockInterface t.inSession
    | 3 => execStartInterface t.inSession
    | 4 => execStopInterface t.inSession
    | 5 => execGetDeviceInterfaceReport t.inSession
    | 6 => execEndSession t.inSession
    | 7 => .next (t.loseSession t.sender)
    | _ => .next (t.respond x)

/-! ## Registers (20 R470, 18 R439) -/

/-- `FSTAT`; its reserved bits read as zero (00 R9). -/
def Fn.fstat (f : Fn) : Nat := at_ f.lost 32 + at_ (boolNat f.rst) 3 + at_ (boolNat f.sess) 2 + f.tdi

/-- What a read of each register of a function's page gives, in the order of R470: the write-only `MRHEAD` reads as zero (00 R9). -/
def Fn.page (f : Fn) : List Word :=
  [f.mrbase, BitVec.ofNat 64 f.mrsize, 0, BitVec.ofNat 64 f.mrtail, f.crbase, BitVec.ofNat 64 f.crsize, BitVec.ofNat 64 f.crhead,
    BitVec.ofNat 64 f.crtail, BitVec.ofNat 64 f.fstat]

/-- What a register reads as (20 R470, 18 R439). -/
def State.hostRead (s : State) (r : HostReg) : Word :=
  let at_ := fun (f i : Nat) => (s.fn f).page.getD i 0
  match r with
  | .mrbase f => at_ f 0
  | .mrsize f => at_ f 1
  | .mrtail f => at_ f 3
  | .crbase f => at_ f 4
  | .crsize f => at_ f 5
  | .crhead f => at_ f 6
  | .crtail f => at_ f 7
  | .fstat f => at_ f 8
  | .wpcfg d => BitVec.ofNat 64 (s.die d).wpcfg
  | .wtbank i => BitVec.ofNat 64 (s.bank i).wtbank

/-- The device reads the ring of a function next. -/
def State.ringNext (s : State) (fn : Nat) : State := { s with agenda := s.agenda ++ [.run (.host fn)] }

/-- 20 R472. -/
def execMrhead (fn idx : Nat) (s : State) : Out :=
  .next ((s.setFn fn { s.fn fn with mrhead := idx % 4096 }).ringNext fn)

/-- A ring register written: frozen once the interface is locked. -/
def State.ringWrite (s : State) (fn : Nat) (f : Fn → Fn) : State :=
  if (s.fn fn).tdi = tdiLocked ∨ (s.fn fn).tdi = tdiRun then s.breakInterface fn else s.setFn fn (f (s.fn fn))

/-- 00 R9. A read-only register or field ignores a write. -/
def execRegisterWrite (r : HostReg) (val : Word) (s : State) : Out :=
  let v := val.toNat
  .next
    (match r with
    | .mrbase f => s.ringWrite f fun x => { x with mrbase := val &&& ~~~63 }
    | .mrsize f => s.ringWrite f fun x => { x with mrsize := bits v 12 0 }
    | .crbase f => s.ringWrite f fun x => { x with crbase := val &&& ~~~31 }
    | .crsize f => s.ringWrite f fun x => { x with crsize := bits v 12 0 }
    | .crtail f => ((s.setFn f { s.fn f with crtail := bits v 11 0 }).pump).ringNext f
    | .mrtail _ => s
    | .crhead _ => s
    | .fstat _ => s
    | .wpcfg d => s.setDie d { s.die d with wlim := max 1 (bits v 43 20), itmax := max 1 (bits v 3 0) }
    | .wtbank _ => s)

end Sys2Proof.Machine
end

