-- ==== Sys2Proof/Machine/Dispatch.lean ====
section
/-! DEFINITION. Which meaning each instruction has: one arm per constructor. -/
namespace Sys2Proof.Machine

def exec (i : Instr) (s : State) : Host.Outcome State Fault Refusal :=
  match i with
  | .add rd a b g => Sys2Proof.Machine.execAdd rd a b g s
  | .sub rd a b g => Sys2Proof.Machine.execSub rd a b g s
  | .and rd a b g => Sys2Proof.Machine.execAnd rd a b g s
  | .or rd a b g => Sys2Proof.Machine.execOr rd a b g s
  | .xor rd a b g => Sys2Proof.Machine.execXor rd a b g s
  | .shl rd a b g => Sys2Proof.Machine.execShl rd a b g s
  | .shr rd a b g => Sys2Proof.Machine.execShr rd a b g s
  | .sra rd a b g => Sys2Proof.Machine.execSra rd a b g s
  | .addi rd a imm => Sys2Proof.Machine.execAddi rd a imm s
  | .andi rd a imm => Sys2Proof.Machine.execAndi rd a imm s
  | .ori rd a imm => Sys2Proof.Machine.execOri rd a imm s
  | .xori rd a imm => Sys2Proof.Machine.execXori rd a imm s
  | .shli rd a n => Sys2Proof.Machine.execShli rd a n s
  | .shri rd a n => Sys2Proof.Machine.execShri rd a n s
  | .srai rd a n => Sys2Proof.Machine.execSrai rd a n s
  | .limm k => Sys2Proof.Machine.execLimm k s
  | .mul rd a b g => Sys2Proof.Machine.execMul rd a b g s
  | .mulh rd a b g => Sys2Proof.Machine.execMulh rd a b g s
  | .mulhu rd a b g => Sys2Proof.Machine.execMulhu rd a b g s
  | .min rd a b g => Sys2Proof.Machine.execMin rd a b g s
  | .max rd a b g => Sys2Proof.Machine.execMax rd a b g s
  | .minu rd a b g => Sys2Proof.Machine.execMinu rd a b g s
  | .maxu rd a b g => Sys2Proof.Machine.execMaxu rd a b g s
  | .sel rd a b n => Sys2Proof.Machine.execSel rd a b n s
  | .div rd a b g => Sys2Proof.Machine.execDiv rd a b g s
  | .divu rd a b g => Sys2Proof.Machine.execDivu rd a b g s
  | .rem rd a b g => Sys2Proof.Machine.execRem rd a b g s
  | .remu rd a b g => Sys2Proof.Machine.execRemu rd a b g s
  | .clz rd a g => Sys2Proof.Machine.execClz rd a g s
  | .popc rd a g => Sys2Proof.Machine.execPopc rd a g s
  | .ext rd a p n => Sys2Proof.Machine.execExt rd a p n s
  | .ins rd a p n => Sys2Proof.Machine.execIns rd a p n s
  | .cmpEq pd a b g => Sys2Proof.Machine.execCmpEq pd a b g s
  | .cmpNe pd a b g => Sys2Proof.Machine.execCmpNe pd a b g s
  | .cmpLt pd a b g => Sys2Proof.Machine.execCmpLt pd a b g s
  | .cmpLtu pd a b g => Sys2Proof.Machine.execCmpLtu pd a b g s
  | .cmpGe pd a b g => Sys2Proof.Machine.execCmpGe pd a b g s
  | .cmpGeu pd a b g => Sys2Proof.Machine.execCmpGeu pd a b g s
  | .cmpi pd a c imm => Sys2Proof.Machine.execCmpi pd a c imm s
  | .pand pd pa pb g => Sys2Proof.Machine.execPand pd pa pb g s
  | .por pd pa pb g => Sys2Proof.Machine.execPor pd pa pb g s
  | .pxor pd pa pb g => Sys2Proof.Machine.execPxor pd pa pb g s
  | .pnot pd pa g => Sys2Proof.Machine.execPnot pd pa g s
  | .pmov pd pa g => Sys2Proof.Machine.execPmov pd pa g s
  | .br g disp => Sys2Proof.Machine.execBr g disp s
  | .call g disp => Sys2Proof.Machine.execCall g disp s
  | .jr rd a g => Sys2Proof.Machine.execJr rd a g s
  | .loop rd imm => Sys2Proof.Machine.execLoop rd imm s
  | .brk code g => Sys2Proof.Machine.execBrk code g s
  | .gaddr rd a w g => Sys2Proof.Machine.execGaddr rd a w g s
  | .sptest pd a classes g => Sys2Proof.Machine.execSptest pd a classes g s
  | .spcast rd a dir g => Sys2Proof.Machine.execSpcast rd a dir g s
  | .objsz rd a g => Sys2Proof.Machine.execObjsz rd a g s
  | .objver rd a g => Sys2Proof.Machine.execObjver rd a g s
  | .csrr rd csr => Sys2Proof.Machine.execCsrr rd csr s
  | .csrw a csr => Sys2Proof.Machine.execCsrw a csr s
  | .vexec w => Sys2Proof.Machine.execVexec w s
  | .mexec w => Sys2Proof.Machine.execMexec w s
  | .xexec w => Sys2Proof.Machine.execXexec w s
  | .mnest w => Sys2Proof.Machine.execMnest w s
  | .twait tk => Sys2Proof.Machine.execTwait tk s
  | .tclr tk => Sys2Proof.Machine.execTclr tk s
  | .vlend bank role g => Sys2Proof.Machine.execVlend bank role g s
  | .vrecl bank g => Sys2Proof.Machine.execVrecl bank g s
  | .phase a g => Sys2Proof.Machine.execPhase a g s
  | .waitdep g => Sys2Proof.Machine.execWaitdep g s
  | .trig g => Sys2Proof.Machine.execTrig g s
  | .launch a g => Sys2Proof.Machine.execLaunch a g s
  | .exit g => Sys2Proof.Machine.execExit g s
  | .yield g => Sys2Proof.Machine.execYield g s
  | .ldB rd a imm => Sys2Proof.Machine.execLdB rd a imm s
  | .ldBu rd a imm => Sys2Proof.Machine.execLdBu rd a imm s
  | .ldH rd a imm => Sys2Proof.Machine.execLdH rd a imm s
  | .ldHu rd a imm => Sys2Proof.Machine.execLdHu rd a imm s
  | .ldW rd a imm => Sys2Proof.Machine.execLdW rd a imm s
  | .ldWu rd a imm => Sys2Proof.Machine.execLdWu rd a imm s
  | .ldD rd a imm => Sys2Proof.Machine.execLdD rd a imm s
  | .stB rd a imm => Sys2Proof.Machine.execStB rd a imm s
  | .stH rd a imm => Sys2Proof.Machine.execStH rd a imm s
  | .stW rd a imm => Sys2Proof.Machine.execStW rd a imm s
  | .stD rd a imm => Sys2Proof.Machine.execStD rd a imm s
  | .amoSwapW rd a b sc => Sys2Proof.Machine.execAmoSwapW rd a b sc s
  | .amoAddW rd a b sc => Sys2Proof.Machine.execAmoAddW rd a b sc s
  | .amoAndW rd a b sc => Sys2Proof.Machine.execAmoAndW rd a b sc s
  | .amoOrW rd a b sc => Sys2Proof.Machine.execAmoOrW rd a b sc s
  | .amoXorW rd a b sc => Sys2Proof.Machine.execAmoXorW rd a b sc s
  | .amoMinW rd a b sc => Sys2Proof.Machine.execAmoMinW rd a b sc s
  | .amoMaxW rd a b sc => Sys2Proof.Machine.execAmoMaxW rd a b sc s
  | .amoSwapD rd a b sc => Sys2Proof.Machine.execAmoSwapD rd a b sc s
  | .amoAddD rd a b sc => Sys2Proof.Machine.execAmoAddD rd a b sc s
  | .amoAndD rd a b sc => Sys2Proof.Machine.execAmoAndD rd a b sc s
  | .amoOrD rd a b sc => Sys2Proof.Machine.execAmoOrD rd a b sc s
  | .amoXorD rd a b sc => Sys2Proof.Machine.execAmoXorD rd a b sc s
  | .amoMinD rd a b sc => Sys2Proof.Machine.execAmoMinD rd a b sc s
  | .amoMaxD rd a b sc => Sys2Proof.Machine.execAmoMaxD rd a b sc s
  | .amoMinuW rd a b sc => Sys2Proof.Machine.execAmoMinuW rd a b sc s
  | .amoMaxuW rd a b sc => Sys2Proof.Machine.execAmoMaxuW rd a b sc s
  | .amoMinuD rd a b sc => Sys2Proof.Machine.execAmoMinuD rd a b sc s
  | .amoMaxuD rd a b sc => Sys2Proof.Machine.execAmoMaxuD rd a b sc s
  | .casW rd a b sc => Sys2Proof.Machine.execCasW rd a b sc s
  | .casD rd a b sc => Sys2Proof.Machine.execCasD rd a b sc s
  | .ldacqW rd a sc => Sys2Proof.Machine.execLdacqW rd a sc s
  | .ldacqD rd a sc => Sys2Proof.Machine.execLdacqD rd a sc s
  | .strelW a b sc => Sys2Proof.Machine.execStrelW a b sc s
  | .strelD a b sc => Sys2Proof.Machine.execStrelD a b sc s
  | .fence sc => Sys2Proof.Machine.execFence sc s
  | .fenceRel sc => Sys2Proof.Machine.execFenceRel sc s
  | .fenceAcq sc => Sys2Proof.Machine.execFenceAcq sc s
  | .bar a sc => Sys2Proof.Machine.execBar a sc s
  | .txarr a b g => Sys2Proof.Machine.execTxarr a b g s
  | .txwait rd a g => Sys2Proof.Machine.execTxwait rd a g s
  | .copy w => Sys2Proof.Machine.execCopy w s
  | .copyt w => Sys2Proof.Machine.execCopyt w s
  | .copyr w => Sys2Proof.Machine.execCopyr w s
  | .gath w => Sys2Proof.Machine.execGath w s
  | .scat w => Sys2Proof.Machine.execScat w s
  | .redc w => Sys2Proof.Machine.execRedc w s
  | .ratom w => Sys2Proof.Machine.execRatom w s
  | .bpref w => Sys2Proof.Machine.execBpref w s
  | .wprog w => Sys2Proof.Machine.execWprog w s
  | .trap code g => Sys2Proof.Machine.execTrap code g s
  | .eret g => Sys2Proof.Machine.execEret g s
  | .halt g => Sys2Proof.Machine.execHalt g s
  | .vfcfgEnable g => Sys2Proof.Machine.execVfcfgEnable g s
  | .vfcfgDisable g => Sys2Proof.Machine.execVfcfgDisable g s
  | .vfcfgGate g => Sys2Proof.Machine.execVfcfgGate g s
  | .vfcfgReopen g => Sys2Proof.Machine.execVfcfgReopen g s
  | .vadd w => Sys2Proof.Machine.execVadd w s
  | .vsub w => Sys2Proof.Machine.execVsub w s
  | .vmul w => Sys2Proof.Machine.execVmul w s
  | .vfma w => Sys2Proof.Machine.execVfma w s
  | .vfms w => Sys2Proof.Machine.execVfms w s
  | .vmin w => Sys2Proof.Machine.execVmin w s
  | .vmax w => Sys2Proof.Machine.execVmax w s
  | .vabs w => Sys2Proof.Machine.execVabs w s
  | .vneg w => Sys2Proof.Machine.execVneg w s
  | .vrcp w => Sys2Proof.Machine.execVrcp w s
  | .vrsq w => Sys2Proof.Machine.execVrsq w s
  | .vexp2 w => Sys2Proof.Machine.execVexp2 w s
  | .vlog2 w => Sys2Proof.Machine.execVlog2 w s
  | .vtanh w => Sys2Proof.Machine.execVtanh w s
  | .vmov w => Sys2Proof.Machine.execVmov w s
  | .vbcast w => Sys2Proof.Machine.execVbcast w s
  | .vperm w => Sys2Proof.Machine.execVperm w s
  | .vsel w => Sys2Proof.Machine.execVsel w s
  | .vcmpEq w => Sys2Proof.Machine.execVcmpEq w s
  | .vcmpNe w => Sys2Proof.Machine.execVcmpNe w s
  | .vcmpLt w => Sys2Proof.Machine.execVcmpLt w s
  | .vcmpGe w => Sys2Proof.Machine.execVcmpGe w s
  | .vand w => Sys2Proof.Machine.execVand w s
  | .vor w => Sys2Proof.Machine.execVor w s
  | .vxor w => Sys2Proof.Machine.execVxor w s
  | .vshl w => Sys2Proof.Machine.execVshl w s
  | .vshr w => Sys2Proof.Machine.execVshr w s
  | .vsra w => Sys2Proof.Machine.execVsra w s
  | .vcvt w => Sys2Proof.Machine.execVcvt w s
  | .vquant w => Sys2Proof.Machine.execVquant w s
  | .vdequant w => Sys2Proof.Machine.execVdequant w s
  | .vsum w => Sys2Proof.Machine.execVsum w s
  | .vmaxr w => Sys2Proof.Machine.execVmaxr w s
  | .vscan w => Sys2Proof.Machine.execVscan w s
  | .vmaskw w => Sys2Proof.Machine.execVmaskw w s
  | .viota w => Sys2Proof.Machine.execViota w s
  | .vext w => Sys2Proof.Machine.execVext w s
  | .vins w => Sys2Proof.Machine.execVins w s
  | .vgath w => Sys2Proof.Machine.execVgath w s
  | .vscat w => Sys2Proof.Machine.execVscat w s
  | .vsync w => Sys2Proof.Machine.execVsync w s
  | .vfcnt w => Sys2Proof.Machine.execVfcnt w s
  | .wld w => Sys2Proof.Machine.execWld w s
  | .astep w => Sys2Proof.Machine.execAstep w s
  | .astepa w => Sys2Proof.Machine.execAstepa w s
  | .aclr w => Sys2Proof.Machine.execAclr w s
  | .aadd w => Sys2Proof.Machine.execAadd w s
  | .ascl w => Sys2Proof.Machine.execAscl w s
  | .ard w => Sys2Proof.Machine.execArd w s
  | .mnop w => Sys2Proof.Machine.execMnop w s
  | .mcont w => Sys2Proof.Machine.execMcont w s
  | .cmdLdi w ext => Sys2Proof.Machine.execCmdLdi w ext s
  | .cmdAdd w => Sys2Proof.Machine.execCmdAdd w s
  | .cmdSub w => Sys2Proof.Machine.execCmdSub w s
  | .cmdAnd w => Sys2Proof.Machine.execCmdAnd w s
  | .cmdOr w => Sys2Proof.Machine.execCmdOr w s
  | .cmdShl w => Sys2Proof.Machine.execCmdShl w s
  | .cmdCmp w => Sys2Proof.Machine.execCmdCmp w s
  | .cmdBr w => Sys2Proof.Machine.execCmdBr w s
  | .cmdBrc w => Sys2Proof.Machine.execCmdBrc w s
  | .cmdCall w => Sys2Proof.Machine.execCmdCall w s
  | .cmdLoop w => Sys2Proof.Machine.execCmdLoop w s
  | .cmdLoad w => Sys2Proof.Machine.execCmdLoad w s
  | .cmdStore w => Sys2Proof.Machine.execCmdStore w s
  | .cmdWait w => Sys2Proof.Machine.execCmdWait w s
  | .cmdSignalSet w => Sys2Proof.Machine.execCmdSignalSet w s
  | .cmdSignalAdd w => Sys2Proof.Machine.execCmdSignalAdd w s
  | .invoke w ext => Sys2Proof.Machine.execInvoke w ext s
  | .cmdLaunch w => Sys2Proof.Machine.execCmdLaunch w s
  | .graph w => Sys2Proof.Machine.execGraph w s
  | .bind w => Sys2Proof.Machine.execBind w s
  | .evict w => Sys2Proof.Machine.execEvict w s
  | .timeat w => Sys2Proof.Machine.execTimeat w s
  | .gang w => Sys2Proof.Machine.execGang w s
  | .report w => Sys2Proof.Machine.execReport w s
  | .summary w => Sys2Proof.Machine.execSummary w s
  | .ctxCreate ctx prot fn entries => Sys2Proof.Machine.execCtxCreate ctx prot fn entries s
  | .ctxDestroy ctx => Sys2Proof.Machine.execCtxDestroy ctx s
  | .fnAssign ctx fn => Sys2Proof.Machine.execFnAssign ctx fn s
  | .objWrite ctx idx ent => Sys2Proof.Machine.execObjWrite ctx idx ent s
  | .extentInvalidate ctx idx ext => Sys2Proof.Machine.execExtentInvalidate ctx idx ext s
  | .extentMap ctx idx ext => Sys2Proof.Machine.execExtentMap ctx idx ext s
  | .extentFatal ctx idx ext => Sys2Proof.Machine.execExtentFatal ctx idx ext s
  | .queueCreate q attr => Sys2Proof.Machine.execQueueCreate q attr s
  | .queueConfig q attr => Sys2Proof.Machine.execQueueConfig q attr s
  | .queueDoorbell q head => Sys2Proof.Machine.execQueueDoorbell q head s
  | .queueRestart q loc => Sys2Proof.Machine.execQueueRestart q loc s
  | .queueDestroy q => Sys2Proof.Machine.execQueueDestroy q s
  | .queueRead q => Sys2Proof.Machine.execQueueRead q s
  | .codeLoad ctx addr len => Sys2Proof.Machine.execCodeLoad ctx addr len s
  | .codeUnload desc => Sys2Proof.Machine.execCodeUnload desc s
  | .adpInstall slot attr => Sys2Proof.Machine.execAdpInstall slot attr s
  | .adpRelease slot => Sys2Proof.Machine.execAdpRelease slot s
  | .adpForceEvict slot => Sys2Proof.Machine.execAdpForceEvict slot s
  | .adpRead slot => Sys2Proof.Machine.execAdpRead slot s
  | .modelLoad model ent attr => Sys2Proof.Machine.execModelLoad model ent attr s
  | .modelSwitch model => Sys2Proof.Machine.execModelSwitch model s
  | .modelRetire model ent => Sys2Proof.Machine.execModelRetire model ent s
  | .modelRead model => Sys2Proof.Machine.execModelRead model s
  | .wobjWrite id lo hi => Sys2Proof.Machine.execWobjWrite id lo hi s
  | .readyClear die => Sys2Proof.Machine.execReadyClear die s
  | .warmReset die => Sys2Proof.Machine.execWarmReset die s
  | .moduleRetrain die module => Sys2Proof.Machine.execModuleRetrain die module s
  | .recal column bank => Sys2Proof.Machine.execRecal column bank s
  | .retrain die channel => Sys2Proof.Machine.execRetrain die channel s
  | .fwWrite cls die svn addr len => Sys2Proof.Machine.execFwWrite cls die svn addr len s
  | .fwSwitch cls die => Sys2Proof.Machine.execFwSwitch cls die s
  | .wtRead die first count => Sys2Proof.Machine.execWtRead die first count s
  | .podForm self master form => Sys2Proof.Machine.execPodForm self master form s
  | .podRoute first ports => Sys2Proof.Machine.execPodRoute first ports s
  | .cellarPool ents => Sys2Proof.Machine.execCellarPool ents s
  | .preemptCoop ctx => Sys2Proof.Machine.execPreemptCoop ctx s
  | .preemptForce ctx gang => Sys2Proof.Machine.execPreemptForce ctx gang s
  | .resume ctx => Sys2Proof.Machine.execResume ctx s
  | .cellarWithdraw die addr => Sys2Proof.Machine.execCellarWithdraw die addr s
  | .keySet slot key => Sys2Proof.Machine.execKeySet slot key s
  | .keyAssign slot ctx => Sys2Proof.Machine.execKeyAssign slot ctx s
  | .keyErase slot => Sys2Proof.Machine.execKeyErase slot s
  | .counterAdvance ctr val => Sys2Proof.Machine.execCounterAdvance ctr val s
  | .debugUnlock token => Sys2Proof.Machine.execDebugUnlock token s
  | .attest ctx nonce => Sys2Proof.Machine.execAttest ctx nonce s
  | .lockInterface => Sys2Proof.Machine.execLockInterface s
  | .startInterface => Sys2Proof.Machine.execStartInterface s
  | .stopInterface => Sys2Proof.Machine.execStopInterface s
  | .getDeviceInterfaceReport => Sys2Proof.Machine.execGetDeviceInterfaceReport s
  | .endSession => Sys2Proof.Machine.execEndSession s
  | .spdm addr len => Sys2Proof.Machine.execSpdm addr len s
  | .xend => Sys2Proof.Machine.execXend s
  | .qmark => Sys2Proof.Machine.execQmark s
  | .cmdNop => Sys2Proof.Machine.execCmdNop s
  | .cmdRet => Sys2Proof.Machine.execCmdRet s
  | .cmdEndl => Sys2Proof.Machine.execCmdEndl s
  | .cmdFence => Sys2Proof.Machine.execCmdFence s
  | .cmdHalt => Sys2Proof.Machine.execCmdHalt s
  | .timeQuery => Sys2Proof.Machine.execTimeQuery s
  | .summaryMsg => Sys2Proof.Machine.execSummaryMsg s
  | .readyQuery => Sys2Proof.Machine.execReadyQuery s
  | .waitReread q => Sys2Proof.Machine.execWaitReread q s
  | .waitTimeout q => Sys2Proof.Machine.execWaitTimeout q s
  | .timeatReached q => Sys2Proof.Machine.execTimeatReached q s
  | .gangStart q => Sys2Proof.Machine.execGangStart q s
  | .gangGuardExpiry q => Sys2Proof.Machine.execGangGuardExpiry q s
  | .gangLateLimit q => Sys2Proof.Machine.execGangLateLimit q s
  | .gangLateReceive gang sender => Sys2Proof.Machine.execGangLateReceive gang sender s
  | .gangArrived q => Sys2Proof.Machine.execGangArrived q s
  | .gangArrivedReceive gang sender => Sys2Proof.Machine.execGangArrivedReceive gang sender s
  | .invokeBlockFree q => Sys2Proof.Machine.execInvokeBlockFree q s
  | .launchAdmit => Sys2Proof.Machine.execLaunchAdmit s
  | .placement lnum ranges recs => Sys2Proof.Machine.execPlacement lnum ranges recs s
  | .bindRecordBind slot => Sys2Proof.Machine.execBindRecordBind slot s
  | .earlyBind slot => Sys2Proof.Machine.execEarlyBind slot s
  | .stealRequest thief loft => Sys2Proof.Machine.execStealRequest thief loft s
  | .launchComplete lnum => Sys2Proof.Machine.execLaunchComplete lnum s
  | .matrixBindingEnd pair => Sys2Proof.Machine.execMatrixBindingEnd pair s
  | .accClearEnd pair => Sys2Proof.Machine.execAccClearEnd pair s
  | .engineBlockBegin slot eng => Sys2Proof.Machine.execEngineBlockBegin slot eng s
  | .tokenComplete slot tk gen => Sys2Proof.Machine.execTokenComplete slot tk gen s
  | .twaitRelease slot => Sys2Proof.Machine.execTwaitRelease slot s
  | .waitdepRelease slot => Sys2Proof.Machine.execWaitdepRelease slot s
  | .trigSignal slot => Sys2Proof.Machine.execTrigSignal slot s
  | .exitRetire slot => Sys2Proof.Machine.execExitRetire slot s
  | .txwaitRelease a => Sys2Proof.Machine.execTxwaitRelease a s
  | .phaseMoveEnd pair => Sys2Proof.Machine.execPhaseMoveEnd pair s
  | .stallResume a => Sys2Proof.Machine.execStallResume a s
  | .accessResponse id => Sys2Proof.Machine.execAccessResponse id s
  | .transferLanding id piece => Sys2Proof.Machine.execTransferLanding id piece s
  | .transferRetire id => Sys2Proof.Machine.execTransferRetire id s
  | .extentWalk core ctx obj ext => Sys2Proof.Machine.execExtentWalk core ctx obj ext s
  | .sideLogReplay core => Sys2Proof.Machine.execSideLogReplay core s
  | .cacheWriteback pair line => Sys2Proof.Machine.execCacheWriteback pair line s
  | .homeMessageApply ch => Sys2Proof.Machine.execHomeMessageApply ch s
  | .messageAck ch => Sys2Proof.Machine.execMessageAck ch s
  | .linkResend ch => Sys2Proof.Machine.execLinkResend ch s
  | .permitReturn die module cls => Sys2Proof.Machine.execPermitReturn die module cls s
  | .governorWindow pair => Sys2Proof.Machine.execGovernorWindow pair s
  | .fwshareWindow core => Sys2Proof.Machine.execFwshareWindow core s
  | .engineStop slot eng => Sys2Proof.Machine.execEngineStop slot eng s
  | .matrixHaltSkidEnd pair rows => Sys2Proof.Machine.execMatrixHaltSkidEnd pair rows s
  | .trapDelivery ctx => Sys2Proof.Machine.execTrapDelivery ctx s
  | .stairwellClosed pair => Sys2Proof.Machine.execStairwellClosed pair s
  | .stairwellDrainTimeout pair => Sys2Proof.Machine.execStairwellDrainTimeout pair s
  | .preemptArm ctx => Sys2Proof.Machine.execPreemptArm ctx s
  | .preemptFree ctx => Sys2Proof.Machine.execPreemptFree ctx s
  | .divertedRequest id piece => Sys2Proof.Machine.execDivertedRequest id piece s
  | .diversionFold pair ctx => Sys2Proof.Machine.execDiversionFold pair ctx s
  | .resumeBind ctx => Sys2Proof.Machine.execResumeBind ctx s
  | .coopPreemptComplete ctx => Sys2Proof.Machine.execCoopPreemptComplete ctx s
  | .firmwareContextRestart core pc => Sys2Proof.Machine.execFirmwareContextRestart core pc s
  | .wpRequestBegin die => Sys2Proof.Machine.execWpRequestBegin die s
  | .wpIterationEnd die => Sys2Proof.Machine.execWpIterationEnd die s
  | .wpFlip die => Sys2Proof.Machine.execWpFlip die s
  | .wpTreeUpdateEnd die => Sys2Proof.Machine.execWpTreeUpdateEnd die s
  | .drainingRowFree bank row => Sys2Proof.Machine.execDrainingRowFree bank row s
  | .recalStart bank => Sys2Proof.Machine.execRecalStart bank s
  | .recalEnd bank => Sys2Proof.Machine.execRecalEnd bank s
  | .adapterRefsZero slot => Sys2Proof.Machine.execAdapterRefsZero slot s
  | .versionRefsZero model ent => Sys2Proof.Machine.execVersionRefsZero model ent s
  | .adapterStateAck core slot => Sys2Proof.Machine.execAdapterStateAck core slot s
  | .loadComplete desc => Sys2Proof.Machine.execLoadComplete desc s
  | .startupStepEnd u ok reason => Sys2Proof.Machine.execStartupStepEnd u ok reason s
  | .modelStartupMeasure model ent => Sys2Proof.Machine.execModelStartupMeasure model ent s
  | .warmResetStepEnd die => Sys2Proof.Machine.execWarmResetStepEnd die s
  | .timeExchange die delay offset => Sys2Proof.Machine.execTimeExchange die delay offset s
  | .holdoverEnter die => Sys2Proof.Machine.execHoldoverEnter die s
  | .timeUnlock die => Sys2Proof.Machine.execTimeUnlock die s
  | .timeLockAcquire die => Sys2Proof.Machine.execTimeLockAcquire die s
  | .railTelemetry die budgets => Sys2Proof.Machine.execRailTelemetry die budgets s
  | .junctionOvertemp die budgets => Sys2Proof.Machine.execJunctionOvertemp die budgets s
  | .thermalTrip => Sys2Proof.Machine.execThermalTrip s
  | .coldReset => Sys2Proof.Machine.execColdReset s
  | .powerLoss => Sys2Proof.Machine.execPowerLoss s
  | .ucieModuleDown die module => Sys2Proof.Machine.execUcieModuleDown die module s
  | .flitCrcReplay die module => Sys2Proof.Machine.execFlitCrcReplay die module s
  | .podLinkDown port => Sys2Proof.Machine.execPodLinkDown port s
  | .dieLost die => Sys2Proof.Machine.execDieLost die s
  | .ioDieFailure k => Sys2Proof.Machine.execIoDieFailure k s
  | .uncorrectableError u => Sys2Proof.Machine.execUncorrectableError u s
  | .correctedError u => Sys2Proof.Machine.execCorrectedError u s
  | .functionLevelReset fn => Sys2Proof.Machine.execFunctionLevelReset fn s
  | .interfaceError fn why => Sys2Proof.Machine.execInterfaceError fn why s
  | .mrhead fn idx => Sys2Proof.Machine.execMrhead fn idx s
  | .registerWrite r val => Sys2Proof.Machine.execRegisterWrite r val s
  | .podLinkUp port => Sys2Proof.Machine.execPodLinkUp port s
  | .ucieModuleRetrainEnd die module => Sys2Proof.Machine.execUcieModuleRetrainEnd die module s
  | .lpddrRetrainEnd die channel => Sys2Proof.Machine.execLpddrRetrainEnd die channel s
  | .lpddrChannelFailure die channel => Sys2Proof.Machine.execLpddrChannelFailure die channel s
  | .firmwareSwitchEnd cls die => Sys2Proof.Machine.execFirmwareSwitchEnd cls die s
  | .flrStepEnd fn => Sys2Proof.Machine.execFlrStepEnd fn s

end Sys2Proof.Machine
end

