-- ==== Sys2Proof/Machine/Issue.lean ====
section
/-! DEFINITION. What an agent does when it moves: a bundle, an engine word, a command or a host message is fetched, decoded and run
(spec 01 R18–R23, 03 R84–R113, 06 R208, 12 R325, 15 R374–R377, 20 R471–R477). -/
namespace Sys2Proof.Machine

/-- An outcome's next state, passed through `f`. -/
def afterwards (o : Out) (f : State → State) : Out :=
  match o with
  | .next t => .next (f t)
  | o => o

/-! ## A bundle (03 R84–R88, R107–R111) -/

/-- The words of a bundle one after another, each at its address; a word that stops ends the bundle. -/
def issueWords (l : List Word1) (s : State) : Out :=
  match l with
  | [] => .next s
  | w :: t =>
    match exec w.instr (s.setTurn { s.turn with wordPc := w.addr }) with
    | .next u =>
      if u.turn.stop = .none then
        issueWords t (if isLimm w.instr then u else u.setTurn { u.turn with limm := none })
      else .next u
    | .fault r => .fault r
    | .refused r => .refused r

/-- A CSR read, which sees what stood before its bundle. -/
def readsState (i : Instr) : Bool := match i with | .csrr _ _ => true | _ => false

/-- A word that changes what other words of its bundle see: the state of PHASE, VFCFG and ERET. -/
def changesState (i : Instr) : Bool :=
  match i with
  | .phase _ _ => true
  | .vfcfgEnable _ => true
  | .vfcfgDisable _ => true
  | .vfcfgGate _ => true
  | .vfcfgReopen _ => true
  | .eret _ => true
  | _ => false

/-- The words of a bundle in the order that makes them one step (03 R85): those that read state other words change come first,
those that change it last, each group in address order. The register writes of all wait for the bundle's end. Log 89. -/
def asOneStep (l : List Word1) : List Word1 :=
  (l.filter fun w => readsState w.instr) ++ (l.filter fun w => !readsState w.instr && !changesState w.instr)
    ++ l.filter fun w => !readsState w.instr && changesState w.instr

/-- The predicate writes of a bundle that are due at a position. -/
def Hart.landPreds (h : Hart) : Hart :=
  let p := landPend (fun e => decide (e.due ≤ h.rf.pos)) h.p h.pendP
  { h with p := p.1, pendP := p.2 }

/-- A stream goes on at `pc`, its issue position moved by `d`. -/
def Hart.advance (h : Hart) (pc : Word) (d : Nat) : Hart := ({ h with pc := pc, rf := h.rf.advance d }).landPreds

/-- The same after ERET: every earlier write is seen (03 R108). -/
def Hart.landed (h : Hart) : Hart :=
  { h with rf := h.rf.settle, p := (landPend (fun _ => true) h.p h.pendP).1, pendP := [] }

/-- A predicate that the bundle writes is no longer overwritten by an older vector write (03 R108). -/
def State.dropOlderPreds (s : State) : State :=
  match agentSlot s.turn.agent with
  | none => s
  | some k =>
    let t := s.task k
    s.setTask k { t with pendVP := t.pendVP.filter fun e => !t.hart.pendP.any fun o => o.reg == e.reg }

/-- The end of a bundle of a task or a firmware context whose words have all taken effect. -/
def State.endBundle (s : State) (stall : Nat) (returned : Bool) : State :=
  let s := s.dropOlderPreds
  let h := s.hart.advance s.turn.next (1 + stall)
  (s.setHart (if returned then h.landed else h)).landCsr

/-- A bundle of agent `a` at `pc`: when one of its words traps or waits, none takes effect (03 R85). -/
def State.issueBundle (s : State) (a : Agent) (pc : Word) : Out :=
  let s := s.beginTurn a pc pc
  match s.fetchBundle pc with
  | .error addr => finish s (.trap cIllegal addr)
  | .ok b =>
    let s := s.setTurn { s.turn with next := b.next }
    match s.issueCheck b with
    | .trap c v => finish s (.trap c v)
    | .hold h => finish s (.hold h)
    | .ok _ s =>
      match issueWords (asOneStep b.words) s with
      | .next t =>
        match t.turn.stop with
        | .none => .next (t.endBundle b.stall (s.hart.inhdl && !t.hart.inhdl))
        | .trapped c v => finish s (.trap c v)
        | .held h => finish s (.hold h)
      | o => o

/-! ## The control core (01 R18–R21, 04 R148, R156, R157) -/

/-- The wait of an agent's stream, and any TWAIT with it, is over. -/
def State.holdOver (s : State) (k : Nat) (h : Hold) (more : List Gen) : Bool :=
  let t := s.task k
  let own := match h.kind with
    | .twait => t.genDone ⟨h.a, h.v.setWidth 16⟩
    | .bar =>
      let c := h.a / 16
      let b := s.barChan c (barInstance c (slotPair k)) t.ctx (h.a % 16)
      decide (b.episode ≠ h.v.toNat)
    | .exit => s.exitReady k
    | _ => true
  own && more.all t.genDone

/-- A slot whose wait is over goes on: a barrier's waiter acquires (07 R248), and EXIT retires. -/
def State.leaveHold (s : State) (k : Nat) (h : Hold) : State :=
  match h.kind with
  | .bar => (s.setTask k (s.task k).unhold).acquire (h.a / 16)
  | .exit => s.retire k
  | _ => s.setTask k (s.task k).unhold

/-! ## Which context issues (01 R20, R21, 04 R157) -/

/-- The bundle or word in issue waits. -/
def isHeld (o : Out) : Bool :=
  match o with
  | .next t => match t.turn.stop with
    | .held _ => true
    | _ => false
  | _ => false

/-- A task's next bundle issues, what it waited for being over. -/
def State.goOn (s : State) (k : Nat) : Out :=
  let t := s.task k
  (if t.hold.kind = .none then s else s.leaveHold k t.hold).issueBundle (.scalar k) t.hart.pc

/-- The slot at `k` is ready (R21). Its stall count and its fetch are the agenda's (log 90). -/
def State.slotReady (s : State) (k : Nat) : Bool :=
  s.mayRun k && !s.unready.contains (.scalar k) &&
    let s := (s.settle k).beginTurn (.scalar k) (s.task k).hart.pc (s.task k).hart.pc
    let t := s.task k
    t.hold.kind != .exit && (t.hold.kind == .none || s.holdOver k t.hold t.waits) && !isHeld (s.goOn k)

/-- The firmware context of a core exists and may run: a pair of a die without a loft layer has no loft core (00 R2). -/
def State.firmwareUp (s : State) (c : Nat) : Bool :=
  !(s.fw c).halted && s.dieUp (coreDie c) && (!coreLoft c || (s.die (coreDie c)).loft)

/-- The firmware context of core `c` has a bundle ready. -/
def State.firmwareReady (s : State) (c : Nat) : Bool :=
  s.firmwareUp c && !s.unready.contains (.firmware c) && !isHeld (s.issueBundle (.firmware c) (s.fw c).hart.pc)

/-- Bundles that the firmware context has issued in the present window of 64 cycles (R20). -/
def State.firmwareIssued (s : State) (c : Nat) : Nat :=
  if (s.core c).fwWindow = (s.die (coreDie c)).cycle.toNat / 64 then (s.core c).fwCount else 0

/-- The task slots of a core, the one after the last granted first. -/
def State.slotOrder (s : State) (c : Nat) : List Nat :=
  let last := (s.core c).lastSlot
  ((coreSlots c).filter fun k => slotIndex k != last) ++ (coreSlots c).filter fun k => slotIndex k == last

/-- The choice of R20 among the contexts of a core that are ready, and the slot that a YIELD's mark passes over (04 R157). -/
def chooseContext (c : Nat) (share firmware : Bool) (order : List Nat) (ready skip : Nat → Bool) : Option Agent × Option Nat :=
  let rest := if firmware then some (Agent.firmware c) else none
  if share && firmware then (some (.firmware c), none)
  else
    match order.find? ready with
    | none => (rest, none)
    | some k =>
      if !skip k then (some (.scalar k), none)
      else
        match order.find? fun o => ready o && o != k with
        | some o => (some (.scalar o), some k)
        | none => (rest, some k)

/-- The choice in core `c` where `a`, which asks to issue, counts as ready. -/
def State.choice (s : State) (c : Nat) (a : Agent) : Option Agent × Option Nat :=
  chooseContext c (decide (s.firmwareIssued c < (s.core c).fwN)) (a == .firmware c || s.firmwareReady c) (s.slotOrder c)
    (fun k => a == .scalar k || s.slotReady k) fun k => (s.task k).skip

/-- A mark of YIELD is cleared. -/
def State.unskip (s : State) (k : Option Nat) : State :=
  match k with
  | none => s
  | some k => s.setTask k { s.task k with skip := false }

/-- The cycle is used: the last slot granted, the firmware's count, and a mark that passed a slot over. -/
def State.noteIssue (s : State) (a : Agent) (passed : Option Nat) : State :=
  match s.turn.stop with
  | .held _ => s
  | _ =>
    let s := s.unskip passed
    match a with
    | .scalar k =>
      let c := slotCore k
      s.setCore c { s.core c with lastSlot := slotIndex k }
    | .firmware c =>
      s.setCore c { s.core c with fwCount := s.firmwareIssued c + 1, fwWindow := (s.die (coreDie c)).cycle.toNat / 64 }
    | _ => s

/-- A task's control core moves, where the choice of R20 falls on it. -/
def State.runScalar (s : State) (k : Nat) : Out :=
  if !s.mayRun k || s.unready.contains (.scalar k) then .next s
  else
    let s := (s.settle k).beginTurn (.scalar k) (s.task k).hart.pc (s.task k).hart.pc
    let t := s.task k
    if t.faultPending && !t.hart.inhdl then .next (s.nextDeferred k)
    else if t.hold.kind ≠ .none && !s.holdOver k t.hold t.waits then .next s
    else if t.hold.kind = .exit then .next (s.leaveHold k t.hold)
    else
      match s.choice (slotCore k) (.scalar k) with
      | (some (.scalar o), passed) =>
        if o = k then afterwards (s.goOn k) fun u => u.noteIssue (.scalar k) passed else .next s
      | (none, passed) => .next (if passed = some k && s.slotReady k then s.unskip passed else s)
      | _ => .next s

/-- A firmware context moves, where the choice of R20 falls on it. -/
def State.runFirmware (s : State) (c : Nat) : Out :=
  if !s.firmwareUp c || s.unready.contains (.firmware c) then .next s
  else
    match s.choice c (.firmware c) with
    | (some (.firmware _), passed) =>
      afterwards (s.issueBundle (.firmware c) (s.fw c).hart.pc) fun t => t.noteIssue (.firmware c) passed
    | _ => .next s

/-! ## The transfer sequencer (03 R89) -/

/-- The agent that an engine of a slot is. -/
def engAgent (k eng : Nat) : Agent := match eng with | 1 => .vector k | 2 => .matrix k | _ => .transfer k

/-- A stream of an engine whose wait is over; a barrier's waiter acquires in its own core. -/
def State.unholdEngine (s : State) (k eng : Nat) (h : Hold) : State :=
  let t := s.task k
  let s := s.beginTurn (engAgent k eng) (t.eng eng).pc (t.eng eng).pc
  let s := s.setTask k (t.setEng eng { t.eng eng with cur := (t.eng eng).cur.map fun r => { r with hold := Hold.init } })
  if h.kind = .bar then s.acquire (h.a / 16) else s

/-- The block goes on at the address after its bundle, unless the bundle ended it. -/
def State.endTransfer (s : State) (stall : Nat) : State :=
  let s := (s.setRf (s.rf.advance (1 + stall))).landCsr
  match s.running with
  | none => s
  | some r => s.setRunning (some { r with pc := s.turn.next, word := r.word + 1 })

/-- The bundle of a transfer block. -/
def State.issueTransfer (s : State) (k : Nat) (pc : Word) : Out :=
  let s := s.beginTurn (.transfer k) pc pc
  match s.fetchTransfer pc with
  | .error addr => finish s (.trap cIllegal addr)
  | .ok b =>
    let s := s.setTurn { s.turn with next := b.next }
    match s.issueCheck b with
    | .trap c v => finish s (.trap c v)
    | .hold h => finish s (.hold h)
    | .ok _ s =>
      match issueWords b.words s with
      | .next t => .next (if t.turn.stop = .none then t.endTransfer b.stall else t)
      | o => o

/-! ## Engines (01 R22, 04 R143, 06 R208) -/

/-- The next run or the end of a vector block that has run a word; the writes due by now land. -/
def State.endVector (s : State) (stall : Nat) : State :=
  let k := s.me
  let t := s.task k
  let pos := t.posV + 1 + stall
  let v := landPend (fun e => decide (e.due ≤ pos)) t.v t.pendV
  let p := landPend (fun e => decide (e.due ≤ pos)) t.hart.p t.pendVP
  let s := s.setTask k { t with posV := pos, v := v.1, pendV := v.2, hart := { t.hart with p := p.1 }, pendVP := p.2 }
  match s.running with
  | none => s
  | some r =>
    if r.word + 1 < r.n then s.setRunning (some { r with pc := r.pc + 12, word := r.word + 1 })
    else if r.run + 1 < r.blk.runs then s.setRunning (some { r with pc := r.start, word := 0, run := r.run + 1 })
    else (s.setRunning (some { r with pc := r.pc + 12 })).endBlock k 1

/-- A vector word. -/
def State.issueVector (s : State) (k : Nat) (r : Running) : Out :=
  let s := s.beginTurn (.vector k) r.pc (r.pc + 12)
  let w := s.codeBytes (s.task k).code 1 r.pc.toNat 12
  if s.sectionSize (s.task k).code 1 < r.pc.toNat + 12 then finish s (.trap cIllegal r.pc)
  else
    match decodeVector w with
    | .error _ => finish s (.trap cIllegal r.pc)
    | .ok i =>
      match exec i s with
      | .next t => .next (if t.turn.stop = .none then t.endVector (vFields w).stall.toNat else t)
      | o => o

/-- A matrix word has ended: it is neither split nor the MCONT that has just begun a remainder. -/
def wordEnded (r : Running) (t : State) : Bool :=
  t.turn.stop == .none && t.running.any fun q => q.pre.isNone && !q.split && q.cont.length == r.cont.length

/-- A matrix word, or the read of a nest record. -/
def State.issueMatrix (s : State) (k : Nat) (r : Running) : Out :=
  let s := s.beginTurn (.matrix k) r.pc (r.pc + 24)
  if r.blk.nest then finish s s.runNest
  else if s.myMat.act.isNone then finish s (.trap cIllegal r.start)
  else if s.sectionSize (s.task k).code 2 < r.pc.toNat + 24 then finish s (.trap cIllegal r.pc)
  else
    match s.matrixInstr k with
    | none => finish s (.trap cIllegal r.pc)
    | some i =>
      match exec i s with
      | .next t => .next (if wordEnded r t then t.matrixAdvance else t)
      | o => o

/-- The next word of the block that an engine of slot `k` runs can issue; its stall count and its fetch are the agenda's
(log 90). -/
def State.wordReady (s : State) (k eng : Nat) (issue : State → Nat → Running → Out) : Bool :=
  s.mayRun k && !s.unready.contains (engAgent k eng) &&
    let s := s.settle k
    match ((s.task k).eng eng).cur with
    | none => false
    | some r =>
      if r.hold.kind = .none then !isHeld (issue s k r)
      else s.holdOver k r.hold [] && !isHeld (issue (s.unholdEngine k eng r.hold) k r)

/-- The slot of its core to which an engine last gave an issue. -/
def Core.lastOf (x : Core) (eng : Nat) : Nat := if eng = 1 then x.lastVec else x.lastXfer

/-- The vector engine and the transfer sequencer take the slots of a core in turn, among those that can issue (01 R22). -/
def State.engineTurn (s : State) (k eng : Nat) (issue : State → Nat → Running → Out) : Bool :=
  eng == 2 || slotIndex k != (s.core (slotCore k)).lastOf eng
    || !(coreSlots (slotCore k)).any fun o => o != k && s.wordReady o eng issue

/-- The engine's last slot, after an issue that did not wait. -/
def State.noteWord (s : State) (k eng : Nat) : State :=
  let c := slotCore k
  match s.turn.stop with
  | .held _ => s
  | _ => match eng with
    | 1 => s.setCore c { s.core c with lastVec := slotIndex k }
    | 3 => s.setCore c { s.core c with lastXfer := slotIndex k }
    | _ => s

/-- An engine of a task moves: it begins its next block, or runs a word of the block it is in. -/
def State.runEngine (s : State) (k eng : Nat) (issue : State → Nat → Running → Out) : Out :=
  if !s.mayRun k || s.unready.contains (engAgent k eng) || (eng == 2 && (s.task k).stopped) then .next s
  else
    let s := s.settle k
    let t := s.task k
    match (t.eng eng).cur with
    | none => .next (s.beginBlock k eng)
    | some r =>
      if !s.engineTurn k eng issue then .next s
      else if r.hold.kind = .none then afterwards (issue s k r) fun u => u.noteWord k eng
      else if !s.holdOver k r.hold [] then .next s
      else afterwards (issue (s.unholdEngine k eng r.hold) k r) fun u => u.noteWord k eng

/-! ## The command front end (15 R374–R377, 21 R489) -/

/-- A queue of which nothing is to be done before an event: its wait's (15 R392, R394, R402, R407, R413), or a restart. -/
def Queue.asleep (x : Queue) : Bool :=
  !x.live || (x.st != .running && x.st != .waiting) || [1, 2, 3, 5, 6].contains x.waitk

/-- A queue's fetch waits. -/
def State.fetchWaits (s : State) (q waitk : Nat) (h : Hold) : State :=
  let x := s.queue q
  s.setQueue q { x with st := if waitk = 0 then x.st else .waiting, waitk := waitk, hold := h }

/-- The front end moves for a queue: it goes on with the command it holds, or fetches the next. -/
def State.runQueue (s : State) (q : Nat) : Out :=
  let x := s.queue q
  if x.asleep || s.cfeSwitching || !s.unitUp unitCfe then .next s
  else
    match x.cur with
    | some c => exec c.instr (s.again q c)
    | none =>
      match s.fetchCommand q x.pc with
      | .ok (.command c) t => exec c.instr (t.again q c)
      | .ok (.bad code) t => .next ((t.queueTurn q x.pc x.pc).stopQueue code 0)
      | .ok .unwritten t => .next (t.fetchWaits q 7 Hold.init)
      | .trap c v => .next ((s.queueTurn q x.pc x.pc).stopAtAccess c v)
      | .hold h => .next (s.fetchWaits q (if h.kind = .extent then 8 else 0) h)

/-! ## Host messages (20 R471–R477) -/

/-- A secured entry may hold any message but an SPDM carrier. -/
def securable (i : Instr) : Bool :=
  i.wf && match i with
    | .spdm _ _ => false
    | i => match encode i with
      | .message _ _ => true
      | _ => false

/-- An SPDM entry, external, with nothing in its reserved bytes: the address and length it carries. -/
def spdmOf (e : List Byte) : Option (Nat × Nat) :=
  let f := fieldAt e
  if f 2 1 = 2 ∧ f 3 1 = 0 ∧ reservedZero [(8, 12), (56, 8)] e ∧ f 16 4 ≤ 65536 ∧ f 56 8 % 64 = 0 then
    some (f 8 8, f 16 4)
  else none

/-- A plain message: what it is decoded as, or what it completes with. -/
def State.plainMessage (s : State) (e x : List Byte) : Out :=
  match decodeMessage e x with
  | .ok i => exec i s
  | .error .securedOnly => .next (s.answer msNotSecured)
  | .error .spdmCarrier =>
    (match spdmOf e with
    | some m => execSpdm m.1 m.2 s
    | none => .next (s.answer msBad))
  | .error _ => .next (s.answer msBad)

/-- A secured message: in an open session, and authentic; it is discarded otherwise, and its session is lost. -/
def State.securedMessage (s : State) (e x : List Byte) : Out :=
  let f := s.fresh
  if !(s.fn s.sender).sess then .next (s.loseSession s.sender)
  else
    match Config.secured e x f.1 with
    | none => .next (f.2.loseSession s.sender)
    | some i => if securable i then exec i f.2 else .next (f.2.answer msBad)

/-- The function's ring has an entry to be read, and no completion waits. -/
def Fn.pending (x : Fn) : Bool := ringOk x.mrsize && x.mrtail % x.mrsize != x.mrhead % x.mrsize && x.waiting.isEmpty

/-- The entry at MRTAIL with its external payload. -/
def State.ringEntry (s : State) (f : Nat) : List Byte × List Byte :=
  let x := s.fn f
  let e := s.getBytes (keyHost (x.mrbase.toNat + 64 * (x.mrtail % x.mrsize))) 64
  (e, if bitOf (fieldAt e 2 1) 1 then s.getBytes (keyHost (fieldAt e 8 8)) (min (fieldAt e 16 4) 65536) else [])

/-- The device reads a function's next message and decides it. -/
def State.runHost (s : State) (f : Nat) : Out :=
  let x := s.fn f
  if !s.unitUp unitHost || !x.pending then .next s
  else
    let e := s.ringEntry f
    let sec := bitOf (fieldAt e.1 2 1) 0
    let s := s.setFn f { x with mrtail := (x.mrtail % x.mrsize + 1) % x.mrsize }
    let s := s.setTurn { Turn.init with agent := .host f, msg := msgHeader f sec e.1 }
    match (if sec then s.securedMessage e.1 e.2 else s.plainMessage e.1 e.2) with
    | .next t =>
      let y := t.fn f
      .next (if ringOk y.mrsize && y.mrtail % y.mrsize != y.mrhead % y.mrsize then t.ringNext f else t)
    | o => o

/-! ## Any agent -/

/-- What stands in the package's own hands after something has happened: productions complete, STATUS words are written, the
host is told of readiness (01 R26, 15 R389, 21 R484). -/
def State.follow (s old : State) : State := (s.landArrivals.settleAll.retryStatus).tellReady old

/-- Events that have arisen go to the host's rings. -/
def State.report_ (s : State) : State := if s.events.isEmpty && s.fns.all (fun e => e.2.waiting.isEmpty) then s else s.pump

/-- An agent moves. -/
def State.runAgent (s : State) (a : Agent) : Out :=
  match a with
  | .idle => .next s
  | .scalar k => s.runScalar k
  | .firmware c => s.runFirmware c
  | .vector k => s.runEngine k 1 fun s k r => s.issueVector k r
  | .matrix k => s.runEngine k 2 fun s k r => s.issueMatrix k r
  | .transfer k => s.runEngine k 3 fun s k r => s.issueTransfer k r.pc
  | .queue q => s.runQueue q
  | .host f => afterwards (s.runHost f) fun t => t.follow s

/-- What happens by itself: the rows of the table that no stream, ring or message carries. -/
def isEvent (i : Instr) : Bool :=
  match i with
  | .lockInterface => false
  | .startInterface => false
  | .stopInterface => false
  | .getDeviceInterfaceReport => false
  | .endSession => false
  | i => match encode i with
    | .nothing => true
    | _ => false

/-- An event happens. -/
def State.happen (s : State) (i : Instr) : Out := if isEvent i then afterwards (exec i s) fun t => t.follow s else .next s

/-! ## Placing one instruction (logs 4 and 5) -/

/-- A code object with no sections, to hold a placed word. -/
def CodeObj.blank : CodeObj := ⟨0, 0, 0, 0, 0, none, [], [], [], false, true, 0, 0, 0⟩

/-- Bytes at the start of a code stream of the task at slot 0, or at its `PC`, inside the section. -/
def State.placeCodeAt (s : State) (stream off : Nat) (b : List Byte) : State :=
  let d := (s.task 0).code
  let c := (tfind s.codes d).getD CodeObj.blank
  let n := off + b.length
  let c := match stream with
    | 0 => { c with sizeS := max c.sizeS n }
    | 1 => { c with sizeV := max c.sizeV n }
    | 2 => { c with sizeM := max c.sizeM n }
    | _ => { c with sizeX := max c.sizeX n }
  { (s.putBytes (keyCode d stream off) b) with codes := tput s.codes d c }

/-- Slot 0 has a task that may run: bound, with a private frame, its context running on a die that is online; agent `a` moves
next. -/
def State.readySlot (s : State) (a : Agent) : State :=
  let t := s.task 0
  let t := { t with hold := Hold.init, waits := [], skip := false, later := [], deferred := [], frame := max t.frame 4096, stopped := false }
  let s := (s.setTask 0 t).setCtx t.ctx { s.ctx t.ctx with st := .running, halt := false }
  { (s.setDie 0 { s.die 0 with st := .online, ready := true }) with power := true, agenda := [], unready := [], focus := a }

/-- An engine of slot 0 runs a block of one word at the start of its section. -/
def State.readyEngine (s : State) (eng : Nat) : State :=
  let t := s.task 0
  s.setTask 0 (t.setEng eng { t.eng eng with cur := some { { Block.blank with n := 1, runs := 1 }.begun with from_ := t.posV } })

/-- The last word of a bundle has E = 1. -/
def closed (w : Nat) : Nat := if wE w then w else w + 2 ^ 31

/-- `addi s0, s0, 0` with E = 1, which a LIMM may stand before. -/
def closer : Nat := withES true 0 (encI 0x0C 0 0 0)

/-- A bundle of the control core at the task's `PC`. -/
def State.placeScalar (s : State) (b : List Byte) : State :=
  let s := s.readySlot (.scalar 0)
  s.placeCodeAt 0 (s.task 0).hart.pc.toNat b

/-- A bundle of the transfer stream. -/
def State.placeTransfer (s : State) (b : List Byte) : State :=
  ((s.readySlot (.transfer 0)).readyEngine 3).placeCodeAt 3 0 b

/-- A word of the vector engine, and one of the matrix engine, which has a nest of one point. -/
def State.placeVector (s : State) (b : List Byte) : State := ((s.readySlot (.vector 0)).readyEngine 1).placeCodeAt 1 0 b

def State.placeMatrix (s : State) (b : List Byte) : State :=
  let s := ((s.readySlot (.matrix 0)).readyEngine 2).placeCodeAt 2 0 b
  s.setMat 0 { s.mat 0 with
    bound := some 0, ending := false, clearing := false,
    act := some ⟨List.replicate 4 0, List.replicate 6 1, List.replicate 6 (List.replicate 4 0), 7, 7, false⟩ }

/-- A command of queue 0 with two zero words after it, in a ring at the start of die 0's memory. -/
def State.placeCommand (s : State) (w : Nat) : State :=
  let x := s.queue 0
  let s := s.setQueue 0 { x with
    live := true, attr := { x.attr with rbase := 0, rsize := 64 }, head := 24, tail := 0, pc := 0, calls := [], cur := none, waitk := 0,
    st := .running }
  let s := s.setDie 0 { s.die 0 with st := .online, ready := true, lpReady := (s.die 0).lpReady ||| 1 }
  let s := s.putBytes (keyLpddr 0 0) (bytesOf 8 w ++ List.replicate 16 0)
  { s with power := true, agenda := [], focus := .queue 0, units := s.units ||| 4, cfeSwitching := false }

/-- The instruction of the opcode table's word, where the next step fetches it. -/
def State.placeWord (s : State) (nbits w : Nat) : State :=
  match nbits with
  | 32 =>
    if wOp w = 0x1B then s.placeScalar (bytesOf 4 w ++ bytesOf 4 closer)
    else if decodeTableWord 32 w = some .xend then s.placeTransfer (bytesOf 4 (closed w))
    else s.placeScalar (bytesOf 4 (closed w))
  | 64 =>
    let b := bytesOf 4 w ++ bytesOf 4 (closed (w / 2 ^ 32))
    if !isTOp (wOp w) then s.placeCommand w
    else if 0x36 ≤ wOp w then s.placeTransfer b
    else s.placeScalar b
  | 96 => s.placeVector (bytesOf 12 w)
  | 192 => s.placeMatrix (bytesOf 24 w)
  | _ => s

end Sys2Proof.Machine
end

