-- ==== Sys2Proof/Machine/Step.lean ====
section
/-! DEFINITION. One step of the package, and the placing of one instruction where the next step fetches it. -/
namespace Sys2Proof.Machine

/-- Whatever stands first on the agenda; with nothing there, the agent in focus moves. Without power only a cold reset has an
effect (spec 21 R487, R492). Log 1. -/
def step (s : State) : Host.Outcome State Fault Refusal :=
  afterwards
    (match s.agenda with
    | [] => if s.power then s.runAgent s.focus else .next s
    | a :: rest =>
      let t : State := { s with agenda := rest }
      match a with
      | .run b => if s.power then t.runAgent b else .next t
      | .event i => if s.power || i == .coldReset then t.happen i else .next t
      | .elapse ns ds => .next (if s.power then t.elapse ns ds else t)
      | .unready l => .next { t with unready := l }
      | .slip l => .next { t with slips := l }
      | .perform k eng => .next (if s.power then (t.performNext k eng).settleAll else t)
      | .admitGuest p c on => .next (if s.power then t.admitGuest p c on else t)
      | .mapFirmware c objs => .next (if s.power then t.mapFirmware c objs else t)
      | .podArrival c ch n => .next (if s.power then t.podArrive c ch n else t))
    State.report_

/-- `s` with the instruction that the opcode table's word `w` of `nbits` bits stands for placed where `step` fetches its next
(logs 4 and 5). -/
def State.withFetchWord (s : State) (nbits w : Nat) : State := s.placeWord nbits w

end Sys2Proof.Machine
end

