-- ==== Sys2Proof/Safety.lean ====
section
/-! DEFINITION. What a safe state is, in the terms that claims use. -/
namespace Sys2Proof.Machine

/-- Memory is in its canonical form: addresses rise strictly, and no entry equals what an unlisted address reads as, 0. -/
def Memory.wf (m : Tbl Byte) : Bool := tsorted m && tnodefault 0 m

/-- The package's memory is canonical. -/
def State.memWf (s : State) : Prop := Memory.wf s.mem = true

end Sys2Proof.Machine
end

