-- ==== Sys2Proof/Certificates/Slice0/Obligations.lean ====
section
/-! DEFINITION. The statements for the provers, and the predicates they are said in. -/
open Sys2Proof Sys2Proof.Machine

namespace Sys2Proof.Claims

/-- The values, flags and other state that a word with one scalar destination leaves alone: every other register, every
register before its latency is met, every predicate, the flags and control registers of the stream, every other task and
firmware context, and every other field of the state, all of memory with them. -/
structure OnlyRegister (s t : State) (rd : BitVec 5) : Prop where
  others : ∀ n : BitVec 5, n ≠ rd → t.rf.settle.read n.toNat = s.rf.settle.read n.toNat
  later : ∀ n : BitVec 5, t.reg n = s.reg n
  preds : ∀ n : BitVec 4, t.pred n = s.pred n
  hart : { t.hart with rf := s.hart.rf } = s.hart
  tasks : ∀ k, { t.task k with hart := { (t.task k).hart with rf := (s.task k).hart.rf }, xrf := (s.task k).xrf } = s.task k
  otherTasks : ∀ k, k ≠ s.me ∨ s.inFirmware = true → t.task k = s.task k
  fws : ∀ c, { t.fw c with hart := { (t.fw c).hart with rf := (s.fw c).hart.rf } } = s.fw c
  requests : t.requests.map (fun r => { r with ret := 0 }) = s.requests.map fun r => { r with ret := 0 }
  poison : ∀ e, e ∈ s.regPoison → e ∈ t.regPoison ∨ e = (s.regOwner, s.fileNum, rd.toNat)
  rest : t = { s with tasks := t.tasks, fws := t.fws, requests := t.requests, regPoison := t.regPoison }

/-- The same for a word whose one destination is a predicate: every predicate reads as before in the word's own bundle, and no
write in flight to another is touched. -/
structure OnlyPredicate (s t : State) (pd : BitVec 4) : Prop where
  preds : ∀ n : BitVec 4, t.pred n = s.pred n
  flight : t.hart.pendP.filter (fun e => e.reg != pd.toNat) = s.hart.pendP.filter fun e => e.reg != pd.toNat
  regs : ∀ n : BitVec 5, t.reg n = s.reg n
  hart : { t.hart with pendP := s.hart.pendP } = s.hart
  tasks : ∀ k, { t.task k with hart := { (t.task k).hart with pendP := (s.task k).hart.pendP } } = s.task k
  otherTasks : ∀ k, k ≠ s.me ∨ s.inFirmware = true → t.task k = s.task k
  fws : ∀ c, { t.fw c with hart := { (t.fw c).hart with pendP := (s.fw c).hart.pendP } } = s.fw c
  poison : ∀ e, e ∈ s.regPoison → e ∈ t.regPoison ∨ e = (s.regOwner, 1, pd.toNat)
  rest : t = { s with tasks := t.tasks, fws := t.fws, regPoison := t.regPoison }

end Sys2Proof.Claims

open Sys2Proof.Claims

/-! ## Encodings -/

/-- Words written out from the encodings of spec 03 and 04 decode to the instructions they stand for (the first four are 04's
own listings). -/
def Obligations.WordsDecode : Prop :=
  decodeWord (0x830E0005 % 2 ^ 28) = .ok (.addi 7 0 5)
  ∧ decodeWord 0x0054A38F = .ok (.add 10 10 7 15)
  ∧ decodeWord (0x84C27A03 % 2 ^ 28) = .ok (.cmpi 1 7 5 3)
  ∧ decodeWord (0x868E0FFD % 2 ^ 28) = .ok (.loop 7 0xFFD)
  ∧ decodeT 0x0C41FCA0 0x0FFF0018 = .ok (.vexec ⟨⟨1, 63, 63, 63⟩, 5, 0, 24⟩)
  ∧ decodeVector (0x14 * 2 ^ 89 + 15 * 2 ^ 78 + 63 * (2 ^ 72 + 2 ^ 66 + 2 ^ 60 + 2 ^ 54) + 3 * 2 ^ 52 + 2 * 2 ^ 47 + 4 * 2 ^ 29 + 5 * 2 ^ 11)
      = .ok (.vcmpEq ⟨0, 0, 15, ⟨63, 63, 63, 63⟩, 0x31000, 0x2000, 0x2800⟩)
  ∧ decodeMatrix (9 * 2 ^ 184 + 63 * (2 ^ 175 + 2 ^ 169 + 2 ^ 163 + 2 ^ 157) + 15 * 2 ^ 153)
      = .ok (.mnop ⟨0, ⟨63, 63, 63, 63⟩, 15, 0, 0, 0, 0, 0, 0, 0, 0, 0, 0, 0, 0, 0, 0, 0, 0, 0⟩)
  ∧ decodeCommand 0x0C40000000000000 [] = .ok (.cmdAdd ⟨1, 0, 0, 0, 0, 0⟩)
  ∧ decodeMessage ([2, 0, 0, 0, 9, 0, 0, 0, 5] ++ List.replicate 55 0) [] = .ok (.ctxDestroy 5)

/-- Decoding the word of a well-formed one-word instruction gives the instruction back, whatever E and S the bundle gives its
word: no bit of a scalar encoding is dropped, none is read twice. Decoding the two words of a well-formed T-form instruction
gives it back. -/
def Obligations.ScalarAndPairWordsRoundTrip : Prop :=
  (∀ (i : Instr) (w : Nat), i.wf = true → encode i = .scalar w →
     w < 2 ^ 28 ∧ decodeWord w = .ok i
       ∧ ∀ (e : Bool) (st : Nat), st < 8 → withES e st w % 2 ^ 28 = w ∧ wE (withES e st w) = e ∧ wS (withES e st w) = st)
  ∧ (∀ (i : Instr) (w0 w1 : Nat), i.wf = true → encode i = .pair w0 w1 → isTOp (wOp w0) = true ∧ decodeT w0 w1 = .ok i)

/-- Decoding the word of a well-formed vector instruction gives it back. -/
def Obligations.VectorWordsRoundTrip : Prop :=
  ∀ (i : Instr) (w : Nat), i.wf = true → encode i = .vector w → w < 2 ^ 96 ∧ decodeVector w = .ok i

/-- Decoding the word of a well-formed matrix instruction gives it back. -/
def Obligations.MatrixWordsRoundTrip : Prop :=
  ∀ (i : Instr) (w : Nat), i.wf = true → encode i = .matrix w → w < 2 ^ 192 ∧ decodeMatrix w = .ok i

/-- Decoding a well-formed command with the extension words it says it has gives it back. -/
def Obligations.CommandsRoundTrip : Prop :=
  ∀ (i : Instr) (w : Nat) (ext : List Word), i.wf = true → encode i = .command w ext →
    w < 2 ^ 64 ∧ ext.length = extWords w ∧ decodeCommand w ext = .ok i

/-! ## A step runs what the decoder reads -/

/-- How a control-core bundle's run ends: with all its effects, or with a trap or a wait and none of them (03 R85). -/
def Sys2Proof.Claims.bundleOutcome (before : State) (stall : Nat) (t : State) : Out :=
  match t.turn.stop with
  | .none => .next (t.endBundle stall (before.hart.inhdl && !t.hart.inhdl))
  | .trapped c v => finish before (.trap c v)
  | .held h => finish before (.hold h)

/-- The task at slot `k` may run, waits for nothing, and is the one that its control core's choice falls on; `passed` is the slot
that a YIELD's mark passes over (01 R20, 04 R157). -/
structure Sys2Proof.Claims.Chosen (s : State) (k : Nat) (passed : Option Nat) : Prop where
  up : s.power = true ∧ s.focus = .scalar k ∧ s.mayRun k = true ∧ s.unready.contains (.scalar k) = false
  fault : (((s.settle k).task k).faultPending && !((s.settle k).task k).hart.inhdl) = false
  free : ((s.settle k).task k).hold.kind = .none
  turn : let r := s.settle k
    let pc := (s.task k).hart.pc
    (r.beginTurn (.scalar k) pc pc).choice (slotCore k) (.scalar k) = (some (.scalar k), passed)

/-- When the four bytes at the program counter of the task that a control core chooses are the closing word of a bundle and decode
to an instruction that the control core accepts, a step of that core runs that instruction, moves past its word and its stall
count, and traps or waits with no effect where the instruction does; an issue that does not wait is the slot's turn. -/
def Obligations.StepRunsTheDecodedWord : Prop :=
  ∀ (s : State) (k w : Nat) (passed : Option Nat) (i : Instr) (t : State),
    let r := s.settle k
    let pc := (r.task k).hart.pc
    let u := r.beginTurn (.scalar k) pc (pc + 4)
    s.agenda = [] → Chosen s k passed →
    pc.toNat + 4 ≤ u.sectionSize (r.task k).code 0 → u.codeBytes (r.task k).code 0 pc.toNat 4 = w →
    wE w = true → decodeWord (w % 2 ^ 28) = .ok i → inControl i = true → isLimm i = false →
    u.issueCheck ⟨[⟨pc, i⟩], pc + 4, wS w⟩ = .ok () u → exec i u = .next t →
    step s = afterwards
      (bundleOutcome u (wS w) (if t.turn.stop = .none then t.setTurn { t.turn with limm := none } else t))
      fun t => (t.noteIssue (.scalar k) passed).report_

/-- A bundle of several words, as its fetch reads it, of a task or of a firmware context that its control core chooses: its words
run on one issue, and the bundle ends as one step. They run in address order, but that CSRR sees what stood before its bundle and
PHASE, VFCFG and ERET change what the others see last (R85; the order is DEDUCED, log 89). -/
def Obligations.StepRunsTheBundle : Prop :=
  (∀ (s : State) (k : Nat) (passed : Option Nat) (b : Bundle) (t : State),
    let r := s.settle k
    let pc := (r.task k).hart.pc
    let u := r.beginTurn (.scalar k) pc pc
    let v := u.setTurn { u.turn with next := b.next }
    s.agenda = [] → Chosen s k passed →
    u.fetchBundle pc = .ok b → v.issueCheck b = .ok () v → issueWords (asOneStep b.words) v = .next t →
    step s = afterwards (bundleOutcome v b.stall t) fun t => (t.noteIssue (.scalar k) passed).report_)
  ∧ (∀ (s : State) (c : Nat) (passed : Option Nat) (b : Bundle) (t : State),
    let pc := (s.fw c).hart.pc
    let u := s.beginTurn (.firmware c) pc pc
    let v := u.setTurn { u.turn with next := b.next }
    s.agenda = [] → s.power = true → s.focus = .firmware c → s.firmwareUp c = true → s.unready.contains (.firmware c) = false →
    s.choice c (.firmware c) = (some (.firmware c), passed) →
    u.fetchBundle pc = .ok b → v.issueCheck b = .ok () v → issueWords (asOneStep b.words) v = .next t →
    step s = afterwards (bundleOutcome v b.stall t) fun t => (t.noteIssue (.firmware c) passed).report_)
  ∧ ∀ (l : List Word1), (asOneStep l).Perm l
    ∧ ((∀ w ∈ l, readsState w.instr = false ∧ changesState w.instr = false) → asOneStep l = l)

/-- When the bytes at the place of a vector, matrix or transfer engine's block decode to an instruction, a step of that engine
runs it and moves on; the vector engine and the transfer sequencer take the slots of a core in turn (01 R22). -/
def Obligations.StepRunsTheEngineWord : Prop :=
  (∀ (s : State) (k : Nat) (r : Running) (i : Instr) (t : State),
    let u := (s.settle k).beginTurn (.vector k) r.pc (r.pc + 12)
    let w := u.codeBytes (u.task k).code 1 r.pc.toNat 12
    s.agenda = [] → s.power = true → s.focus = .vector k → s.mayRun k = true → s.unready.contains (.vector k) = false →
    ((s.settle k).task k).vec.cur = some r → (s.settle k).engineTurn k 1 (fun s k r => s.issueVector k r) = true →
    r.hold.kind = .none → r.pc.toNat + 12 ≤ u.sectionSize (u.task k).code 1 →
    decodeVector w = .ok i → exec i u = .next t →
    step s = .next ((if t.turn.stop = .none then t.endVector (vFields w).stall.toNat else t).noteWord k 1).report_)
  ∧ (∀ (s : State) (k : Nat) (r : Running) (i : Instr) (t : State),
    let u := (s.settle k).beginTurn (.matrix k) r.pc (r.pc + 24)
    s.agenda = [] → s.power = true → s.focus = .matrix k → s.mayRun k = true → s.unready.contains (.matrix k) = false →
    (s.task k).stopped = false → ((s.settle k).task k).mat.cur = some r → r.hold.kind = .none → r.blk.nest = false → u.myMat.act.isSome = true →
    r.pc.toNat + 24 ≤ u.sectionSize (u.task k).code 2 →
    decodeMatrix (u.codeBytes (u.task k).code 2 r.pc.toNat 24) = .ok i → exec i u = .next t →
    step s = .next (if wordEnded r t then t.matrixAdvance else t).report_)
  ∧ (∀ (s : State) (k : Nat) (r : Running) (b : Bundle) (t : State),
    let u := (s.settle k).beginTurn (.transfer k) r.pc r.pc
    let v := u.setTurn { u.turn with next := b.next }
    s.agenda = [] → s.power = true → s.focus = .transfer k → s.mayRun k = true → s.unready.contains (.transfer k) = false →
    ((s.settle k).task k).xfer.cur = some r → (s.settle k).engineTurn k 3 (fun s k r => s.issueTransfer k r.pc) = true →
    r.hold.kind = .none →
    u.fetchTransfer r.pc = .ok b → v.issueCheck b = .ok () v → issueWords b.words v = .next t →
    step s = .next ((if t.turn.stop = .none then t.endTransfer b.stall else t).noteWord k 3).report_)

/-- A step of a queue runs the command it fetched, or the one it holds; a step of a function's ring runs the message at its
tail; an event on the agenda happens. -/
def Obligations.StepRunsTheCommandMessageAndEvent : Prop :=
  (∀ (s : State) (q : Nat) (c : Command) (t : State), s.agenda = [] → s.power = true → s.focus = .queue q →
    (s.queue q).asleep = false → s.cfeSwitching = false → s.unitUp unitCfe = true → (s.queue q).cur = none →
    s.fetchCommand q (s.queue q).pc = .ok (.command c) t →
    step s = afterwards (exec c.instr (t.again q c)) State.report_)
  ∧ (∀ (s : State) (q : Nat) (c : Command), s.agenda = [] → s.power = true → s.focus = .queue q →
    (s.queue q).asleep = false → s.cfeSwitching = false → s.unitUp unitCfe = true → (s.queue q).cur = some c →
    step s = afterwards (exec c.instr (s.again q c)) State.report_)
  ∧ (∀ (s : State) (f : Nat) (i : Instr) (t : State), s.agenda = [] → s.power = true → s.focus = .host f →
    s.unitUp unitHost = true → (s.fn f).pending = true →
    let e := s.ringEntry f
    let x := s.fn f
    let u := (s.setFn f { x with mrtail := (x.mrtail % x.mrsize + 1) % x.mrsize }).setTurn
      { Turn.init with agent := .host f, msg := msgHeader f false e.1 }
    bitOf (fieldAt e.1 2 1) 0 = false → decodeMessage e.1 e.2 = .ok i → exec i u = .next t →
    step s = .next ((if ringOk (t.fn f).mrsize && (t.fn f).mrtail % (t.fn f).mrsize != (t.fn f).mrhead % (t.fn f).mrsize
      then t.ringNext f else t).follow s).report_)
  ∧ (∀ (s : State) (i : Instr) (l : List Activity) (t : State), s.agenda = .event i :: l → isEvent i = true →
    (s.power = true ∨ i = .coldReset) → exec i { s with agenda := l } = .next t →
    step s = .next (t.follow { s with agenda := l }).report_)

/-- No instruction and no step ever stops the machine with a fault or a refusal: whatever traps, waits or is turned away is a
next state. -/
def Obligations.NothingStopsTheMachine : Prop :=
  (∀ (i : Instr) (s : State), ∃ t, exec i s = .next t) ∧ ∀ s : State, ∃ t, step s = .next t

/-! ## Scalar arithmetic -/

/-- R122's results: sums and differences modulo 2^64, the bitwise words, and shifts by the low six bits of a register or of the
immediate, logical and arithmetic; the immediate sign-extended from bit 11, or from bit 33 with a LIMM before it. Latency 1.
LIMM has no effect but to give the next word of the bundle its 22 immediate bits (R123, R87). -/
def Obligations.AluResults : Prop :=
  (∀ (rd a b : BitVec 5) (g : BitVec 4) (s : State), s.guard g = true →
    let x := s.reg a
    let y := s.reg b
    let n := y.toNat % 64
    exec (.add rd a b g) s = .next (s.setReg rd 1 (BitVec.ofNat 64 (x.toNat + y.toNat)))
    ∧ exec (.sub rd a b g) s = .next (s.setReg rd 1 (BitVec.ofInt 64 ((x.toNat : Int) - y.toNat)))
    ∧ (∃ v, exec (.and rd a b g) s = .next (s.setReg rd 1 v) ∧ ∀ k < 64, v.getLsbD k = (x.getLsbD k && y.getLsbD k))
    ∧ (∃ v, exec (.or rd a b g) s = .next (s.setReg rd 1 v) ∧ ∀ k < 64, v.getLsbD k = (x.getLsbD k || y.getLsbD k))
    ∧ (∃ v, exec (.xor rd a b g) s = .next (s.setReg rd 1 v) ∧ ∀ k < 64, v.getLsbD k = (x.getLsbD k != y.getLsbD k))
    ∧ exec (.shl rd a b g) s = .next (s.setReg rd 1 (BitVec.ofNat 64 (x.toNat * 2 ^ n)))
    ∧ exec (.shr rd a b g) s = .next (s.setReg rd 1 (BitVec.ofNat 64 (x.toNat / 2 ^ n)))
    ∧ exec (.sra rd a b g) s = .next (s.setReg rd 1 (BitVec.ofInt 64 (x.toInt / 2 ^ n))))
  ∧ (∀ (rd a : BitVec 5) (i : BitVec 12) (s : State),
    let x := s.reg a
    let m : Int := match s.turn.limm with | none => i.toInt | some k => (k ++ i).toInt
    exec (.addi rd a i) s = .next (s.setReg rd 1 (BitVec.ofInt 64 (x.toInt + m)))
    ∧ (∃ v, exec (.andi rd a i) s = .next (s.setReg rd 1 v)
        ∧ ∀ k < 64, v.getLsbD k = (x.getLsbD k && (BitVec.ofInt 64 m).getLsbD k))
    ∧ (∃ v, exec (.ori rd a i) s = .next (s.setReg rd 1 v)
        ∧ ∀ k < 64, v.getLsbD k = (x.getLsbD k || (BitVec.ofInt 64 m).getLsbD k))
    ∧ (∃ v, exec (.xori rd a i) s = .next (s.setReg rd 1 v)
        ∧ ∀ k < 64, v.getLsbD k = (x.getLsbD k != (BitVec.ofInt 64 m).getLsbD k)))
  ∧ (∀ (k : BitVec 22) (s : State), exec (.limm k) s = .next { s with turn := { s.turn with limm := some k } })
  ∧ (∀ (rd a : BitVec 5) (n : BitVec 6) (s : State),
    let x := s.reg a
    exec (.shli rd a n) s = .next (s.setReg rd 1 (BitVec.ofNat 64 (x.toNat * 2 ^ n.toNat)))
    ∧ exec (.shri rd a n) s = .next (s.setReg rd 1 (BitVec.ofNat 64 (x.toNat / 2 ^ n.toNat)))
    ∧ exec (.srai rd a n) s = .next (s.setReg rd 1 (BitVec.ofInt 64 (x.toInt / 2 ^ n.toNat))))
  ∧ ∀ (rd a b : BitVec 5) (g : BitVec 4) (s : State), s.guard g = false →
    ∀ i ∈ [Instr.add rd a b g, .sub rd a b g, .and rd a b g, .or rd a b g, .xor rd a b g, .shl rd a b g, .shr rd a b g,
      .sra rd a b g], exec i s = .next s

/-- R124: the three products and the four selections, on integers; R111's latencies. R68 and R125: quotients truncate toward
zero and remainders take the dividend's sign; a divisor of zero gives all ones and the dividend, and sets NV; −2^63 ÷ −1 gives
−2^63 and 0 with no flag. No other scalar integer word sets a flag. -/
def Obligations.MultiplyAndDivideResults : Prop :=
  (∀ (rd a b : BitVec 5) (g : BitVec 4) (s : State), s.guard g = true →
     let x := s.reg a
     let y := s.reg b
     exec (.mul rd a b g) s = .next (s.setReg rd 3 (BitVec.ofNat 64 (x.toNat * y.toNat)))
     ∧ exec (.mulh rd a b g) s = .next (s.setReg rd 3 (BitVec.ofInt 64 (x.toInt * y.toInt / 2 ^ 64)))
     ∧ exec (.mulhu rd a b g) s = .next (s.setReg rd 3 (BitVec.ofNat 64 (x.toNat * y.toNat / 2 ^ 64)))
     ∧ exec (.min rd a b g) s = .next (s.setReg rd 1 (BitVec.ofInt 64 (Min.min x.toInt y.toInt)))
     ∧ exec (.max rd a b g) s = .next (s.setReg rd 1 (BitVec.ofInt 64 (Max.max x.toInt y.toInt)))
     ∧ exec (.minu rd a b g) s = .next (s.setReg rd 1 (BitVec.ofNat 64 (Min.min x.toNat y.toNat)))
     ∧ exec (.maxu rd a b g) s = .next (s.setReg rd 1 (BitVec.ofNat 64 (Max.max x.toNat y.toNat))))
  ∧ (∀ (rd a b : BitVec 5) (g : BitVec 4) (s : State), s.guard g = true →
       let x := s.reg a
       let y := s.reg b
       (y = 0 →
         exec (.div rd a b g) s = .next ((s.setReg rd 1 (BitVec.ofInt 64 (-1))).raiseFlags 0b00001)
         ∧ exec (.divu rd a b g) s = .next ((s.setReg rd 1 (BitVec.allOnes 64)).raiseFlags 0b00001)
         ∧ exec (.rem rd a b g) s = .next ((s.setReg rd 1 x).raiseFlags 0b00001)
         ∧ exec (.remu rd a b g) s = .next ((s.setReg rd 1 x).raiseFlags 0b00001))
       ∧ (y ≠ 0 →
         exec (.div rd a b g) s = .next ((s.setReg rd 1 (BitVec.ofInt 64 (x.toInt.tdiv y.toInt))).raiseFlags 0)
         ∧ exec (.divu rd a b g) s = .next ((s.setReg rd 1 (BitVec.ofNat 64 (x.toNat / y.toNat))).raiseFlags 0)
         ∧ exec (.rem rd a b g) s = .next ((s.setReg rd 1 (BitVec.ofInt 64 (x.toInt.tmod y.toInt))).raiseFlags 0)
         ∧ exec (.remu rd a b g) s = .next ((s.setReg rd 1 (BitVec.ofNat 64 (x.toNat % y.toNat))).raiseFlags 0))
       ∧ (x.toInt = -2 ^ 63 → y.toInt = -1 →
         exec (.div rd a b g) s = .next ((s.setReg rd 1 x).raiseFlags 0)
         ∧ exec (.rem rd a b g) s = .next ((s.setReg rd 1 0).raiseFlags 0)))

/-- R126, R129 and the counts of R125. SEL takes `s[a]` when bit 0 of the predicate its guard field names is 1, or when the
field is 0xF, and `s[b]` otherwise. CLZ counts the zero bits above the highest one bit and POPC the one bits, with latency 2.
EXT takes a field of `s[a]`, zero-extended; INS puts the low bits of `s[a]` into a field of `s[rd]` and keeps its other bits.
The field is p to p + n − 1, inside 64 bits. -/
def Obligations.SelectCountAndFieldResults : Prop :=
  (∀ (rd a b : BitVec 5) (n : BitVec 4) (s : State),
    exec (.sel rd a b n) s
      = .next (s.setReg rd 1 (if n = 15 ∨ (s.pred n).getLsbD 0 = true then s.reg a else s.reg b)))
  ∧ (∀ (rd a : BitVec 5) (g : BitVec 4) (s : State), s.guard g = true →
    let x := s.reg a
    (∃ c, exec (.clz rd a g) s = .next (s.setReg rd 2 (BitVec.ofNat 64 c)) ∧ c ≤ 64
      ∧ (∀ k, 64 - c ≤ k → k < 64 → x.getLsbD k = false) ∧ (c < 64 → x.getLsbD (63 - c) = true))
    ∧ exec (.popc rd a g) s
      = .next (s.setReg rd 2 (BitVec.ofNat 64 ((List.range 64).filter fun k => x.getLsbD k).length)))
  ∧ ∀ (rd a : BitVec 5) (p l : BitVec 6) (s : State), p.toNat + l.toNat + 1 ≤ 64 →
    let n := l.toNat + 1
    (∃ v, exec (.ext rd a p l) s = .next (s.setReg rd 1 v)
      ∧ ∀ k < 64, v.getLsbD k = (decide (k < n) && (s.reg a).getLsbD (p.toNat + k)))
    ∧ ∃ v, exec (.ins rd a p l) s = .next (s.setReg rd 1 v)
      ∧ ∀ k < 64, v.getLsbD k
        = if p.toNat ≤ k ∧ k < p.toNat + n then (s.reg a).getLsbD (k - p.toNat) else (s.reg rd).getLsbD k

/-- R127: a compare writes all 1,024 bits of its predicate with the comparison's result; CMPI extends its immediate by sign
before every compare and is not guarded. Latency 1. R128: the PRED group works on whole predicates, bit by bit. -/
def Obligations.CompareAndPredicateResults : Prop :=
  ((∀ (pd : BitVec 4) (a b : BitVec 5) (g : BitVec 4) (s : State), s.guard g = true →
     let x := s.reg a
     let y := s.reg b
     let all := fun (p : Bool) => if p then BitVec.allOnes 1024 else (0 : PredReg)
     exec (.cmpEq pd a b g) s = .next (s.setPred pd (all (decide (x = y))))
     ∧ exec (.cmpNe pd a b g) s = .next (s.setPred pd (all (decide (x ≠ y))))
     ∧ exec (.cmpLt pd a b g) s = .next (s.setPred pd (all (decide (x.toInt < y.toInt))))
     ∧ exec (.cmpLtu pd a b g) s = .next (s.setPred pd (all (decide (x.toNat < y.toNat))))
     ∧ exec (.cmpGe pd a b g) s = .next (s.setPred pd (all (decide (y.toInt ≤ x.toInt))))
     ∧ exec (.cmpGeu pd a b g) s = .next (s.setPred pd (all (decide (y.toNat ≤ x.toNat)))))
   ∧ ∀ (pd : BitVec 4) (a : BitVec 5) (c : BitVec 3) (i : BitVec 9) (s : State), c.toNat ≤ 5 →
     let x := s.reg a
     let y := BitVec.ofInt 64 i.toInt
     let r : Bool := match c.toNat with
       | 0 => decide (x = y) | 1 => decide (x ≠ y) | 2 => decide (x.toInt < i.toInt)
       | 3 => decide (x.toNat < y.toNat) | 4 => decide (i.toInt ≤ x.toInt) | _ => decide (y.toNat ≤ x.toNat)
     exec (.cmpi pd a c i) s = .next (s.setPred pd (if r then BitVec.allOnes 1024 else 0)))
  ∧ (∀ (pd pa pb g : BitVec 4) (s : State), s.guard g = true →
       let x := s.pred pa
       let y := s.pred pb
       (∃ v, exec (.pand pd pa pb g) s = .next (s.setPred pd v) ∧ ∀ k < 1024, v.getLsbD k = (x.getLsbD k && y.getLsbD k))
       ∧ (∃ v, exec (.por pd pa pb g) s = .next (s.setPred pd v) ∧ ∀ k < 1024, v.getLsbD k = (x.getLsbD k || y.getLsbD k))
       ∧ (∃ v, exec (.pxor pd pa pb g) s = .next (s.setPred pd v) ∧ ∀ k < 1024, v.getLsbD k = (x.getLsbD k != y.getLsbD k))
       ∧ (∃ v, exec (.pnot pd pa g) s = .next (s.setPred pd v) ∧ ∀ k < 1024, v.getLsbD k = !x.getLsbD k)
       ∧ exec (.pmov pd pa g) s = .next (s.setPred pd x))
  ∧ ∀ (pd : BitVec 4) (a b : BitVec 5) (g : BitVec 4) (s : State), s.guard g = false →
    ∀ i ∈ [Instr.cmpEq pd a b g, .cmpNe pd a b g, .cmpLt pd a b g, .cmpLtu pd a b g, .cmpGe pd a b g, .cmpGeu pd a b g],
      exec i s = .next s

/-- R83: a word whose guard is false has no effect at all, for every word that has a guard. -/
def Obligations.FalseGuardHasNoEffect : Prop :=
  ∀ (i : Instr) (s : State), s.guard (guardOf i) = false → exec i s = .next s

/-- R107 and R108: a write of latency L is read from issue distance L on, and until then the register reads what the latest
earlier write whose latency is met left; the later of two writes in flight prevails once its own latency is met, and the
earlier never overwrites it, at any later distance; when every write lands, the later one stands. Register 0 reads zero and
takes no write (R41). The table of values is in its canonical form, which `RegisterFilesStaySorted` says is kept. -/
def Obligations.WritesAreSeenAfterTheirLatency : Prop :=
  ∀ (r : RegFile) (n l1 l2 d1 d2 : Nat) (v1 v2 : Word), tsorted r.vals = true → (∀ e ∈ r.pend, e.reg ≠ n) →
    0 < l1 → 0 < l2 →
    let q := ((r.write n l1 v1).advance d1).write n l2 v2
    (q.advance d2).read n
      = (if n = 0 then 0 else if l2 ≤ d2 then v2 else if l1 ≤ d1 + d2 then v1 else r.read n)
    ∧ (∀ d3, ((q.advance d2).advance d3).read n = (q.advance (d2 + d3)).read n)
    ∧ q.settle.read n = (if n = 0 then 0 else v2)

/-- Every operation on a register file keeps its table of values in canonical order, from the file as it is at bind. -/
def Obligations.RegisterFilesStaySorted : Prop :=
  tsorted RegFile.init.vals = true
  ∧ ∀ (r : RegFile) (n l d : Nat) (v : Word), tsorted r.vals = true →
    tsorted (r.write n l v).vals = true ∧ tsorted (r.advance d).vals = true ∧ tsorted r.settle.vals = true
      ∧ tsorted (r.place n v).vals = true

/-- What words with one scalar destination leave alone: everything but that register, which itself reads as before until its
latency is met. ADD to POPC, SEL, the immediate forms, EXT and INS; a divide also adds its flag to the stream's flags. -/
def Obligations.RegisterWordsFrame : Prop :=
  ∀ (rd a b : BitVec 5) (g : BitVec 4) (m : BitVec 12) (p n : BitVec 6) (s t : State),
    (∀ i ∈ [Instr.add rd a b g, .sub rd a b g, .and rd a b g, .or rd a b g, .xor rd a b g, .shl rd a b g, .shr rd a b g,
        .sra rd a b g, .mul rd a b g, .mulh rd a b g, .mulhu rd a b g, .min rd a b g, .max rd a b g, .minu rd a b g,
        .maxu rd a b g, .sel rd a b g, .clz rd a g, .popc rd a g, .addi rd a m, .andi rd a m, .ori rd a m, .xori rd a m,
        .shli rd a n, .shri rd a n, .srai rd a n, .ext rd a p n, .ins rd a p n],
      exec i s = .next t → OnlyRegister s t rd)
    ∧ (∀ i ∈ [Instr.div rd a b g, .divu rd a b g, .rem rd a b g, .remu rd a b g], exec i s = .next t →
      ∃ u, OnlyRegister s u rd ∧ (t = u ∨ t = u.raiseFlags 0 ∨ t = u.raiseFlags 1))

/-- What words with one predicate destination leave alone: everything but that predicate. -/
def Obligations.PredicateWordsFrame : Prop :=
  ∀ (pd pa pb g : BitVec 4) (a b w : BitVec 5) (c : BitVec 3) (i9 : BitVec 9) (s t : State),
    ∀ i ∈ [Instr.cmpEq pd a b g, .cmpNe pd a b g, .cmpLt pd a b g, .cmpLtu pd a b g, .cmpGe pd a b g, .cmpGeu pd a b g,
        .cmpi pd a c i9, .pand pd pa pb g, .por pd pa pb g, .pxor pd pa pb g, .pnot pd pa g, .pmov pd pa g,
        .sptest pd a w g],
      exec i s = .next t → OnlyPredicate s t pd

/-! ## Control flow, CSRs, addresses -/

/-- A state that a trap leaves: the entry, with the word in issue marked as ended by it. -/
def Sys2Proof.Claims.trapped (s : State) (cause : Nat) (val : Word) : State :=
  { s.takeTrap cause val with turn := { s.turn with stop := .trapped cause val } }

/-- A state that a wait leaves: the stream's place, with the wait noted and nothing else done. -/
def Sys2Proof.Claims.waiting (s : State) (h : Hold) : State :=
  { s.takeHold h with turn := { s.turn with stop := .held h } }

/-- R130: a branch taken goes to its own word's address plus four times its displacement, CALL with the address after the
bundle in `s31`; R132: LOOP counts its register down and branches while it is not zero, and a count of zero falls through.
R131: JR goes to the address in its register, which it reads before it writes the link; a target that is not a word's address
traps ALIGN, and one outside the stream's section ILLEGAL, each with the target as its value. -/
def Obligations.BranchesAndJumps : Prop :=
  ((∀ (g : BitVec 4) (d : BitVec 17) (s : State), s.guard g = true →
     let target := BitVec.ofInt 64 (s.turn.wordPc.toNat + 4 * d.toInt)
     exec (.br g d) s = .next { s with turn := { s.turn with next := target } }
     ∧ exec (.call g d) s = .next ((s.setReg 31 1 s.turn.next).setTurn { s.turn with next := target }))
   ∧ ∀ (rd : BitVec 5) (m : BitVec 12) (s : State), s.turn.limm = none →
     let c := s.reg rd
     (c = 0 → exec (.loop rd m) s = .next s)
     ∧ (c = 1 → exec (.loop rd m) s = .next (s.setReg rd 1 0))
     ∧ (1 < c.toNat → exec (.loop rd m) s
       = .next ((s.setReg rd 1 (BitVec.ofNat 64 (c.toNat - 1))).setTurn
         { s.turn with next := BitVec.ofInt 64 (s.turn.wordPc.toNat + 4 * m.toInt) })))
  ∧ (∀ (rd a : BitVec 5) (g : BitVec 4) (s : State), s.guard g = true →
       let x := s.reg a
       (x.toNat % 4 = 0 → x.toNat < s.codeOf.2.2 →
         exec (.jr rd a g) s = .next ((s.setReg rd 1 s.turn.next).setTurn { s.turn with next := x }))
       ∧ (x.toNat % 4 ≠ 0 → exec (.jr rd a g) s = .next (trapped s 0x09 x))
       ∧ (x.toNat % 4 = 0 → s.codeOf.2.2 ≤ x.toNat → exec (.jr rd a g) s = .next (trapped s 0x01 x)))

/-- BRK raises BREAK and TRAP raises SYSCALL with their ten-bit code (R133, R269), in every mode. -/
def Obligations.SoftwareTraps : Prop :=
  ∀ (c : BitVec 10) (g : BitVec 4) (s : State), s.guard g = true →
    exec (.brk c g) s = .next (trapped s 0x12 (BitVec.ofNat 64 c.toNat))
    ∧ exec (.trap c g) s = .next (trapped s 0x14 (BitVec.ofNat 64 c.toNat))

/-- R43 to R54: what CSRR reads in a task of each register that R42 lists, with latency 2; any other number traps ILLEGAL
with the bundle's address. A read of PTIME also latches the fraction that PTIMEF gives to later bundles (R50). -/
def Obligations.CsrReads : Prop :=
  (∀ (rd : BitVec 5) (n : BitVec 12) (k : Nat) (s : State), s.turn.agent = .scalar k →
    let t := s.task k
    let h := t.hart
    let d := s.die (slotDie k)
    let p := s.pair (slotPair k)
    let m := s.mat (slotPair k)
    let b := fun (x : Bool) => if x then 1 else 0
    let rows : List (Nat × Nat) :=
      [(0x000, h.tvec.toNat), (0x001, h.tcause.toNat), (0x002, h.tval.toNat), (0x003, h.tepc.toNat),
        (0x004, b (slotLoft k) * 2 ^ 16 + b h.hres * 2 ^ 15 + b h.inhdl * 2 ^ 14 + b h.mpark * 2 ^ 13
          + slotIndex k * 2 ^ 8),
        (0x005, h.rm.toNat * 2 ^ 6 + h.flags.toNat), (0x010, d.cycle.toNat), (0x012, h.frac.toNat),
        (0x013, if d.unlk then 0xFFFFFFFF else d.bound % 2 ^ 31),
        (0x020, b d.loft * 2 ^ 32 + (if d.loft then 0x1800000 else 0xC00000)),
        (0x021, b p.mov * 2 ^ 16 + p.tgt * 2 ^ 8 + p.cmib),
        (0x030, if slotLoft k then 0 else m.step * 2 ^ 16 + m.budget), (0x031, if slotLoft k then 0 else m.stalls),
        (0x033, 32 - (s.outbound (slotCore k)).length), (0x034, (s.core (slotCore k)).fwN),
        (0x040, (s.ctx t.ctx).diemask.toNat), (0x041, t.ctx), (0x042, t.idx),
        (0x043, b (slotLoft k) * 2 ^ 15 + slotPair k), (0x050, b h.scb),
        (0x051, t.wseq.toNat * 2 ^ 16 + t.witer.toNat * 2 ^ 8 + b (0 < t.wbusy) * 2 ^ 4 + t.wres.toNat),
        (0x052, t.model.toNat * 2 ^ 32 + t.adpt.toNat)]
    ∀ r ∈ rows, n.toNat = r.1 → exec (.csrr rd n) s = .next (s.setReg rd 2 (BitVec.ofNat 64 r.2)))
  ∧ (∀ (rd : BitVec 5) (s : State), exec (.csrr rd 0x011) s
      = .next ((s.setReg rd 2 (s.die s.myDie).ptime).noteCsr 0x112 (BitVec.ofNat 64 (s.die s.myDie).frac.toNat)))
  ∧ (∀ (rd : BitVec 5) (s : State), exec (.csrr rd 0x032) s
      = .next (s.setReg rd 2 (BitVec.ofNat 64 ((match (s.pair s.myPair).stair with | .opened => 0 | .closing => 1 | .closed => 2)
          * 2 ^ 14 + if (s.core s.myCore).en then 1 else 0))))
  ∧ ∀ (rd : BitVec 5) (n : BitVec 12) (s : State), csrListed n.toNat = false →
    exec (.csrr rd n) s = .next (trapped s 0x01 s.turn.pc)

/-- R42 and R139: CSRW to a listed register takes effect at the end of its bundle; there the writable fields take the matching
bits and every other field keeps its value. Read-only registers, and from a task the firmware's own, ignore it; from firmware
FWSHARE is at most 64, and both fields of MGOV lie between 1 and 32 (R51, R52). -/
def Obligations.CsrWrites : Prop :=
  (∀ (a : BitVec 5) (n : BitVec 12) (s : State),
    (csrListed n.toNat = true → exec (.csrw a n) s = .next (s.noteCsr n.toNat (s.reg a)))
    ∧ (csrListed n.toNat = false → exec (.csrw a n) s = .next (trapped s 0x01 s.turn.pc)))
  ∧ (∀ (n : Nat) (v : Word) (k : Nat) (s : State), s.turn.agent = .scalar k → csrListed n = true → s.hart.pendCsr = [] →
    let h := s.hart
    let t := (s.noteCsr n v).landCsr
    t = s.setHart (
      if n = 0x000 then { h with tvec := BitVec.ofNat 64 (v.toNat / 4 * 4) }
      else if n = 0x001 then { h with tcause := v &&& 0xFFEFF }
      else if n = 0x002 then { h with tval := v }
      else if n = 0x003 then { h with tepc := v }
      else if n = 0x004 then { h with hres := v.getLsbD 15, inhdl := v.getLsbD 14 }
      else if n = 0x005 then { h with rm := BitVec.ofNat 2 (v.toNat / 64), flags := BitVec.ofNat 5 v.toNat }
      else if n = 0x050 then { h with scb := v.getLsbD 0 } else h))
  ∧ ∀ (v : Word) (c : Nat) (s : State), s.turn.agent = .firmware c → s.hart.pendCsr = [] →
    let t := fun n => (s.noteCsr n v).landCsr
    ((t 0x034).core c).fwN = Min.min 64 (v.toNat % 128)
    ∧ (coreLoft c = false →
      ((t 0x030).mat (corePair c)).budget = Max.max 1 (Min.min 32 (v.toNat % 64))
      ∧ ((t 0x030).mat (corePair c)).step = Max.max 1 (Min.min 32 (v.toNat / 2 ^ 16 % 64))
      ∧ ((t 0x031).mat (corePair c)).stalls = v.toNat)

/-- R134: GADDR forms a private, scratchpad or quad-shared address of an offset within the window, and traps BAD_WINDOW
outside it; R135: SPTEST fills its predicate with whether the address's window is among the classes; R136: SPCAST
exchanges the two local-store windows of this pair's quad, traps SP_FOREIGN for a scratchpad outside it, and BAD_WINDOW for
any other address. -/
def Obligations.AddressFormation : Prop :=
  (∀ (rd a w : BitVec 5) (g : BitVec 4) (s : State), s.guard g = true → w.toNat ≤ 2 →
    let x := (s.reg a).toNat
    let limit := if w = 0 then 2 ^ 32 else 2 ^ 25
    let base := if w = 0 then 0 else if w = 1 then 2 ^ 60 + s.myPair % 128 * 2 ^ 40 else 2 * 2 ^ 60 + s.myPair % 4 * 2 ^ 40
    (x < limit → exec (.gaddr rd a w g) s = .next (s.setReg rd 2 (BitVec.ofNat 64 (base + x))))
    ∧ (limit ≤ x → exec (.gaddr rd a w g) s = .next (trapped s 0x03 (s.reg a))))
  ∧ (∀ (pd : BitVec 4) (a c : BitVec 5) (g : BitVec 4) (s : State), s.guard g = true →
    let code := (s.reg a).toNat / 2 ^ 60
    let hit : Bool := (c.getLsbD 0 && code == 0) || (c.getLsbD 1 && code == 1) || (c.getLsbD 2 && code == 2)
      || (c.getLsbD 3 && code == 4) || (c.getLsbD 4 && code == 8)
    exec (.sptest pd a c g) s = .next (s.setPred pd (if hit then BitVec.allOnes 1024 else 0)))
  ∧ (∀ (rd a d : BitVec 5) (g : BitVec 4) (s : State) (tag off : Nat), s.guard g = true → tag < 128 → off < 2 ^ 25 →
    (d = 0 → (s.reg a).toNat = 2 ^ 60 + tag * 2 ^ 40 + off → tag / 4 = s.myPair % 128 / 4 →
      exec (.spcast rd a d g) s = .next (s.setReg rd 2 (BitVec.ofNat 64 (2 * 2 ^ 60 + tag % 4 * 2 ^ 40 + off))))
    ∧ (d = 0 → (s.reg a).toNat = 2 ^ 60 + tag * 2 ^ 40 + off → tag / 4 ≠ s.myPair % 128 / 4 →
      exec (.spcast rd a d g) s = .next (trapped s 0x04 (s.reg a)))
    ∧ (d = 1 → tag < 4 → (s.reg a).toNat = 2 * 2 ^ 60 + tag * 2 ^ 40 + off →
      exec (.spcast rd a d g) s
        = .next (s.setReg rd 2 (BitVec.ofNat 64 (2 ^ 60 + (s.myPair % 128 / 4 * 4 + tag) * 2 ^ 40 + off)))))
  ∧ ∀ (rd a d : BitVec 5) (g : BitVec 4) (s : State), s.guard g = true →
    (d = 0 → (∀ tag off, tag < 128 → off < 2 ^ 25 → (s.reg a).toNat ≠ 2 ^ 60 + tag * 2 ^ 40 + off) →
      exec (.spcast rd a d g) s = .next (trapped s 0x03 (s.reg a)))
    ∧ (d = 1 → (∀ tag off, tag < 4 → off < 2 ^ 25 → (s.reg a).toNat ≠ 2 * 2 ^ 60 + tag * 2 ^ 40 + off) →
      exec (.spcast rd a d g) s = .next (trapped s 0x03 (s.reg a)))

/-- R137: OBJSZ gives the size of the object that a loaded handle names, or of a mapped weight object, and traps OBJ_UNLOADED
for any other; an address of another window traps BAD_WINDOW. The offset does not matter. R138: OBJVER of an object that is
not protected gives 0; of a protected one, once no write of the task to it is under way, it advances the version in the
object's entry, clears what that version had claimed, and gives the new version; a version at its last value traps PROT. -/
def Obligations.ObjectSizesAndVersions : Prop :=
  (∀ (rd a : BitVec 5) (g : BitVec 4) (s : State), s.guard g = true →
     (∀ h off, windowOf (s.reg a) = some (.glob h off) →
       (∀ o, tfind s.view.objs h = some o → exec (.objsz rd a g) s = .next (s.setReg rd 2 (BitVec.ofNat 64 o.size)))
       ∧ (tfind s.view.objs h = none → exec (.objsz rd a g) s = .next (trapped s 0x05 (s.reg a))))
     ∧ (∀ id off, windowOf (s.reg a) = some (.weight id off) →
       ((s.inFirmware = false ∧ (s.wobj id).st = 1 ∧ (s.wobj id).rd.getLsbD s.view.ctx = true) →
         exec (.objsz rd a g) s = .next (s.setReg rd 2 (BitVec.ofNat 64 (s.wobj id).size)))
       ∧ (¬(s.inFirmware = false ∧ (s.wobj id).st = 1 ∧ (s.wobj id).rd.getLsbD s.view.ctx = true) →
         exec (.objsz rd a g) s = .next (trapped s 0x05 (s.reg a))))
     ∧ ((∀ h off, windowOf (s.reg a) ≠ some (.glob h off)) → (∀ id off, windowOf (s.reg a) ≠ some (.weight id off)) →
       exec (.objsz rd a g) s = .next (trapped s 0x03 (s.reg a))))
  ∧ (∀ (rd a : BitVec 5) (g : BitVec 4) (s : State) (h off : Nat) (o : ObjDesc), s.guard g = true →
       windowOf (s.reg a) = some (.glob h off) → tfind s.view.objs h = some o →
       (s.objectBusy s.me s.view.objs s.view.ctx o.idx = true → exec (.objver rd a g) s = .next (waiting s Hold.init))
       ∧ (s.objectBusy s.me s.view.objs s.view.ctx o.idx = false →
         (o.prot = false → exec (.objver rd a g) s = .next (s.setReg rd 1 0))
         ∧ (∀ r, o.prot = true → tfind (s.ctx s.view.ctx).objs o.idx = some r →
           (r.ver = 0xFFFFFFFF → exec (.objver rd a g) s = .next (trapped s 0x11 (s.reg a)))
           ∧ (r.ver ≠ 0xFFFFFFFF →
             let c := s.view.ctx
             let r' := { r with ver := r.ver + 1, wmap := if o.mode = 2 then 0 else r.wmap, hwm := if o.mode = 1 then 0 else r.hwm }
             exec (.objver rd a g) s
               = .next ((s.setCtx c { s.ctx c with objs := tput (s.ctx c).objs o.idx r' }).setReg rd 1
                   (BitVec.ofNat 64 (r.ver + 1)))))))

/-! ## Tokens, engine starts, banks, tasks -/

/-- R148: TWAIT goes on at once when the generation its token stood at has completed, and otherwise its bundle issues and the
slot holds before the next one, naming the token and that generation; token 63 never waits. In firmware it traps ILLEGAL.
R149: TCLR of a token with nothing outstanding sets both its counters to zero; one with something outstanding waits. -/
def Obligations.TokenWaitsAndClears : Prop :=
  (∀ (tk : BitVec 6) (s : State),
     let k := tget Tok.init s.turn.toks tk.toNat
     (s.inFirmware = true → exec (.twait tk) s = .next (trapped s 0x01 s.turn.pc))
     ∧ (s.inFirmware = false →
       (tk = 63 → exec (.twait tk) s = .next s)
       ∧ (tk ≠ 63 → tokReached ((s.task s.me).tok tk.toNat).c k.g = true → exec (.twait tk) s = .next s)
       ∧ (tk ≠ 63 → tokReached ((s.task s.me).tok tk.toNat).c k.g = false →
         exec (.twait tk) s = .next (s.holdAfter ⟨.twait, tk.toNat, BitVec.ofNat 64 k.g.toNat⟩))))
  ∧ (∀ (tk : BitVec 6) (s : State), s.inFirmware = false →
       let t := s.task s.me
       (tk = 63 → exec (.tclr tk) s = .next s)
       ∧ (tk ≠ 63 → t.tokenIdle tk.toNat = false → exec (.tclr tk) s = .next (waiting s ⟨.tclr, tk.toNat, 0⟩))
       ∧ (tk ≠ 63 → t.tokenIdle tk.toNat = true → tsorted t.toks = true → ∃ u, exec (.tclr tk) s = .next u
         ∧ u = s.setTask s.me { t with toks := (u.task s.me).toks }
         ∧ ∀ n, (u.task s.me).tok n = if n = tk.toNat then ⟨0, 0⟩ else t.tok n))

/-- R141 and R142: an engine start with room in its queue appends one block at its tail, with the snapshot of the registers,
rounding mode and lent banks, the generations its tokens stand at, and a production of its own token; the scalar stream
goes on. -/
def Sys2Proof.Claims.started (s : State) (eng : Nat) (w : TWord) (t : Task) (g : Option Gen) (b : Block) : State :=
  let b := { b with
    serial := t.serial, waits := capture s.turn.toks w.tok, prod := g, sregs := t.hart.rf.vals, rm := t.hart.rm,
    scb := t.hart.scb, lentSrc := t.lentSrc, lentTgt := t.lentTgt, bundle := s.turn.pc, handler := t.hart.inhdl,
    bad := (s.regPoison.filter fun e => e.1 == s.me && e.2.1 == 0).map fun e => e.2.2 }
  s.setTask s.me { t.setEng eng { t.eng eng with queue := (t.eng eng).queue ++ [b] } with serial := t.serial + 1 }

/-- The matrix engine of the pair is this task's to use. -/
def Sys2Proof.Claims.matrixHeld (s : State) : Prop :=
  s.inFirmware = false ∧ coreLoft s.myCore = false ∧ (s.mat s.myPair).bound = some s.me

/-- R140 to R144 and R207: when VEXEC, MEXEC, XEXEC and MNEST start their blocks, and the checks that come before in their
order: the section's alignment and end, the record's window, a full queue, a token whose production is not allowed. -/
def Obligations.EngineStarts : Prop :=
  (∀ (w : TWord) (s : State) (t : Task) (g : Option Gen),
    let a := s.reg w.a
    let n := w.par.toNat
    let runs := if w.b = 0 then 1 else (s.reg w.b).toNat
    let size := s.sectionSize (s.task s.me).code 1
    s.inFirmware = false → a.toNat % 12 = 0 → a.toNat < size → a.toNat + n * 12 ≤ size → runs < 2 ^ 32 →
    ((s.task s.me).vec.queue.length < 4 → (s.task s.me).produce w.tok.prod (some (s.task s.me).serial) = some (t, g) →
      exec (.vexec w) s = .next (started s 1 w t g { Block.blank with start := a, n := n, runs := runs }))
    ∧ (4 ≤ (s.task s.me).vec.queue.length → exec (.vexec w) s = .next (waiting s ⟨.queue, 0, 0⟩)))
  ∧ (∀ (w : TWord) (s : State) (t : Task) (g : Option Gen),
    let a := s.reg w.a
    let n := w.par.toNat
    let size := s.sectionSize (s.task s.me).code 2
    matrixHeld s → a.toNat % 24 = 0 → a.toNat < size → a.toNat + n * 24 ≤ size →
    ((s.task s.me).mat.queue.length < 4 → (s.task s.me).produce w.tok.prod (some (s.task s.me).serial) = some (t, g) →
      exec (.mexec w) s = .next (started s 2 w t g { Block.blank with start := a, n := n }))
    ∧ (4 ≤ (s.task s.me).mat.queue.length → exec (.mexec w) s = .next (waiting s ⟨.queue, 0, 0⟩)))
  ∧ (∀ (w : TWord) (s : State) (t : Task) (g : Option Gen),
    let a := s.reg w.a
    let size := s.sectionSize (s.task s.me).code 3
    s.inFirmware = false → a.toNat % 4 = 0 → a.toNat < size →
    ((s.task s.me).xfer.queue.length < 4 → (s.task s.me).produce w.tok.prod (some (s.task s.me).serial) = some (t, g) →
      exec (.xexec w) s
        = .next (started s 3 w t g { Block.blank with start := a, x1 := s.reg w.b, x2 := BitVec.ofNat 64 w.par.toNat }))
    ∧ (4 ≤ (s.task s.me).xfer.queue.length → exec (.xexec w) s = .next (waiting s ⟨.queue, 0, 0⟩)))
  ∧ (∀ (w : TWord) (s : State) (t : Task) (g : Option Gen) (tag off : Nat),
    let a := s.reg w.a
    matrixHeld s → a.toNat % 256 = 0 →
    (windowOf a = some (.pad tag off) ∧ tag = s.myPair) ∨ (windowOf a = some (.quad tag off) ∧ tag = s.myPair % 4) →
    ((s.task s.me).mat.queue.length < 4 → (s.task s.me).produce w.tok.prod (some (s.task s.me).serial) = some (t, g) →
      exec (.mnest w) s = .next (started s 2 w t g { Block.blank with nest := true, start := a }))
    ∧ (4 ≤ (s.task s.me).mat.queue.length → exec (.mnest w) s = .next (waiting s ⟨.queue, 0, 0⟩)))
  ∧ (∀ (w : TWord) (s : State),
    let a := s.reg w.a
    (s.inFirmware = true → exec (.vexec w) s = .next (trapped s 0x01 s.turn.pc)
      ∧ exec (.xexec w) s = .next (trapped s 0x01 s.turn.pc) ∧ exec (.mexec w) s = .next (trapped s 0x01 s.turn.pc))
    ∧ (s.inFirmware = false → a.toNat % 12 ≠ 0 → exec (.vexec w) s = .next (trapped s 0x09 a))
    ∧ (s.inFirmware = false → a.toNat % 4 ≠ 0 → exec (.xexec w) s = .next (trapped s 0x09 a))
    ∧ (matrixHeld s → a.toNat % 24 ≠ 0 → exec (.mexec w) s = .next (trapped s 0x09 a))
    ∧ (s.inFirmware = false → coreLoft s.myCore = false → (s.mat s.myPair).bound ≠ some s.me →
      (s.task s.me).wantsMat = false → exec (.mexec w) s = .next (trapped s 0x0A s.turn.pc)))

/-- R150: VLEND lends a bank that no word in flight of the running block writes and that is not lent, as source or target; lending one that is, or
a second bank in a role, traps RESOURCE with the bank. VRECL takes a bank back once no block that captured it as lent has
words left to run, and waits until then; a bank that is not lent traps RESOURCE. -/
def Obligations.BankLending : Prop :=
  (∀ (b : BitVec 2) (role : BitVec 1) (g : BitVec 4) (s : State), s.guard g = true → matrixHeld s →
    let t := s.task s.me
    let bad := t.bankInFlight b.toNat || t.lentSrc == some b.toNat || t.lentTgt == some b.toNat
      || (if role = 0 then t.lentSrc.isSome else t.lentTgt.isSome)
    (bad = true → exec (.vlend b role g) s = .next (trapped s 0x13 (BitVec.ofNat 64 b.toNat)))
    ∧ (bad = false →
      exec (.vlend b role g) s = .next (s.setTask s.me
        (if role = 0 then { t with lentSrc := some b.toNat } else { t with lentTgt := some b.toNat }))))
  ∧ ∀ (b : BitVec 2) (g : BitVec 4) (s : State), s.guard g = true → s.inFirmware = false → coreLoft s.myCore = false →
    let t := s.task s.me
    let n := b.toNat
    (t.lentSrc ≠ some n → t.lentTgt ≠ some n → exec (.vrecl b g) s = .next (trapped s 0x13 (BitVec.ofNat 64 n)))
    ∧ (t.lentSrc = some n ∨ t.lentTgt = some n →
      (t.bankInUse n = true → exec (.vrecl b g) s = .next (waiting s ⟨.vrecl, n, 0⟩))
      ∧ (t.bankInUse n = false → exec (.vrecl b g) s = .next (s.setTask s.me { t with
        lentSrc := if t.lentSrc = some n then none else t.lentSrc,
        lentTgt := if t.lentTgt = some n then none else t.lentTgt })))

/-- R152: PHASE to another cache size performs the stores that wait in store queues and starts the move of the region between the
two, when no task of another context is on the pair and no move is under way; it traps RESOURCE for more than the store holds, or beside another context's task. -/
def Obligations.PhaseMoves : Prop :=
  ∀ (a : BitVec 5) (g : BitVec 4) (s : State), s.guard g = true →
    let x := s.reg a
    let p := s.pair s.myPair
    let l := s.lsBytes s.myPair / 0x100000
    (l < x.toNat ∨ s.otherContextOn s.myPair s.view.ctx = true → exec (.phase a g) s = .next (trapped s 0x13 x))
    ∧ (x.toNat ≤ l → s.otherContextOn s.myPair s.view.ctx = false →
      (p.mov = true → exec (.phase a g) s = .next (waiting s ⟨.phase, 0, 0⟩))
      ∧ (p.mov = false → x.toNat = p.cmib → exec (.phase a g) s = .next s)
      ∧ (p.mov = false → x.toNat ≠ p.cmib → p.sb = [] →
        let u := s.performWhere fun _ => true
        exec (.phase a g) s
          = .next (u.setPair s.myPair { u.pair s.myPair with tgt := x.toNat, mov := true, movStart := (s.die s.myDie).cycle })))

/-- R154, R156, R157 in a task: WAITDEP goes on when every producer launch has triggered, whose writes the task's releases then
cover (R242), and waits until then; TRIG notes its
signal once; EXIT issues, and its slot holds at its own bundle until the work is done; YIELD marks its slot to be passed over
once. In firmware each traps ILLEGAL. -/
def Obligations.TaskWords : Prop :=
  ∀ (g : BitVec 4) (s : State), s.guard g = true →
    let t := s.task s.me
    (s.inFirmware = true →
      ∀ i ∈ [Instr.waitdep g, .trig g, .exit g, .yield g], exec i s = .next (trapped s 0x01 s.turn.wordPc))
    ∧ (s.inFirmware = false →
      (s.producersDone t.lnum = true → exec (.waitdep g) s = .next (s.coverProducers s.me))
      ∧ (s.producersDone t.lnum = false → exec (.waitdep g) s = .next (waiting s ⟨.waitdep, 0, 0⟩))
      ∧ (t.trig = false → t.trigPend = false → exec (.trig g) s
        = .next (s.setTask s.me { t with trigPend := true, trigAt := t.serial + 1, serial := t.serial + 1 }))
      ∧ (t.trig = true ∨ t.trigPend = true → exec (.trig g) s = .next s)
      ∧ exec (.exit g) s = .next ((s.holdAfter ⟨.exit, 0, 0⟩).setTurn
          { (s.holdAfter ⟨.exit, 0, 0⟩).turn with next := s.turn.pc })
      ∧ exec (.yield g) s = .next (s.setTask s.me { t with skip := true }))

/-- R155: LAUNCH of a record that passes R399's checks makes a launch in the task's context that waits for admission; one that
fails them is refused with its code and detail in the record's STATUS, with no trap. -/
def Obligations.LaunchFromATask : Prop :=
  ∀ (a : BitVec 5) (g : BitVec 4) (s u v w : State) (p : Place) (b : List Byte) (c : Checked), s.guard g = true →
    s.inFirmware = false →
    let x := s.reg a
    let v0 := frontView (v.task s.me).ctx (v.task s.me).objs
    s.launchPlace s.view x = .ok p u → p.there = true → u.allDone u.me = true → u.release 5 = .ok () v → u.me = s.me →
    (∃ v', v.readRecord v0 x = .ok b v' ∧ v'.checkRecord v0 b 1 (fun _ => true) = .ok c w) →
    let t := v.task s.me
    (∀ r hs, c = .ok (r, hs) → ∃ l, exec (.launch a g) s = .next { w with waiting := w.waiting ++ [l] }
      ∧ l.ctx = t.ctx ∧ l.record = r ∧ l.handles = hs ∧ l.addr = x ∧ l.objs = t.objs ∧ l.exited = 0 ∧ l.trigged = 0
      ∧ l.producers = (if r.depn = 1 then [t.lnum] else []) ∧ l.model = t.model ∧ l.adpt = t.adpt)
    ∧ ∀ code detail, c = .error (code, detail) →
      exec (.launch a g) s = .next (w.putStatus t.ctx t.objs x code detail)

/-! ## Traps, handlers, firmware -/

/-- The bytes of memory outside a range read as before. -/
def Sys2Proof.Claims.SameOutside (s t : State) (key n : Nat) : Prop :=
  ∀ a, a < key ∨ key + n ≤ a → t.getByte a = s.getByte a

/-- R325 and R326, for the only task of its context on the machine, when no matrix operation of it has to be split first: the
stop records are written in the last 512 bytes of its frame, the control core's naming the bundle; TCAUSE, TVAL and TEPC are
set, what its engines had is set aside, and its handler runs next at TVEC.BASE × 4, with every earlier write landed. When
another task's engine still has to stop, the trap is noted, the halt line stands, and nothing else changes. -/
def Obligations.TrapEntry : Prop :=
  ∀ (k c : Nat) (v : Word) (s : State), s.turn.agent = .scalar k → c ≠ 0x0D → (s.task k).raised = [] →
    (s.ctx (s.task k).ctx).st ≠ .halted → tsorted s.tasks = true → s.memWf →
    let t := s.task k
    let n := t.ctx
    let u := trapped s c v
    let e := u.task k
    (s.quiet n = true → s.ctxSlots n = [k] → t.hart.inhdl = false → c ≠ 0x08 → c ≠ 0x10 → 512 ≤ t.frame →
      e.hart = { t.hart with
          rf := t.hart.rf.settle, p := t.land.hart.p, pendP := [], tcause := BitVec.ofNat 64 c, tval := v, tepc := t.hart.pc,
          inhdl := true, mpark := t.mat.cur.isSome, pc := t.hart.tvec &&& ~~~3 }
      ∧ (e.v = t.land.v ∧ e.xrf = t.xrf.settle ∧ e.pendV = [] ∧ e.pendVP = [])
      ∧ (∃ m, e.aside = some ⟨t.vec, m, t.xfer, t.hold, t.waits, t.serial⟩ ∧ m.queue = t.mat.queue ∧ m.pc = t.mat.pc
        ∧ m.cur.map (fun r => { r with block := none }) = t.mat.cur.map fun r => { r with block := none })
      ∧ (e.enginesIdle = true ∧ e.hold = Hold.init ∧ e.raised = [] ∧ e.stopped = false)
      ∧ (e.toks = t.toks ∧ e.prods = t.prods ∧ e.frame = t.frame ∧ e.lnum = t.lnum ∧ e.idx = t.idx)
      ∧ (u.ctx n = { s.ctx n with halt := (s.ctx n).stage != .none } ∧ ∀ j, j ≠ n → u.ctx j = s.ctx j)
      ∧ (∀ j, j ≠ k → u.task j = s.task j)
      ∧ SameOutside s u (frameKey t (t.frame - 512)) 512
      ∧ u.getNat (frameKey t (t.frame - 504)) 8 = t.hart.pc.toNat
      ∧ u.getNat (frameKey t (t.frame - 509)) 1 = c % 256
      ∧ u = { s with tasks := u.tasks, ctxs := u.ctxs, mats := u.mats, mem := u.mem, turn := u.turn })
    ∧ (s.quiet n = false →
      u = { (s.setTask k { t with raised := [⟨0, c, 0, v, t.hart.pc⟩] }).setCtx n
          { s.ctx n with halt := true } with turn := u.turn })

/-- R328 and R329: a trap of a task already in its handler, or a fatal one, sets TCAUSE, TVAL and TEPC, halts its context for good
and tells the host; a later one of the halted context joins the report and changes nothing else; one of a firmware context enters that context's own handler, or stops it when it is in the handler already, tells the
management core of its die, and leaves every task, context and byte of memory alone. -/
def Obligations.FatalAndFirmwareTraps : Prop :=
  (∀ (k c : Nat) (v : Word) (s : State), s.turn.agent = .scalar k → c ≠ 0x0D → (s.task k).raised = [] →
    (s.ctx (s.task k).ctx).st ≠ .halted → tsorted s.tasks = true → s.quiet (s.task k).ctx = true → s.ctxSlots (s.task k).ctx = [k] → (s.task k).hart.inhdl = true ∨ c = 0x08 →
    let t := s.task k
    let u := trapped s c v
    (u.ctx t.ctx).st = .halted ∧ (u.ctx t.ctx).halt = true ∧ u.bound k = true
      ∧ (u.task k).hart.pc = t.hart.pc ∧ (u.task k).hart.inhdl = t.hart.inhdl ∧ u.mayRun k = false
      ∧ (u.task k).hart.tcause = BitVec.ofNat 64 c ∧ (u.task k).hart.tval = v ∧ (u.task k).hart.tepc = t.hart.pc
      ∧ (s.events.length < 1024 → u.events = s.events ++ [⟨(s.ctx t.ctx).fn, 0x10001, [t.ctx, c, v.toNat, t.lnum, t.idx, 0]⟩]))
  ∧ (∀ (k c : Nat) (v : Word) (s : State), s.turn.agent = .scalar k → c ≠ 0x0D → (s.ctx (s.task k).ctx).st = .halted →
    s.events.length < 1024 →
    let t := s.task k
    trapped s c v = { s with events := s.events ++ [⟨(s.ctx t.ctx).fn, 0x10001, [t.ctx, c, v.toNat, t.lnum, t.idx, 0]⟩],
                             turn := { s.turn with stop := .trapped c v } })
  ∧ ∀ (n c : Nat) (v : Word) (s : State), s.turn.agent = .firmware n → c ≠ 0x0D →
    let f := s.fw n
    let u := trapped s c v
    let h := { f.hart with
      tcause := BitVec.ofNat 64 c, tval := v, tepc := f.hart.pc, rf := f.hart.rf.settle,
      p := (landPend (fun _ => true) f.hart.p f.hart.pendP).1, pendP := [] }
    u.fw n = (if f.hart.inhdl then { f with hart := h, halted := true }
      else { f with hart := { h with inhdl := true, pc := f.hart.tvec &&& ~~~3 } })
    ∧ u.mgmt = s.mgmt ++ [⟨0, 0x10002, [n / 32, n, c, v.toNat]⟩]
    ∧ u = { s with fws := u.fws, mgmt := u.mgmt, turn := { s.turn with stop := .trapped c v } }

/-- R270, R327 and R271. ERET outside a handler traps ILLEGAL. In firmware it clears INHDL and goes on at TEPC. In a task it
waits for the blocks the handler started; then, when the stop records pass their checks, it clears INHDL, lands every write of the
handler's engines, puts back what was set aside, and goes on at TEPC, or for a trap of another engine at the PC of the control core's record; a record that fails traps
ILLEGAL with its address. HALT stops a firmware context with TEPC naming the next bundle, and traps ILLEGAL in a task. -/
def Obligations.HandlerReturnAndHalt : Prop :=
  (∀ (g : BitVec 4) (s : State), s.guard g = true → s.hart.inhdl = false →
    exec (.eret g) s = .next (trapped s 0x01 s.turn.wordPc))
  ∧ (∀ (g : BitVec 4) (n : Nat) (s : State), s.guard g = true → s.turn.agent = .firmware n →
    let f := s.fw n
    (f.hart.inhdl = true → exec (.eret g) s
      = .next ((s.setFw n { f with hart := { f.hart with inhdl := false } }).setTurn { s.turn with next := f.hart.tepc }))
    ∧ exec (.halt g) s = .next (s.setFw n { f with halted := true, hart := { f.hart with tepc := s.turn.next } }))
  ∧ (∀ (g : BitVec 4) (k : Nat) (s : State), s.guard g = true → s.turn.agent = .scalar k → (s.task k).hart.inhdl = true →
    let t := s.task k
    let pc := fun back => BitVec.ofNat 64 (s.recordField k back 8 8)
    (s.handlerBlocksDone k = false → exec (.eret g) s = .next (waiting s Hold.init))
    ∧ (∀ back, s.handlerBlocksDone k = true → s.badRecord k = some back →
      exec (.eret g) s = .next (trapped s 0x01 (BitVec.ofNat 64 (t.frame - back))))
    ∧ (∀ a, s.handlerBlocksDone k = true → s.badRecord k = none → t.aside = some a →
      (∀ r, a.vec.cur = some r → s.recordActive k 448 = true → pc 448 = r.pc) →
      (∀ r, a.xfer.cur = some r → s.recordActive k 320 = true → pc 320 = r.pc) →
      ∃ u, exec (.eret g) s = .next u
        ∧ u.turn = { s.turn with next := if t.hart.tcause.toNat / 512 % 8 = 0 then t.hart.tepc else pc 512 }
        ∧ (u.task k).hart = { t.landEngines.hart with inhdl := false, mpark := false }
        ∧ ((u.task k).v = t.land.v ∧ (u.task k).xrf = t.xrf.settle ∧ (u.task k).pendV = [] ∧ (u.task k).pendVP = [])
        ∧ ((u.task k).vec = a.vec ∧ (u.task k).mat = a.mat ∧ (u.task k).xfer = a.xfer ∧ (u.task k).aside = none)
        ∧ (u.task k).atEret = [] ∧ (u.task k).deferred = t.deferred
        ∧ (∀ q, (s.mat (slotPair k)).parked = some q → u.mat (slotPair k) = { s.mat (slotPair k) with
            act := q.act, shadow := q.shadow, latched := q.latched, parked := none, reload := t.hart.mpark })
        ∧ (∀ j, j ≠ k → u.task j = s.task j) ∧ u = { s with tasks := u.tasks, mats := u.mats, turn := u.turn }))
  ∧ ∀ (g : BitVec 4) (s : State), s.guard g = true → s.inFirmware = false →
    exec (.halt g) s = .next (trapped s 0x01 s.turn.wordPc)

/-- R272: VFCFG enables the core's stairwell end and takes ownership for its context, whose saved entries return where a resume
could not put them back (log 91, the model's choice), disables it, and in firmware closes an
open stairwell to new traffic and reopens a closed one; each is refused as the rule's table says. -/
def Obligations.StairwellConfiguration : Prop :=
  ∀ (g : BitVec 4) (s : State), s.guard g = true →
    let n := s.myPair
    let p := s.pair n
    let c := s.view.ctx
    let okEnable := p.stair = .opened ∧ (s.die s.myDie).loft = true ∧ (p.stairOwner = none ∨ p.stairOwner = some c)
    (okEnable → tfind (s.ctx c).stairs n = none → exec (.vfcfgEnable g) s
      = .next ((s.setCore s.myCore { s.core s.myCore with en := true }).setPair n { p with stairOwner := some c }))
    ∧ (∀ b, okEnable → tfind (s.ctx c).stairs n = some b → exec (.vfcfgEnable g) s
      = .next (((s.setCore s.myCore { s.core s.myCore with en := true }).setPair n
          { p with stairOwner := some c, up := p.up ++ b.1, down := p.down ++ b.2 }).setCtx c
        { s.ctx c with stairs := terase (s.ctx c).stairs n }))
    ∧ (¬okEnable → exec (.vfcfgEnable g) s = .next (trapped s 0x13 0))
    ∧ (p.up = [] → p.down = [] → s.myCore < 256 →
      let t := s.setCore s.myCore { s.core s.myCore with en := false }
      exec (.vfcfgDisable g) s
        = .next (if (s.core (s.myCore ^^^ 1)).en then t else t.setPair n { p with stairOwner := none }))
    ∧ (p.up ≠ [] ∨ p.down ≠ [] → exec (.vfcfgDisable g) s = .next (trapped s 0x13 1))
    ∧ (s.inFirmware = false → exec (.vfcfgGate g) s = .next (trapped s 0x01 s.turn.wordPc)
      ∧ exec (.vfcfgReopen g) s = .next (trapped s 0x01 s.turn.wordPc))
    ∧ (s.inFirmware = true →
      (p.stair ≠ .opened → exec (.vfcfgGate g) s = .next (trapped s 0x13 2))
      ∧ (p.stair ≠ .closed → exec (.vfcfgReopen g) s = .next (trapped s 0x13 3))
      ∧ (p.stair = .opened → ∃ u, exec (.vfcfgGate g) s = .next u
        ∧ u.pair n = { p with stair := .closing, gateAt := (s.die s.myDie).ptime, gateAsked := false }
        ∧ u = { s with pairs := u.pairs, mgmt := u.mgmt })
      ∧ (p.stair = .closed → ∃ u, exec (.vfcfgReopen g) s = .next u
        ∧ u.pair n = { p with stair := .opened, stairOwner := none }
        ∧ (u.core (2 * n) = { s.core (2 * n) with en := false } ∧ u.core (2 * n + 1) = { s.core (2 * n + 1) with en := false })
        ∧ u = { s with pairs := u.pairs, cores := u.cores, mgmt := u.mgmt }))

/-! ## Memory words -/

/-- The state is one in which no message to another home is under way, no store waits in a store queue, and no context's local
store is held in the cellar for it: what a memory word then does, it does at the home. -/
structure Sys2Proof.Claims.Settled (s : State) : Prop where
  sent : ∀ c ∈ s.chans, c.unacked.drop c.applied = []
  queued : s.queued = []
  here : ∀ p, s.diversion p (s.pair p).epoch = none

/-- Every byte outside a range reads as before, but for bytes of a line of which the pair's local-store cache holds changes:
it may write those back at any time (08 R295). -/
def Sys2Proof.Claims.SameBytes (s t : State) (pair key n : Nat) : Prop :=
  ∀ a, a < key ∨ key + n ≤ a → (∀ e ∈ (s.pair pair).cache, e.1 = a / 128 → e.2.dirty = 0) → t.getByte a = s.getByte a

/-- What a memory word may change beside memory itself: the caches and side log it works through, the DIEMASK of its context
and the claims of protected objects, the numbers of message channels with no message left under way, permits, and the number
that the next entry, transfer or request takes. Every register, predicate, flag, CSR, token, engine, object window and queue is as
before. -/
structure Sys2Proof.Claims.MemoryOnly (s t : State) : Prop where
  rest : t = { s with
    mem := t.mem, pairs := t.pairs, cores := t.cores, ctxs := t.ctxs, chans := t.chans, dies := t.dies, nextId := t.nextId }
  sent : ∀ c ∈ t.chans, c.unacked.drop c.applied = []
  dies : ∀ d, { t.die d with permits := (s.die d).permits } = s.die d
  next : s.nextId ≤ t.nextId
  pairs : ∀ p, { t.pair p with cache := (s.pair p).cache } = s.pair p
  cores : ∀ c, { t.core c with xcache := (s.core c).xcache, sidelog := (s.core c).sidelog } = s.core c
  ctxs : ∀ c, { t.ctx c with diemask := (s.ctx c).diemask, objs := (s.ctx c).objs } = s.ctx c

/-- The bytes at a place as its accessor reads them, as one little-endian number. -/
def Sys2Proof.Claims.fetched (t : State) (v : View) (p : Place) : Nat :=
  ofBytes ((List.range p.n).map fun j =>
    (if t.cacheable v p then t.seenByte v.pair (p.key + j) else (t.flushLine v p).getByte (p.key + j))
      ^^^ t.padByte v.ctx p.obj (p.off + j))

/-- The object of a place is not a protected one. -/
def Sys2Proof.Claims.Plain (p : Place) : Prop := ∀ o, p.obj = some o → o.prot = false

/-- A write of the place would go to its home now: its extent is present, no earlier write of the extent is parked, and it
waits for nothing. -/
def Sys2Proof.Claims.Writable (t : State) (v : View) (p : Place) : Prop :=
  p.there = true ∧ (∀ o, p.obj = some o → t.extentParked v o (extOf p.off) = false) ∧ t.writeWait p = none

/-- The low `n` bytes of a value, as an integer by sign. -/
def Sys2Proof.Claims.sg (n x : Nat) : Int := (BitVec.ofNat (8 * n) x).toInt

/-- R274 and R275: which addresses the five windows have, and the checks of an access in their order with what `TVAL` gets: the
window, the alignment, the pair, the handle or id, the bounds, the rights and the claim, the weight window; then the place of an access that
passes them, or its absence where the extent is not present. -/
def Obligations.AccessChecks : Prop :=
  (∀ (a : Word) (x : Window), windowOf a = some x ↔
    match x with
    | .priv off => off < 2 ^ 32 ∧ a.toNat = off
    | .pad tag off => tag < 128 ∧ off < 2 ^ 25 ∧ a.toNat = 2 ^ 60 + tag * 2 ^ 40 + off
    | .quad m off => m < 4 ∧ off < 2 ^ 25 ∧ a.toNat = 2 * 2 ^ 60 + m * 2 ^ 40 + off
    | .weight id off => id < 2 ^ 16 ∧ off < 2 ^ 40 ∧ a.toNat = 4 * 2 ^ 60 + id * 2 ^ 44 + off
    | .glob h off => h < 2 ^ 8 ∧ off < 2 ^ 52 ∧ a.toNat = 8 * 2 ^ 60 + h * 2 ^ 52 + off)
  ∧ ∀ (s : State) (v : View) (a : Word) (w : Want), v.firmware = false → w.wins = 31 →
    (windowOf a = none → s.place v a w = .trap 0x03 a)
    ∧ (windowOf a ≠ none → a.toNat % w.align ≠ 0 → s.place v a w = .trap 0x09 a)
    ∧ (a.toNat % w.align = 0 → ∀ off, windowOf a = some (.priv off) →
      (v.frameSize < off + w.n → s.place v a w = .trap 0x06 a)
      ∧ (off + w.n ≤ v.frameSize → (s.die v.die).st = .online →
        s.place v a w = .ok ⟨a, w.n, v.frame + off, .frame v.die, none, 0, off, true⟩ (s.touch v.ctx v.die)))
    ∧ (a.toNat % w.align = 0 → ∀ tag off, windowOf a = some (.pad tag off) →
      (tag ≠ v.pair → w.foreign = false → s.place v a w = .trap 0x04 a)
      ∧ (tag = v.pair ∨ w.foreign = true → s.moving tag off w.n = false →
        (s.padLimit tag < off + w.n → s.place v a w = .trap 0x06 a)
        ∧ (off + w.n ≤ s.padLimit tag →
          (s.admits tag v.ctx = false → s.place v a w = .trap 0x11 a)
          ∧ (s.admits tag v.ctx = true → (s.die (tag / 16)).st = .online → s.diverted tag = none →
            s.place v a w = .ok ⟨a, w.n, keyLs tag off, .store tag off, none, 0, off, true⟩ (s.touch v.ctx (tag / 16))))))
    ∧ (a.toNat % w.align = 0 → ∀ m off, windowOf a = some (.quad m off) →
      let tag := v.pair / 4 * 4 + m
      s.moving tag off w.n = false → off + w.n ≤ s.padLimit tag → s.admits tag v.ctx = true →
      (s.die (tag / 16)).st = .online → s.diverted tag = none →
      s.place v a w = .ok ⟨a, w.n, keyLs tag off, .store tag off, none, 0, off, true⟩ (s.touch v.ctx (tag / 16)))
    ∧ (a.toNat % w.align = 0 → ∀ id off, windowOf a = some (.weight id off) →
      let o := s.wobj id
      (¬(o.st = 1 ∧ o.rd.getLsbD v.ctx = true) → s.place v a w = .trap 0x05 a)
      ∧ (o.st = 1 → o.rd.getLsbD v.ctx = true →
        (o.size < off + w.n → s.place v a w = .trap 0x06 a)
        ∧ (off + w.n ≤ o.size → w.wr = true → s.place v a w = .trap 0x07 a)))
    ∧ (a.toNat % w.align = 0 → ∀ h off, windowOf a = some (.glob h off) →
      (tfind v.objs h = none → s.place v a w = .trap 0x05 a)
      ∧ ∀ o, tfind v.objs h = some o →
        (o.size < off + w.n → s.place v a w = .trap 0x06 a)
        ∧ (off + w.n ≤ o.size →
          let claimed := w.wr = true ∧ v.claims = true ∧ s.claimFails v.ctx o off (off + w.n) = true
          ((w.rd = true ∧ w.wr = false ∧ o.rd = false) ∨ (w.wr = true ∧ o.wr = false)
              ∨ (o.prot = true ∧ s.keyOf o v.ctx = none) ∨ claimed → s.place v a w = .trap 0x11 a)
          ∧ (¬(w.rd = true ∧ w.wr = false ∧ o.rd = false) → ¬(w.wr = true ∧ o.wr = false) →
              ¬(o.prot = true ∧ s.keyOf o v.ctx = none) → ¬claimed →
            let q := s.findExtent v o (off / 2 ^ 21)
            let e := extentOf q.1
            (e.present = false → s.place v a w = .ok ⟨a, w.n, 0, .host, some o, h, off, false⟩ q.2)
            ∧ (e.present = true → e.ok = false →
              s.place v a w = .trap 0x08 (BitVec.ofNat 64 (8 * 2 ^ 60 + h * 2 ^ 52 + off / 2 ^ 21 * 2 ^ 21)))
            ∧ (e.present = true → e.ok = true → e.host = true →
              s.place v a w = .ok ⟨a, w.n, keyHost (e.base + off % 2 ^ 21), .host, some o, h, off, true⟩ q.2)
            ∧ (e.present = true → e.ok = true → e.host = false →
              let at_ := e.base + off % 2 ^ 21
              ((s.die e.die).st ≠ .online → s.place v a w = .trap 0x0D a)
              ∧ ((s.die e.die).st = .online → s.channelBusy e.die at_ = false → s.channelUp e.die at_ = true →
                s.place v a w = .ok ⟨a, w.n, keyLpddr e.die at_, .lpddr e.die, some o, h, off, true⟩
                  (q.2.touch v.ctx e.die))))))

/-- R232, R237 and R241: a load gives its destination the bytes at its address, zero- or sign-extended; it changes no other
register and no byte of memory. It waits where an access has to, and traps POISON on data that cannot be corrected. LDACQ
reads at the home and is then an acquire. -/
def Obligations.LoadResults : Prop :=
  (∀ (rd a : BitVec 5) (m : BitVec 12) (s : State),
    let u := fun (x : Nat) => BitVec.ofNat 64 x
    let x := BitVec.ofInt 64 ((s.reg a).toInt + match s.turn.limm with | none => m.toInt | some k => (k ++ m).toInt)
    ∀ e ∈ ([(.ldB rd a m, 1, fun x => BitVec.ofInt 64 (sg 1 x)), (.ldBu rd a m, 1, u),
        (.ldH rd a m, 2, fun x => BitVec.ofInt 64 (sg 2 x)), (.ldHu rd a m, 2, u),
        (.ldW rd a m, 4, fun x => BitVec.ofInt 64 (sg 4 x)), (.ldWu rd a m, 4, u), (.ldD rd a m, 8, u)]
          : List (Instr × Nat × (Nat → Word))),
      (∀ p t, s.place s.view x ⟨e.2.1, e.2.1, true, false, false, 31⟩ = .ok p t →
        (∀ h, t.readWait s.view p = some h → exec e.1 s = .next (waiting s h))
        ∧ (t.readWait s.view p = none → t.poisoned p.key p.n = true → exec e.1 s = .next (trapped s 0x0E x))
        ∧ (t.readWait s.view p = none → t.poisoned p.key p.n = false → Settled s →
          ∃ w, exec e.1 s = .next (w.setReg rd 1 (e.2.2 (fetched t s.view p))) ∧ MemoryOnly s w
            ∧ SameBytes s w s.view.pair 0 0))
      ∧ ∀ c v, s.place s.view x ⟨e.2.1, e.2.1, true, false, false, 31⟩ = .trap c v → exec e.1 s = .next (trapped s c v))
  ∧ ∀ (rd a : BitVec 5) (sc : BitVec 4) (s : State) (p : Place) (t : State),
    ∀ e ∈ [(Instr.ldacqW rd a sc, 4), (.ldacqD rd a sc, 8)],
      s.place s.view (s.reg a) ⟨e.2, e.2, true, false, false, 31⟩ = .ok p t → t.readWait s.view p = none →
      t.poisoned p.key p.n = false → Settled s → Plain p →
      ∃ w, exec e.1 s = .next ((w.setReg rd 1 (BitVec.ofInt 64 (sg e.2
            (ofBytes ((t.flushLine s.view p).getBytes p.key e.2))))).acquire sc.toNat)
        ∧ MemoryOnly s w ∧ SameBytes s w s.view.pair 0 0

/-- R232, R237 and R241: a store puts the low bytes of its register at its address, least significant first, where its pair
reads them at once, and changes nothing else. A store to an extent that is not present, or behind one that is parked, goes
into the side log and the word goes on (R234); one to another die's memory leaves as a numbered message for that home, and waits
while 4,096 are not acknowledged (09 R314); one of an agent whose stores wait stands in its store queue (09 R303; which do is the
agenda's choice, log 6). STREL stores at the home after its release, as a message of the release class where that is another die's. -/
def Obligations.StoreResults : Prop :=
  (∀ (rd a : BitVec 5) (m : BitVec 12) (s : State), s.memWf →
    let v := s.view
    let x := BitVec.ofInt 64 ((s.reg a).toInt + match s.turn.limm with | none => m.toInt | some k => (k ++ m).toInt)
    let byte := fun (j : Nat) => BitVec.ofNat 8 ((s.reg rd).toNat / 256 ^ j)
    ∀ e ∈ [(Instr.stB rd a m, 1), (.stH rd a m, 2), (.stW rd a m, 4), (.stD rd a m, 8)],
      (∀ p t, s.place v x ⟨e.2, e.2, false, true, false, 31⟩ = .ok p t → Plain p → Settled s →
        (Writable t v p → (∀ d, p.home = .lpddr d → d = v.die ∨ v.posts = none ∨ t.cacheable v p = true) →
          v.posts = none ∨ s.slips.contains s.turn.agent = false →
          ∃ w, exec e.1 s = .next w ∧ MemoryOnly s w ∧ SameBytes s w v.pair p.key e.2
            ∧ ∀ j < e.2, (if t.cacheable v p then w.seenByte v.pair (p.key + j) else w.getByte (p.key + j)) = byte j)
        ∧ (∀ d, Writable t v p → p.home = .lpddr d → d ≠ v.die → v.posts = some 2 → t.cacheable v p = false →
          v.cached = true ∨ (∀ e ∈ (t.pair v.pair).cache, e.1 ≠ p.key / 128) →
          (4096 ≤ t.unackedOn ⟨2, v.die, d⟩ → exec e.1 s = .next (waiting s Hold.init))
          ∧ (t.unackedOn ⟨2, v.die, d⟩ < 4096 → ∀ q, t.takePermit v.die d 2 = some q →
            exec e.1 s = .next { q with chans := sendOn q.chans ⟨2, v.die, d⟩ fun n =>
              ⟨n, p.key, (List.range e.2).map fun j => ⟨j, 3, byte j⟩, s.owedPlain⟩ }))
        ∧ (Writable t v p → (∀ d, p.home = .lpddr d → d = v.die ∨ t.cacheable v p = true) → v.posts = some 2 →
          s.slips.contains s.turn.agent = true →
          exec e.1 s = .next { t with queued := [⟨v.eng, v.core, p.key, e.2, (List.range e.2).map fun j => ⟨j, 3, byte j⟩,
            t.cacheable v p, s.owedPlain⟩] })
        ∧ (∀ o, p.obj = some o → (p.there = false ∨ t.extentParked v o (p.off / 2 ^ 21) = true) →
          let l := (s.core v.core).sidelog
          (256 ≤ l.length → exec e.1 s = .next (waiting s ⟨.extent, 0, x⟩))
          ∧ (l.length < 256 → ∃ w, exec e.1 s = .next w ∧ MemoryOnly s w ∧ (∀ b, w.getByte b = s.getByte b)
            ∧ (w.core v.core).sidelog = l ++ [⟨v.ctx, v.eng, o.idx, p.off / 2 ^ 21, x &&& ~~~127,
                (List.range e.2).map fun j => ⟨p.off % 128 + j, 3, byte j⟩, s.owedPlain, none, none, false, s.nextId, []⟩]))
        ∧ (∀ h, p.there = true → (∀ o, p.obj = some o → t.extentParked v o (p.off / 2 ^ 21) = false) →
          t.writeWait p = some h → exec e.1 s = .next (waiting s h)))
      ∧ ∀ c y, s.place v x ⟨e.2, e.2, false, true, false, 31⟩ = .trap c y → exec e.1 s = .next (trapped s c y))
  ∧ ∀ (a b : BitVec 5) (sc : BitVec 4) (s r : State) (p : Place) (t : State), s.memWf → Settled s →
    ∀ e ∈ [(Instr.strelW a b sc, 4), (.strelD a b sc, 8)],
      s.release sc.toNat = .ok () r → r.place s.view (s.reg a) ⟨e.2, e.2, false, true, false, 31⟩ = .ok p t → Plain p →
      Writable t s.view p →
      let byte := fun (j : Nat) => BitVec.ofNat 8 ((s.reg b).toNat / 256 ^ j)
      ((∀ d, p.home = .lpddr d → d = s.view.die ∨ s.view.posts = none) →
        ∃ w, exec e.1 s = .next w ∧ MemoryOnly s w ∧ SameBytes s w s.view.pair p.key e.2
          ∧ ∀ j < e.2, w.getByte (p.key + j) = byte j)
      ∧ ∀ d, p.home = .lpddr d → d ≠ s.view.die → s.view.posts = some 2 →
        let f := t.flushLine s.view p
        f.unackedOn ⟨3, s.view.die, d⟩ < 4096 → (∀ e ∈ (f.pair s.view.pair).cache, e.1 ≠ p.key / 128) →
        ∀ q, f.takePermit s.view.die d 3 = some q →
        exec e.1 s = .next { q with chans := sendOn q.chans ⟨3, s.view.die, d⟩ fun n =>
          ⟨n, p.key, (List.range e.2).map fun j => ⟨j, 3, byte j⟩, s.owedPlain⟩ }

/-- R238 to R240: an atomic puts its result at its address and the value that stood there, sign-extended, into its destination,
as one step at the home, between a release and an acquire at its scope. A compare-and-swap stores only where the old value is
the low bytes of its destination register. -/
def Obligations.AtomicResults : Prop :=
  ∀ (rd a b : BitVec 5) (sc : BitVec 4) (s r : State) (p : Place) (t : State), s.memWf → Settled s →
    s.release sc.toNat = .ok () r →
    let both := fun (i4 i8 : Instr) (f : Nat → Nat → Nat → Nat) =>
      ([(i4, 4, f 4), (i8, 8, f 8)] : List (Instr × Nat × (Nat → Nat → Nat)))
    (∀ e ∈ both (.amoSwapW rd a b sc) (.amoSwapD rd a b sc) (fun _ _ y => y)
        ++ both (.amoAddW rd a b sc) (.amoAddD rd a b sc) (fun _ m y => m + y)
        ++ both (.amoAndW rd a b sc) (.amoAndD rd a b sc) (fun _ m y => m &&& y)
        ++ both (.amoOrW rd a b sc) (.amoOrD rd a b sc) (fun _ m y => m ||| y)
        ++ both (.amoXorW rd a b sc) (.amoXorD rd a b sc) (fun _ m y => m ^^^ y)
        ++ both (.amoMinW rd a b sc) (.amoMinD rd a b sc) (fun n m y => if sg n m ≤ sg n y then m else y)
        ++ both (.amoMaxW rd a b sc) (.amoMaxD rd a b sc) (fun n m y => if sg n m ≤ sg n y then y else m)
        ++ both (.amoMinuW rd a b sc) (.amoMinuD rd a b sc) (fun _ m y => Min.min m y)
        ++ both (.amoMaxuW rd a b sc) (.amoMaxuD rd a b sc) (fun _ m y => Max.max m y),
      let n := e.2.1
      r.place s.view (s.reg a) ⟨n, n, true, true, false, 31⟩ = .ok p t → Plain p → t.readWait s.view p = none →
      Writable t s.view p → (t.sendNow s.view.die p.home 0).isSome = true → t.poisoned p.key n = false →
      let old := ofBytes ((t.flushLine s.view p).getBytes p.key n)
      let new := e.2.2 old ((s.reg b).toNat % 2 ^ (8 * n))
      ∃ w, exec e.1 s = .next ((w.setReg rd 1 (BitVec.ofInt 64 (sg n old))).acquire sc.toNat)
        ∧ MemoryOnly s w ∧ SameBytes s w s.view.pair p.key n
        ∧ ∀ j < n, w.getByte (p.key + j) = BitVec.ofNat 8 (new / 256 ^ j))
    ∧ ∀ e ∈ [(Instr.casW rd a b sc, 4), (.casD rd a b sc, 8)],
      let n := e.2
      r.place s.view (s.reg a) ⟨n, n, true, true, false, 31⟩ = .ok p t → Plain p → t.readWait s.view p = none →
      Writable t s.view p → (t.sendNow s.view.die p.home 0).isSome = true → t.poisoned p.key n = false →
      let old := ofBytes ((t.flushLine s.view p).getBytes p.key n)
      ∃ w, exec e.1 s = .next ((w.setReg rd 1 (BitVec.ofInt 64 (sg n old))).acquire sc.toNat)
        ∧ MemoryOnly s w ∧ SameBytes s w s.view.pair p.key n
        ∧ ∀ j < n, w.getByte (p.key + j)
          = if old = (s.reg rd).toNat % 2 ^ (8 * n) then BitVec.ofNat 8 ((s.reg b).toNat / 256 ^ j)
            else (t.flushLine s.view p).getByte (p.key + j)

/-- R242 to R247: what a release waits for, once its engine's queued stores are performed, and what it leaves, what an acquire drops, the three fences, QMARK, and BAR's
arrivals: an operand that is none of R246's traps RESOURCE, and so does an N other than the episode's; the last arrival
completes the episode and goes on, and any other holds before its next bundle. -/
def Obligations.FencesAndBarriers : Prop :=
  (∀ (sc : BitVec 4) (s : State), s.inFirmware = false → tsorted (s.pair s.myPair).cache = true →
    let q := s.performWhere fun x => x.owed.slot == s.me && x.eng == agentEng s.turn.agent
    let busy := q.releasePending s.me (agentEng s.turn.agent) sc.toNat
    (busy = true → exec (.fenceRel sc) s = .next (waiting s Hold.init)
      ∧ exec (.fence sc) s = .next (waiting s Hold.init))
    ∧ (busy = false → ∃ w, exec (.fenceRel sc) s = .next w ∧ w = { q with mem := w.mem, pairs := w.pairs, chans := w.chans }
      ∧ (sc.toNat ≤ 2 → w = q) ∧ (2 < sc.toNat → ∀ e ∈ (w.pair s.myPair).cache, s.me ∉ e.2.by_)
      ∧ (sc = 8 → 0 < (s.task s.me).wbusy → exec (.fence sc) s = .next (waiting s Hold.init))
      ∧ (sc ≠ 8 ∨ (s.task s.me).wbusy = 0 → exec (.fence sc) s = exec (.fenceAcq sc) w)))
  ∧ (∀ (sc : BitVec 4) (s : State), ∃ w, exec (.fenceAcq sc) s = .next w ∧ w = { s with pairs := w.pairs }
    ∧ (sc.toNat ≤ 2 → w = s) ∧ (2 < sc.toNat → ∀ e ∈ (w.pair s.myPair).cache, e.2.dirty ≠ 0)
    ∧ ∀ p, { w.pair p with cache := (s.pair p).cache } = s.pair p)
  ∧ (∀ s : State, ∃ w, exec .qmark s = .next w
    ∧ w = { s with mem := w.mem, chans := w.chans, queued := w.queued, pairs := w.pairs, poison := w.poison }
    ∧ (∀ c ∈ w.chans, c.carries s.view.slot = false) ∧ (∀ q ∈ w.queued, q.owed.slot ≠ s.view.slot)
    ∧ ∀ p, { w.pair p with cache := (s.pair p).cache } = s.pair p)
  ∧ ∀ (a : BitVec 5) (sc : BitVec 4) (s : State),
    let x := s.reg a
    let n := x.toNat % 2 ^ 24
    let ch := x.toNat / 2 ^ 32 % 16
    let b := s.barChan sc.toNat (barInstance sc.toNat s.myPair) s.view.ctx ch
    (s.inFirmware = true → exec (.bar a sc) s = .next (trapped s 0x01 s.turn.wordPc))
    ∧ (s.inFirmware = false →
      (n = 0 ∨ 2 ^ 36 ≤ x.toNat ∨ x.toNat / 2 ^ 24 % 2 ^ 8 ≠ 0 → exec (.bar a sc) s = .next (trapped s 0x13 x))
      ∧ (n ≠ 0 → x.toNat < 2 ^ 36 → x.toNat / 2 ^ 24 % 2 ^ 8 = 0 →
        (0 < b.arrived → b.n ≠ n → exec (.bar a sc) s = .next (trapped s 0x13 x))
        ∧ (b.arrived = 0 ∨ b.n = n → ∀ r, s.release sc.toNat = .ok () r →
          (n ≤ b.arrived + 1 → exec (.bar a sc) s
            = .next ((r.setBar { b with n := n, arrived := 0, episode := b.episode + 1 }).acquire sc.toNat))
          ∧ (b.arrived + 1 < n → exec (.bar a sc) s
            = .next ((r.setBar { b with n := n, arrived := b.arrived + 1 }).holdAfter
              ⟨.bar, ch + sc.toNat * 16, BitVec.ofNat 64 b.episode⟩)))))

/-- R249 to R252: the fields of a transaction barrier; TXARR's arrival, its overflow and the phase it may complete, at once where its
release has nothing to wait for and otherwise later, the slot going on; TXWAIT's wait, its result, and that it does not change
the barrier. -/
def Obligations.TransactionBarriers : Prop :=
  (∀ x : Nat, txBarOf x = ⟨x.testBit 127, x.testBit 126, x / 2 ^ 96 % 2 ^ 24, x / 2 ^ 64 % 2 ^ 24, x / 2 ^ 32 % 2 ^ 32,
    x / 2 ^ 16 % 2 ^ 16, x % 2 ^ 16⟩)
  ∧ (∀ (a b : BitVec 5) (g : BitVec 4) (s t : State) (p : Place), s.guard g = true → s.inFirmware = false → s.memWf →
    let at_ := s.reg a &&& ~~~1
    let n := (s.reg b).toNat
    s.place s.view at_ ⟨16, 16, true, true, false, 6⟩ = .ok p t → Settled s →
    (2 ^ 24 ≤ n → exec (.txarr a b g) s = .next (trapped s 0x13 (s.reg b)))
    ∧ (n < 2 ^ 24 → t.readWait s.view p = none → t.poisoned p.key 16 = false →
      let x := txBarOf (t.getNat p.key 16)
      (x.expa = 0 → exec (.txarr a b g) s = .next (trapped s 0x13 at_))
      ∧ (x.expa ≠ 0 → tsorted (s.pair s.view.pair).cache = true → (∀ e ∈ (s.pair s.view.pair).cache, e.1 ≠ p.key / 128) →
        ((∃ c ∈ t.chans, ∃ m ∈ c.unacked, m.owed.slot = s.me) → ∃ w y, exec (.txarr a b g) s = .next w
          ∧ w.arrivals = t.arrivals ++ [y] ∧ y.addr = at_ ∧ y.n = n ∧ y.owed = s.owedPlain
          ∧ w.getNat p.key 16 = t.getNat p.key 16)
        ∧ (t.releasePending s.me (agentEng s.turn.agent) 3 = false → ∃ w, exec (.txarr a b g) s = .next w ∧ MemoryOnly s w ∧ SameBytes s w s.view.pair p.key 16
          ∧ (x.arr ≤ x.expa → txBarOf (w.getNat p.key 16) =
            if x.arr = x.expa then { x with ovf := true }
            else
              let y := if 2 ^ 24 ≤ x.expb + n then { x with arr := x.arr + 1, ovf := true }
                else { x with arr := x.arr + 1, expb := x.expb + n }
              if y.arr = y.expa ∧ y.byt = y.expb
                then { y with ph := !y.ph, arr := 0, expb := 0, byt := y.nbyt, nbyt := 0 } else y)))))
  ∧ ∀ (rd a : BitVec 5) (g : BitVec 4) (s t : State) (p : Place), s.guard g = true → s.inFirmware = false →
    s.place s.view (s.reg a &&& ~~~1) ⟨16, 16, true, false, false, 6⟩ = .ok p t → t.readWait s.view p = none →
    t.poisoned p.key 16 = false → Settled s → p.obj = none →
    let ph := (txBarOf (t.getNat p.key 16)).ph
    let expa := (txBarOf (t.getNat p.key 16)).expa
    (ph = (s.reg a).getLsbD 0 ∨ expa = 0 → exec (.txwait rd a g) s = .next (waiting s ⟨.txwait, 0, s.reg a⟩))
    ∧ (ph ≠ (s.reg a).getLsbD 0 → expa ≠ 0 → exec (.txwait rd a g) s
      = .next ((t.setReg rd 1 (if ph then 1 else 0)).acquire 3))

/-! ## Transfers -/

/-- An engine word that goes on: its preamble passes, and the generations it captured are complete (01 R55, R56). -/
def Sys2Proof.Claims.Ready (s : State) (f : TokenFields) (p : Pre) (t : State) : Prop :=
  s.preamble f = .ok p t ∧ t.unmet p = none

/-- What a transfer word does from state `t` once its operands are read, at state `u`: with nothing to move it ends; ranges that
overlap trap RESOURCE; where every check of R254 passes, an absent source extent holds it, so does an earlier transfer over its
destination or a scoreboard without room, and otherwise the stream's earlier accesses are performed and the transfer is in
flight, its scoreboard entries taken and its destination lines empty, and the word ends. -/
def Sys2Proof.Claims.InFlight (o : Out) (t u : State) (p : Pre) (kind : XferKind) (dst src : Word) (len : Nat)
    (bar : Option Word) : Prop :=
  let runs := (runsOf kind dst src len).filter fun r => r.n != 0
  let v := u.view
  (runs = [] → o = .next (u.endWord p.prod))
  ∧ (runs ≠ [] → overlapping runs = true → o = .next (trapped t 0x13 dst))
  ∧ ∀ bp t1 sp t2 dp t3, runs ≠ [] → overlapping runs = false → u.barrierRef bar = .ok bp t1 →
    Res.collect runs t1 (fun r s => s.checkRange v r.src r.n ⟨1, 1, true, false, true, 31⟩) = .ok sp t2 →
    Res.collect runs t2 (fun r s => s.checkRange v r.dst r.n ⟨1, 1, false, true, true, 31⟩) = .ok dp t3 →
    (∀ q ∈ dp.flatten, Plain q) →
    (∀ q, sp.flatten.find? (fun q => !q.there) = some q → o = .next (waiting t ⟨.extent, 0, q.addr⟩))
    ∧ (∀ a, (∀ q ∈ sp.flatten, q.there = true) → t3.busyDest dp.flatten = some a →
      o = .next (waiting t ⟨.lineOrRange, 0, a⟩))
    ∧ ((∀ q ∈ sp.flatten, q.there = true) → t3.busyDest dp.flatten = none →
      (t3.scoreboardFull sp.flatten dp.flatten = true → o = .next (waiting t ⟨.lineOrRange, 0, dst⟩))
      ∧ (t3.scoreboardFull sp.flatten dp.flatten = false →
        let z := t3.afterStream.takeStore t3.nextId sp.flatten dp.flatten
        let x : Xfer := ⟨t3.nextId, v.ctx, v.slot, (u.task v.slot).lnum, kind, dst, src, len, bar.getD 0, u.owedWord p,
          z.epochsOf (sp.flatten ++ dp.flatten ++ bp.toList), [], false, 0⟩
        o = .next ({ z with xfers := u.xfers ++ [x], nextId := u.nextId + 1 }.endWord p.prod)))

/-- R253 to R266: what each transfer word of the sequencer moves and where it stands, the checks of its operands, and, once
those and R254's pass, the transfer in flight: COPY one run, COPYT and COPYR the rows of their map's box, GATH and SCAT one
row for each index, REDC one run combined element by element. -/
def Obligations.TransferWords : Prop :=
  (∀ (dst src : Word) (len row esz : Nat) (idx : List Int) (box : List Nat) (ss ds : List Int) (op fmt : Nat),
    (0 < len → runsOf .copy dst src len = [⟨dst, src, len⟩] ∧ runsOf (.reduce op fmt) dst src len = [⟨dst, src, len⟩])
    ∧ runsOf (.gather row idx) dst src len = ((List.range idx.length).zip idx).map (fun e => XRun.mk
        (BitVec.ofInt 64 (dst.toInt + e.1 * row)) (BitVec.ofInt 64 (src.toInt + e.2 * row)) row)
    ∧ runsOf (.scatter row idx) dst src len = ((List.range idx.length).zip idx).map (fun e => XRun.mk
        (BitVec.ofInt 64 (dst.toInt + e.2 * row)) (BitVec.ofInt 64 (src.toInt + e.1 * row)) row)
    ∧ runsOf (.tensor esz box ss ds) dst src len = (boxRows box).map (fun i =>
        let at_ := fun (a : Word) (st : List Int) =>
          BitVec.ofInt 64 (a.toInt + st.getD 0 0 * i.1 + st.getD 1 0 * i.2.1 + st.getD 2 0 * i.2.2)
        XRun.mk (at_ dst ds) (at_ src ss) (esz * box.getD 0 1)))
  ∧ ∀ (w : TWord) (s : State) (p : Pre) (t : State), Ready s w.tok p t →
    let x := fun (hi lo : Nat) => t.reg (BitVec.ofNat 5 (w.bits hi lo))
    let dst := t.reg w.a
    let src := t.reg w.b
    let bar := if w.bits 10 6 = 0 then none else some (x 10 6)
    let n := x 15 11
    let fmt := w.bits 5 2
    let size := if fmt = 1 then 2 else 4
    let start := x 5 1
    let row := n.toNat % 2 ^ 32
    let c := n.toNat / 2 ^ 32
    (2 ^ 32 ≤ n.toNat → ∀ i ∈ [Instr.copy w, .redc w], exec i s = .next (trapped t 0x01 n))
    ∧ (n.toNat < 2 ^ 32 → InFlight (exec (.copy w) s) t t p .copy dst src n.toNat bar)
    ∧ (n.toNat < 2 ^ 32 → fmt = 0 ∨ fmt = 1 ∨ fmt = 0xB →
      (dst.toNat % size ≠ 0 → exec (.redc w) s = .next (trapped t 0x09 dst))
      ∧ (dst.toNat % size = 0 → src.toNat % size = 0 → n.toNat % size = 0 →
        InFlight (exec (.redc w) s) t t p (.reduce (w.bits 1 0) fmt) dst src n.toNat bar))
    ∧ (∀ m u, t.readMap false n = .ok m u →
      InFlight (exec (.copyt w) s) t u p (.tensor m.esz m.box m.ss m.ds) dst src (m.esz * m.box.foldl (· * ·) 1) bar)
    ∧ (∀ m u, t.readMap true n = .ok m u →
      let base := if m.srcRing then src else dst
      (base.toNat % 128 ≠ 0 → exec (.copyr w) s = .next (trapped t 0x01 base))
      ∧ (base.toNat % 128 = 0 → m.rsize ≤ start.toNat → exec (.copyr w) s = .next (trapped t 0x01 start))
      ∧ (base.toNat % 128 = 0 → start.toNat < m.rsize →
        InFlight (exec (.copyr w) s) t u p (.ring m.esz m.box m.ss m.ds m.srcRing m.rsize start.toNat) dst src
          (m.esz * m.box.foldl (· * ·) 1) bar))
    ∧ (row = 0 ∨ 2 ^ 24 < c ∨ 2 ^ 32 ≤ c * row → ∀ i ∈ [Instr.gath w, .scat w], exec i s = .next (trapped t 0x01 n))
    ∧ (row ≠ 0 → c ≤ 2 ^ 24 → c * row < 2 ^ 32 → ∀ idx u, t.readIndices start c = .ok idx u →
      InFlight (exec (.gath w) s) t u p (.gather row idx) dst src (c * row) bar
      ∧ InFlight (exec (.scat w) s) t u p (.scatter row idx) dst src (c * row) bar)

/-- R265 to R267 and R147: RATOM, once its address passes its checks and its release is performed, sends its operation to the
home with its line taken as any transfer's, and ends; BPREF of a global range is in flight to the home dies' caches, and traps BAD_WINDOW for any other window; WPROG
captures its 64 bytes for the die of the row and counts as outstanding; XEND ends the block at its word. And the landing of
what is in flight (R255 to R258): a piece of a transfer copies its bytes and no others; a transfer whose pieces have all
landed goes, with its entries in the scoreboards; a remote atomic's answer puts its result at the home and the old value in
its return register; a piece for the store of an absent owner goes into that owner's log. -/
def Obligations.RemoteWordsAndLandings : Prop :=
  (∀ (w : TWord) (s : State) (p : Pre) (t : State), Ready s w.tok p t →
    let a := t.reg w.a
    let b := t.reg w.b
    let n := if w.bits 6 6 = 1 then 8 else 4
    (∀ q u r, t.place t.view a ⟨n, n, true, true, true, 31⟩ = .ok q u → u.readWait u.view q = none →
      u.busyDest [q] = none → u.poisoned q.key n = false → u.scoreboardFull [] [q] = false → Plain q →
      u.afterStream.release (w.bits 5 2) = .ok () r →
      let ep := match q.home with | .store x _ => (r.pair x).epoch | _ => 0
      let y : Request := ⟨r.nextId, r.view.ctx, r.me, w.bits 10 7, decide (n = 8), a, b, w.bits 15 11, ep, r.owedWord p⟩
      let z := r.takeStore r.nextId [] [q]
      exec (.ratom w) s = .next ({ z with requests := r.requests ++ [y], nextId := r.nextId + 1 }.endWord p.prod))
    ∧ (∀ h off, windowOf a = some (.glob h off) → b.toNat < 2 ^ 32 →
      (b = 0 → exec (.bpref w) s = .next (t.endWord p.prod))
      ∧ (b ≠ 0 → ∀ l y, w.bits 10 6 = 0 →
        t.checkRange t.view a b.toNat ⟨1, 1, true, false, true, 16⟩ = .ok l y →
        let z := y.afterStream
        let x : Xfer := ⟨z.nextId, z.view.ctx, z.me, (z.task z.me).lnum, .prefetch, a, a, b.toNat, 0, z.owedWord p, [], [],
          false, 0⟩
        exec (.bpref w) s = .next ({ z with xfers := z.xfers ++ [x], nextId := z.nextId + 1 }.endWord p.prod)))
    ∧ ((∀ h off, windowOf a ≠ some (.glob h off)) → exec (.bpref w) s = .next (trapped t 0x03 a))
    ∧ (∀ id off q u d z data y, windowOf a = some (.weight id off) → a.toNat % 64 = 0 →
      t.place t.view b ⟨64, 64, true, false, true, 23⟩ = .ok q u → u.place u.view a ⟨64, 64, true, false, true, 8⟩ = .ok d z →
      z.readPlace z.view q = .ok data y →
      let home := (y.wobj id).home / 16
      let f := y.setDie home
        { y.die home with wq := (y.die home).wq ++ [⟨y.view.ctx, id, off / 64, data, y.owedWord p, false, y.nextId⟩] }
      let g := f.setTask f.me { f.task f.me with wbusy := (f.task f.me).wbusy + 1 }
      exec (.wprog w) s = .next ({ g with nextId := y.nextId + 1 }.endWord p.prod)))
  ∧ (∀ (k : Nat) (s : State) (r : Running), s.turn.agent = .transfer k → (s.task k).xfer.cur = some r → r.blk.prod = none →
    (s.task k).prods = [] →
    ∃ u, exec .xend s = .next u ∧ u = { s with tasks := u.tasks }
      ∧ u.task k = { s.task k with xfer := { (s.task k).xfer with cur := none, pc := r.pc } } ∧ ∀ j, j ≠ k → u.task j = s.task j)
  ∧ (∀ s : State, s.inTransferStream = false → exec .xend s = .next (trapped s 0x01 s.turn.wordPc))
  ∧ (∀ (id i : Nat) (s : State) (x : Xfer) (r : XRun), s.xfers.find? (fun x => x.id == id) = some x →
    x.pieces[i]? = some r → x.failed = false → tget false x.landed i = false → x.kind.isReduce = false → x.kind ≠ .prefetch →
    x.bar = 0 → x.overtaken i r = false →
    let v := s.issuerView x.ctx x.slot x.lnum
    let marked := s.xfers.map fun y => if y.id = x.id then { x with landed := tput x.landed i true } else y
    (s.memWf → Settled s → (∀ a, s.divertedAt x v.pair a = none) → 0 < r.n → r.src.toNat % 128 + r.n ≤ 128 →
      ∀ sp t dp u, s.place v r.src ⟨r.n, 1, true, false, true, 31⟩ = .ok sp t → t.readWait v sp = none →
      t.poisoned sp.key r.n = false → Plain sp →
      (t.flushLine v sp).place v r.dst ⟨r.n, 1, false, true, true, 31⟩ = .ok dp u → dp.there = true → Plain dp →
      (∀ o, dp.obj = some o → u.extentParked v o (dp.off / 2 ^ 21) = false) →
      ∃ w, exec (.transferLanding id i) s = .next w ∧ w.xfers = marked ∧ SameBytes s w v.pair dp.key r.n
        ∧ (∀ j < r.n, w.getByte (dp.key + j) = (t.flushLine v sp).getByte (sp.key + j)) ∧ w.tasks = s.tasks)
    ∧ (∀ data t c q off sec, s.landRead x v r.src r.n = .ok (data, false) t →
      (s.divertedAt x v.pair r.dst).isSome = true → t.divertedAt x v.pair r.dst = some (c, q, off) →
      t.section c q = some sec → sec.log.length < 26214 →
      ∃ w sec', exec (.divertedRequest id i) s = .next w ∧ w.xfers = marked ∧ w.section c q = some sec'
        ∧ sec'.log = sec.log ++ [⟨off / 128 * 128,
            (List.range data.length).map fun j => ⟨j + off - off / 128 * 128, 3, data.getD j 0⟩, x.slot⟩]))
  ∧ (∀ (id : Nat) (s : State) (x : Xfer), s.xfers.find? (fun x => x.id == id) = some x → x.done = true →
    x.kind ≠ .prefetch ∨ x.bar = 0 →
    ∃ w, exec (.transferRetire id) s = .next w ∧ w.xfers = s.xfers.filter (fun y => y.id != id)
      ∧ (∀ p e, e ∈ (w.pair p).sb → e ∈ (s.pair p).sb ∧ e.id ≠ id) ∧ w.mem = s.mem
      ∧ (s.bound x.slot = true → (s.task x.slot).ctx = x.ctx → (s.task x.slot).lnum = x.lnum →
        (w.task x.slot).hart = { (s.task x.slot).hart with flags := (s.task x.slot).hart.flags ||| x.flags }))
  ∧ ∀ (id : Nat) (s : State) (r : Request), s.requests.find? (fun r => r.id == id) = some r → s.memWf →
    s.bound r.slot = true → (s.task r.slot).ctx = r.ctx → (s.task r.slot).lnum = r.owed.lnum → r.op ≤ 8 → tsorted (s.task r.slot).xrf.vals = true →
    let n := if r.wide then 8 else 4
    let v := s.issuerView r.ctx r.slot r.owed.lnum
    (∀ p off, storeOf v.pair r.addr = some (p, off) → s.diversion p r.epoch = none) →
    ∀ q t, s.place v r.addr ⟨n, n, true, true, true, 31⟩ = .ok q t →
      (∃ x off, q.home = .store x off) ∨ t.atomicWait v q = none →
      t.poisoned q.key n = false → Plain q →
      let old := ofBytes ((t.flushLine v q).getBytes q.key n)
      let y := r.val.toNat % 2 ^ (8 * n)
      let new := match r.op with
        | 0 => y | 1 => old + y | 2 => old &&& y | 3 => old ||| y | 4 => old ^^^ y
        | 5 => if sg n old ≤ sg n y then old else y
        | 6 => if sg n old ≤ sg n y then y else old
        | 7 => Min.min old y | _ => Max.max old y
      ∃ w, exec (.accessResponse id) s = .next w ∧ w.requests = s.requests.filter (fun q => q.id != id)
        ∧ SameBytes s w v.pair q.key n ∧ (∀ j < n, w.getByte (q.key + j) = BitVec.ofNat 8 (new / 256 ^ j))
        ∧ ∀ m : Nat, (w.task r.slot).xrf.settle.read m
          = if m = r.ret ∧ m ≠ 0 then BitVec.ofInt 64 (sg n old) else (s.task r.slot).xrf.settle.read m

/-! ## Vector words -/

/-- A vector word that goes on at state `t` and may name these registers: its preamble passes, no bank of theirs is lent or
another task's, no stale read is asked for, and no register it reads is uncorrectable (03 R110, 05 R171, 12 R347). -/
structure Sys2Proof.Claims.VecOpen (s : State) (w : VWord) (p : Pre) (t : State) (regs : List Nat) : Prop where
  ready : Ready s w.tok p t
  fresh : t.blk.scb = false
  clean : t.regPoison = [] ∧ t.blk.bad = []
  mine : ∀ n ∈ regs, (t.task t.me).lentSrc ≠ some (n / 8) ∧ (t.task t.me).lentTgt ≠ some (n / 8) ∧ n / 8 < (t.task t.me).banks

/-- Lane `i` of a source that is a register with its rotation, or a scalar converted to the format (03 R95, 05 R163). -/
def Sys2Proof.Claims.laneVal (t : State) (f : Nat) (d : BitVec 18) (i : Nat) : Nat :=
  if dKind d = 3 then (convertNum f t.rmode false (numOfInt (t.scalarOf d).toInt)).1 % 2 ^ fmtWidth f
  else laneAt (fmtWidth f) (((i : Int) + dSigned d) % (lanesOf f : Int)).toNat (tget 0 (t.task t.me).v (dReg d))

/-- The flags of that conversion. -/
def Sys2Proof.Claims.laneFlags (t : State) (f : Nat) (d : BitVec 18) : Flags :=
  if dKind d = 3 then (convertNum f t.rmode false (numOfInt (t.scalarOf d).toInt)).2 else 0

/-- `r` writes exactly the lanes that `on` selects of the first `n`, each with the low bits of `g`. -/
def Sys2Proof.Claims.LanesAre (r : Lanes) (w n : Nat) (on : Nat → Bool) (g : Nat → Nat) : Prop :=
  ∀ i < n, (on i = true → laneAt w i r.mask = 2 ^ w - 1 ∧ laneAt w i r.val = g i % 2 ^ w) ∧ (on i = false → laneAt w i r.mask = 0)

/-- The flags of the lanes that a word computes. -/
def Sys2Proof.Claims.flagsOf (on : List Nat) (g : Nat → Flags) : Flags := on.foldl (fun f i => f ||| g i) 0

/-- How a vector word ends when its destination is a register. -/
def Sys2Proof.Claims.intoReg (t : State) (w : VWord) (p : Pre) (lat : Nat) (r : Lanes) (fl : Flags) : State :=
  ((t.putVec (dReg w.d) lat r).raiseTaskFlags t.me fl).endWord p.prod

/-- The lane-by-lane words with the number of their sources, their latency, and what a lane becomes. -/
def Sys2Proof.Claims.laneWords (w : VWord) (rm : BitVec 2) : List (Instr × Nat × Nat × (Nat → Nat → Nat → Nat × Flags)) :=
  let f := w.f
  let n := w.width
  let fn := fun (k : SpecialFn) (x _ _ : Nat) => match fltOf f with | some l => specialLane k l rm x | none => (x, (0 : Flags))
  [(.vadd w, 2, 2, fun x y _ => laneAdd f rm x y), (.vsub w, 2, 2, fun x y _ => laneSub f rm x y),
    (.vmul w, 2, 4, fun x y _ => laneMul f rm x y), (.vfma w, 3, 4, fun x y d => laneFma false f rm x y d),
    (.vfms w, 3, 4, fun x y d => laneFma true f rm x y d), (.vmin w, 2, 2, fun x y _ => (laneMax false f x y, 0)),
    (.vmax w, 2, 2, fun x y _ => (laneMax true f x y, 0)), (.vabs w, 1, 2, fun x _ _ => (laneSign true f x, 0)),
    (.vneg w, 1, 2, fun x _ _ => (laneSign false f x, 0)), (.vrcp w, 1, 8, fn .rcp), (.vrsq w, 1, 8, fn .rsq),
    (.vexp2 w, 1, 8, fn .exp2), (.vlog2 w, 1, 8, fn .log2), (.vtanh w, 1, 8, fn .tanh),
    (.vmov w, 1, 2, fun x _ _ => (x, 0)), (.vand w, 2, 2, fun x y _ => (x &&& y, 0)), (.vor w, 2, 2, fun x y _ => (x ||| y, 0)),
    (.vxor w, 2, 2, fun x y _ => (x ^^^ y, 0)), (.vshl w, 2, 2, fun x y _ => (if y < n then x * 2 ^ y else 0, 0)),
    (.vshr w, 2, 2, fun x y _ => (if y < n then x / 2 ^ y else 0, 0)),
    (.vsra w, 2, 2, fun x y _ => (((BitVec.ofNat n x).toInt / 2 ^ (Min.min y n) % 2 ^ n).toNat, 0))]

/-- R172 to R178 and R182 to R184, with R158 to R167's operand forms: what a lane becomes on integer formats; the enabled
lanes of a register destination, their latency and their flags, with register and scalar sources; A in memory; A from the
stairwell; D in memory, which leaves every byte but its elements' alone; D to the stairwell. -/
def Obligations.VectorLaneWords : Prop :=
  (∀ (f : Nat) (rm : BitVec 2) (x y d : Nat), fltOf f = none →
    let m := fmtWidth f
    laneAdd f rm x y = ((x + y) % 2 ^ m, 0) ∧ laneSub f rm x y = ((((x : Int) - y) % 2 ^ m).toNat, 0)
    ∧ laneMul f rm x y = (x * y % 2 ^ m, 0) ∧ laneFma false f rm x y d = ((x * y + d) % 2 ^ m, 0)
    ∧ laneFma true f rm x y d = ((((d : Int) - x * y) % 2 ^ m).toNat, 0)
    ∧ (f ≠ 7 → x < 2 ^ m → y < 2 ^ m →
      let i := fun (z : Nat) => (BitVec.ofNat m z).toInt
      i (laneMax true f x y) = Max.max (i x) (i y) ∧ i (laneMax false f x y) = Min.min (i x) (i y)
      ∧ laneSign true f x = (i x).natAbs % 2 ^ m ∧ laneSign false f x = (-(i x) % 2 ^ m).toNat)
    ∧ laneMax true 7 x y = Max.max x y ∧ laneMax false 7 x y = Min.min x y ∧ laneSign true 7 x = x)
  ∧ ∀ (w : VWord) (s : State) (p : Pre) (t : State), ∀ e ∈ laneWords w t.rmode,
    let f := w.f
    let on := t.lanesOn w (lanesOf f)
    let src := fun (k : Nat) => match k with | 0 => w.a | 1 => w.b | _ => w.d
    let reg := fun (k : Nat) => dKind (src k) = 0 ∨ dKind (src k) = 3
    let val := fun (k i : Nat) => laneVal t f (src k) i
    let fls := fun (k : Nat) => if k < e.2.1 then laneFlags t f (src k) else 0
    let regs := ((List.range e.2.1).filter fun k => dKind (src k) == 0).map fun k => dReg (src k)
    (dKind w.d = 0 → VecOpen s w p t (dReg w.d :: regs) → (∀ k < e.2.1, reg k) →
      let g := fun i => e.2.2.2 (val 0 i) (val 1 i) (val 2 i)
      ∃ r, exec e.1 s = .next (intoReg t w p e.2.2.1 r (flagsOf on (fun i => (g i).2) ||| fls 0 ||| fls 1 ||| fls 2))
        ∧ LanesAre r (fmtWidth f) (lanesOf f) (t.laneOn w) fun i => (g i).1)
    ∧ (dKind w.d = 0 → dKind w.a = 1 → VecOpen s w p t (dReg w.d :: regs) → (∀ k < e.2.1, k = 0 ∨ reg k) →
      ∀ l u v z, t.placeElems w.a f (lanesOf f) on none true false = .ok l u → u.readElems f l = .ok v z →
      let g := fun i => e.2.2.2 (laneAt (fmtWidth f) i v) (val 1 i) (val 2 i)
      ∃ r, exec e.1 s = .next (intoReg z w p 1 r (flagsOf on (fun i => (g i).2) ||| fls 1 ||| fls 2))
        ∧ LanesAre r (fmtWidth f) (lanesOf f) (t.laneOn w) fun i => (g i).1)
    ∧ (dKind w.d = 0 → dKind w.a = 2 → VecOpen s w p t (dReg w.d :: regs) → (∀ k < e.2.1, k = 0 ∨ reg k) →
      ∀ v rest, t.stairCheck true = .ok () t → t.inbound t.myCore = v :: rest →
      let g := fun i => e.2.2.2 (laneAt (fmtWidth f) i v) (val 1 i) (val 2 i)
      ∃ r, exec e.1 s = .next (intoReg (t.setInbound rest) w p 1 r (flagsOf on (fun i => (g i).2) ||| fls 1 ||| fls 2))
        ∧ LanesAre r (fmtWidth f) (lanesOf f) (t.laneOn w) fun i => (g i).1)
    ∧ (e.2.1 < 3 → dKind w.d = 1 → VecOpen s w p t regs → (∀ k < e.2.1, reg k) →
      ∀ l u, t.placeElems w.d f (lanesOf f) on none false true = .ok l u →
      let g := fun i => e.2.2.2 (val 0 i) (val 1 i) 0
      ∃ r, LanesAre r (fmtWidth f) (lanesOf f) (t.laneOn w) (fun i => (g i).1)
        ∧ ∀ z, u.storeAll u.view (u.owedWord p) (elemStores f r l) = .ok () z →
          exec e.1 s = .next ((z.raiseTaskFlags t.me (flagsOf on (fun i => (g i).2) ||| fls 0 ||| fls 1)).endWord p.prod)
          ∧ (Settled t → (∀ x ∈ l, Plain x.2.2) → ∀ a, (∀ x ∈ l, a < x.2.2.key ∨ x.2.2.key + x.2.2.n ≤ a) →
            (∀ c ∈ (t.pair t.view.pair).cache, c.1 = a / 128 → c.2.dirty = 0) → z.getByte a = t.getByte a))
    ∧ (e.2.1 < 3 → dKind w.d = 2 → VecOpen s w p t regs → (∀ k < e.2.1, reg k) → t.stairCheck false = .ok () t →
      let g := fun i => e.2.2.2 (val 0 i) (val 1 i) 0
      ∃ v, exec e.1 s = .next (((t.setOutbound (t.outbound t.myCore ++ [v])).raiseTaskFlags t.me
            (flagsOf on (fun i => (g i).2) ||| fls 0 ||| fls 1)).endWord p.prod)
        ∧ ∀ i < lanesOf f, laneAt (fmtWidth f) i v = if t.laneOn w i then (g i).1 % 2 ^ fmtWidth f else 0)

/-- R179 to R181, R185 to R196 and R199 to R200: compares and masks into predicates, selection, broadcast, permutation,
indices, extraction and insertion, conversion, block scaling, reductions, scans, gather, scatter, the vector marker and the
count of a stairwell. Register forms, with B a register or scalar where the word takes one; gather and scatter at their
elements' addresses. VSYNC performs the engine's earlier stores and goes on; its production also waits for those that are parked. -/
def Obligations.VectorOtherWords : Prop :=
  ∀ (w : VWord) (s : State) (p : Pre) (t : State),
    let f := w.f
    let n := lanesOf f
    let m := fmtWidth f
    let on := t.lanesOn w n
    let a := fun i => laneVal t f w.a i
    let b := fun i => laneVal t f w.b i
    let rd := dReg w.d
    let fa := laneFlags t f w.a
    let fb := laneFlags t f w.b
    let reg := fun (d : BitVec 18) => dKind d = 0 ∨ dKind d = 3
    let regs := fun (l : List (BitVec 18)) => (l.filter fun d => dKind d == 0).map dReg
    let sa := (t.scalarOf w.a).toInt
    let sb := (t.scalarOf w.b).toInt
    let lane := (t.scalarOf w.b).toNat % n
    let num := fun (x : Nat) => (elemValue f x).1
    let intoPred := fun (lat : Nat) (r : Lanes) (fl : Flags) => ((t.putVPred rd lat r).raiseTaskFlags t.me fl).endWord p.prod
    let pred := fun (i : Instr) (lat : Nat) (fl : Flags) (g : Nat → Bool) => ∃ r, exec i s = .next (intoPred lat r fl)
      ∧ LanesAre r 1 1024 (fun i => t.laneOn w i || decide (n ≤ i)) fun i => if i < n ∧ g i = true then 1 else 0
    let vec := fun (i : Instr) (lat : Nat) (fl : Flags) (sel : Nat → Bool) (g : Nat → Nat × Flags) =>
      ∃ r, exec i s = .next (intoReg t w p lat r (flagsOf ((List.range n).filter sel) (fun i => (g i).2) ||| fl))
        ∧ LanesAre r m n sel fun i => (g i).1
    let every := fun (_ : Nat) => true
    (reg w.a → reg w.b → VecOpen s w p t (regs [w.a, w.b]) →
      pred (.vcmpEq w) 2 (fa ||| fb) (fun i => eqNum (num (a i)) (num (b i)))
      ∧ pred (.vcmpNe w) 2 (fa ||| fb) (fun i => !eqNum (num (a i)) (num (b i)))
      ∧ pred (.vcmpLt w) 2 (fa ||| fb) (fun i => ltNum (num (a i)) (num (b i)))
      ∧ pred (.vcmpGe w) 2 (fa ||| fb) (fun i => !isNan (num (a i)) && !isNan (num (b i)) && !ltNum (num (a i)) (num (b i))))
    ∧ (VecOpen s w p t [] → pred (.vmaskw w) 3 0 fun i => decide (0 ≤ sa + i) && decide (sa + i < sb))
    ∧ (reg w.a → reg w.b → dKind w.d = 0 → VecOpen s w p t (rd :: regs [w.a, w.b]) →
      vec (.vsel w) 2 (fa ||| fb) every (fun i => (if t.laneOn w i then a i else b i, 0))
      ∧ vec (.vperm w) 3 (fa ||| fb) (t.laneOn w) fun i => (a (b i % n), 0))
    ∧ (reg w.a → dKind w.d = 0 → VecOpen s w p t (rd :: regs [w.a]) →
      vec (.vbcast w) 3 fa (t.laneOn w) (fun _ => (a lane, 0))
      ∧ (dLow w.b = 0 ∨ dLow w.b = 1 →
        let step := fun (x y : Nat) => if dLow w.b = 1 then (laneMax true f x y, (0 : Flags)) else laneAdd f t.rmode x y
        let x := fun i => if t.laneOn w i then canonLane f (a i) else scanIdentity f (dLow w.b == 1)
        ∃ y : Nat → Nat × Flags, y 0 = (x 0, 0) ∧ (∀ i, i + 1 < n → y (i + 1) = step (y i).1 (x (i + 1)))
          ∧ vec (.vscan w) 8 fa every y))
    ∧ (dKind w.d = 0 → VecOpen s w p t [rd] →
      vec (.viota w) 3 0 (t.laneOn w) (fun i => match fltOf f with
        | some l => roundNum l t.rmode false (numOfInt (sa + i * sb))
        | none => (((sa + i * sb) % 2 ^ m).toNat, 0))
      ∧ vec (.vins w) 3 0 (fun i => decide (i = lane) && t.laneOn w i) fun _ => ((t.scalarOf w.a).toNat, 0))
    ∧ (dKind w.a = 0 → VecOpen s { w with mask := 15 } p t [dReg w.a] →
      exec (.vext w) s = .next (((t.putScalar rd (if inSInt f then BitVec.ofInt 64 (BitVec.ofNat m (a lane)).toInt
        else BitVec.ofNat 64 (a lane))).raiseTaskFlags t.me 0).endWord p.prod))
    ∧ (VecOpen s { w with mask := 15 } p t [] →
      exec (.vfcnt w) s = .next (((t.putScalar rd (BitVec.ofNat 64 (stairCode (t.pair t.myPair).stair * 256
        + if dLow w.a = 0 then (t.inbound t.myCore).length else 32 - (t.outbound t.myCore).length))).raiseTaskFlags t.me
          0).endWord p.prod))
    ∧ (dKind w.a = 0 → dKind w.d = 0 → VecOpen s w p t [dReg w.a, rd] →
      let g := vcvtSrc w
      let e := Min.min (lanesOf g) n
      let k := vcvtPart w * e
      (if lanesOf g < n then k + e ≤ n else k + e ≤ lanesOf g) →
      let src := fun i => laneVal t g w.a (if n < lanesOf g then k + i else i)
      let out := fun i => convertLane g f t.rmode (vcvtSat w) (src i)
      let low := if lanesOf g < n then k else 0
      ∃ r, exec (.vcvt w) s = .next (intoReg t w p 4 r (flagsOf (t.lanesOn w e) fun i => (out i).2))
        ∧ LanesAre r m n (fun i => decide (low ≤ i) && decide (i < low + e) && t.laneOn w (i - low)) fun i => (out (i - low)).1)
    ∧ (dKind w.a = 0 → dKind w.d = 0 → VecOpen s w p t [dReg w.a, dReg w.b, rd] →
      let g := vqPlain w
      let e := lanesOf g
      let k := vqPart w * e
      k + e ≤ n →
      let block := fun q => (List.range 32).map fun i => (elemValue g (laneVal t g w.a (32 * q + i))).1
      let sc := fun q => blockScale f (block q)
      let el := fun i => if (sc (i / 32)).2 then (0, (1 : Flags))
        else quantElem f t.rmode (sc (i / 32)).1 (elemValue g (laneVal t g w.a i)).1
      let inside := fun i => decide (k ≤ i) && decide (i < k + e)
      (∃ r q, exec (.vquant w) s
          = .next ((((t.putVec rd 4 r).putVec (dReg w.b) 4 q).raiseTaskFlags t.me (flagsOf (List.range e) fun i => (el i).2)).endWord
              p.prod)
        ∧ LanesAre r m n inside (fun i => (el (i - k)).1)
        ∧ LanesAre q 8 512 (fun i => decide (k / 32 ≤ i) && decide (i < (k + e) / 32)) fun i => (sc (i - k / 32)).1)
      ∧ (∃ r, exec (.vdequant w) s = .next (intoReg t w p 4 r (flagsOf (t.lanesOn w e) fun i =>
            let x := laneAt 8 ((k + i) / 32) (tget 0 (t.task t.me).v (dReg w.b))
            (convertNum g t.rmode false (if x = 0xFF then .nan else scaleNum (num (a (k + i))) ((x : Int) - 127))).2))
        ∧ LanesAre r (fmtWidth g) e (t.laneOn w) fun i =>
            let x := laneAt 8 ((k + i) / 32) (tget 0 (t.task t.me).v (dReg w.b))
            (convertNum g t.rmode false (if x = 0xFF then .nan else scaleNum (num (a (k + i))) ((x : Int) - 127))).1))
    ∧ (dKind w.a = 0 → VecOpen s w p t (dReg w.a :: regs [w.d]) →
      let v := t.regLanes w.a f
      let sum := vsumOf w t v
      let top := vmaxOf w t v
      (fltOf f = none → sum = ((on.foldl (fun x i => x + intLane f (a i)) 0 % 2 ^ 32).toNat, 0))
      ∧ (dKind w.d = 0 →
        exec (.vsum w) s = .next (intoReg t w p 6 ⟨BitVec.allOnes 4096, BitVec.ofNat 4096 (sum.1 % 2 ^ 32), sum.2⟩ sum.2)
        ∧ exec (.vmaxr w) s = .next (intoReg t w p 6 ⟨BitVec.allOnes 4096, BitVec.ofNat 4096 (top % 2 ^ m), 0⟩ 0))
      ∧ (dKind w.d = 3 →
        exec (.vsum w) s = .next (((t.putScalar rd (BitVec.ofNat 64 (sum.1 % 2 ^ 32))).raiseTaskFlags t.me sum.2).endWord p.prod)
        ∧ exec (.vmaxr w) s = .next (((t.putScalar rd (BitVec.ofNat 64 (top % 2 ^ m))).raiseTaskFlags t.me 0).endWord p.prod)))
    ∧ (dKind w.b = 0 → dKind w.a = 1 → dKind w.d = 0 → VecOpen s w p t [dReg w.b, rd] →
      ∀ l u v z, t.placeElems w.a f 128 (t.lanesOn w 128) (some (t.regLanes w.b 11)) true false = .ok l u →
      u.readElems f l = .ok v z →
      ∃ r, exec (.vgath w) s = .next (intoReg z w p 1 r 0)
        ∧ LanesAre r m n (fun i => decide (i < 128) && t.laneOn w i) fun i => laneAt m i v)
    ∧ (dKind w.b = 0 → dKind w.a = 0 → dKind w.d = 1 → VecOpen s w p t [dReg w.a, dReg w.b] →
      ∀ l u, t.placeElems w.d f 128 (t.lanesOn w 128) (some (t.regLanes w.b 11)) false true = .ok l u →
      ∃ r, LanesAre r m n (fun i => decide (i < 128) && t.laneOn w i) (fun i => a i)
        ∧ ∀ z, u.storeAll u.view (u.owedWord p) (elemStores f r l) = .ok () z →
          exec (.vscat w) s = .next ((z.raiseTaskFlags t.me 0).endWord p.prod))
    ∧ (Ready s w.tok p t → exec (.vsync w) s = .next (((t.drain t.me none).markParked 1 p.prod).endWord p.prod))

/-! ## Matrix words -/

/-- A matrix word that goes on at state `t`: its preamble passes, its guard holds and is not uncorrectable, no handler runs it
without the reserve, and no weights are due for a reload (06 R210, R214, R229). -/
structure Sys2Proof.Claims.MatOpen (s : State) (w : MWord) (p : Pre) (t : State) : Prop where
  ready : Ready s w.tok p t
  clean : t.regPoison = []
  guard : t.guard w.guard = true
  hres : (t.task t.me).hart.inhdl = true → (t.task t.me).hart.hres = true
  loaded : t.myMat.reload = false ∨ t.myMat.latched = none
  whole : t.firstRow = 0 ∧ ∀ r, t.running = some r → r.kb = none

/-- R214's rows: below the task's own count, and below 960 where the handler has its reserve; for a handler's word, the
reserve. -/
def Sys2Proof.Claims.RowsOpen (t : State) (w : MWord) : Prop :=
  (t.blk.handler = true ∧ 960 ≤ w.start.toNat)
  ∨ (t.blk.handler = false ∧ w.start.toNat + w.rows.toNat + 1 ≤ (t.task t.me).accr
    ∧ ((t.task t.me).hart.hres = true → w.start.toNat + w.rows.toNat + 1 ≤ 960))

/-- How a matrix word that wrote accumulator rows ends: at state `z`, which its operands' reads left, the rows from `start` on
are `row`, every other row and the rest of the engine's state but its count of beats are as they were, and the flags are
added. -/
def Sys2Proof.Claims.RowsWritten (o : Out) (z : State) (w : MWord) (p : Pre) (row : Nat → AccRow) (fl : Flags) : Prop :=
  ∃ m : Matrix, o = .next (((z.setMyMat m).raiseTaskFlags z.me fl).endWord p.prod)
    ∧ (∀ i ≤ w.rows.toNat, m.row (w.start.toNat + i) = row i)
    ∧ (∀ i, i < w.start.toNat ∨ w.start.toNat + w.rows.toNat < i → m.row i = z.myMat.row i)
    ∧ { m with acc := z.myMat.acc, beats := z.myMat.beats } = z.myMat

/-- R215 to R224: what each matrix word does once its operands are read: WLD latches its tile; ASTEP and ASTEPA give every row
it names one k-block of products (integer rows the exact sum, modulo 2^32 or saturated), its kind and its closed bit; ACLR
clears, AADD adds and ASCL scales rows; ARD converts rows and writes them where its generator says, and changes no
accumulator, claiming its whole output first; MNOP performs the engine's earlier stores and goes on, its production waiting for
those that are parked; MCONT goes on with the remainder its block records, and traps BAD_WINDOW for a lent bank, which is none of
its windows (with the byte offset in the bank as its value, the model's choice, log 94). A false guard ends the word with no
effect. -/
def Obligations.MatrixWords : Prop :=
  (∀ (sc sat accOn : Bool) (wt : List KRow) (old : AccRow) (x : KRow) (n : Nat), n < 192 →
    let c := wt.getD n KRow.zero
    let exact := (if accOn then (BitVec.ofNat 32 (old.cell n)).toInt else 0)
      + ((x.vals.zip c.vals).map fun q => intVal q.1 * intVal q.2).foldl (· + ·) 0
    let r := stepRow true sc sat accOn wt old x none
    (sat = false → r.1.getD n 0 = (exact % 2 ^ 32).toNat)
    ∧ (sat = true → r.1.getD n 0 = (Max.max (-2 ^ 31) (Min.min (2 ^ 31 - 1) exact) % 2 ^ 32).toNat))
  ∧ ∀ (w : MWord) (s : State) (p : Pre) (t : State),
    let rows := w.rows.toNat + 1
    let st := w.start.toNat
    let af := w.afmt.toNat
    let m := t.myMat
    let ended := fun (z : State) (fl : Flags) => (Host.Outcome.next ((z.raiseTaskFlags z.me fl).endWord p.prod) : Out)
    (Ready s w.tok p t → t.regPoison = [] → t.guard w.guard = false →
      ∀ i ∈ [Instr.wld w, .astep w, .astepa w, .aclr w, .aadd w, .ascl w, .ard w, .mnop w, .mcont w],
        exec i s = .next (t.endWord p.prod))
    ∧ (MatOpen s w p t →
      (let c := w.kb.toNat + t.idxN
      (255 < c → exec (.wld w) s = .next (trapped t 0x01 t.turn.wordPc))
      ∧ (c ≤ 255 → ∀ src u d ver z,
        t.operand w.wgen w.woff t.blk.lentSrc (if w.woff.toNat * 64 < 4096 then 0 else 1) = .ok src u →
        u.readTile w.wfmt.toNat src = .ok (d, ver) z →
        exec (.wld w) s = ended (z.setMyMat { z.myMat with
          latched := some ⟨w.wfmt.toNat, src.record, ver, c, w.neg, d⟩, reload := false }) (tileFlags w.wfmt.toNat d)))
      ∧ (let j := w.kb.toNat + t.idxK
        (m.latched = none → ∀ i ∈ [Instr.astep w, .astepa w], exec i s
          = .next (trapped t (if fmtIsScaled af = true ∧ w.bscale = false then 0x01 else 0x13) t.turn.wordPc))
        ∧ ∀ l, m.latched = some l →
          (w.bscale ≠ (fmtIsScaled af || fmtIsScaled l.fmt) ∨ 255 < j → ∀ i ∈ [Instr.astep w, .astepa w], exec i s
            = .next (trapped t 0x01 t.turn.wordPc))
          ∧ (w.bscale = (fmtIsScaled af || fmtIsScaled l.fmt) → j ≤ 255 → RowsOpen t w →
            let int := isIntFmt af && isIntFmt l.fmt
            let kind := if int then kindInt else kindFloat
            let accOn := t.accOn w
            (accOn = true → ∀ i < rows, (m.row (st + i)).closed = false ∧ (m.row (st + i)).poison = false
              ∧ ((m.row (st + i)).kind = 0 ∨ (m.row (st + i)).kind = kind)) →
            let wt := (List.range 192).map (weightColumn l.fmt l.data l.neg)
            let row := fun (d : Option RankData) (xs : List (Nat × RowIn)) (i : Nat) =>
              stepRow int w.bscale w.sat accOn wt (m.row (st + i)) ((xs.getD i (0, ⟨KRow.zero, none⟩)).2.row) d
            let out := fun d xs i => AccRow.mk (cellsOf (row d xs i).1) kind (t.lastK w) false
            let fl := fun d xs => flagsOf (List.range rows) fun i => (row d xs i).2
            let pieces := (rangeFrom 0 rows).flatMap fun m => actPieces af rows m w.trans
            (∀ src u v y z xs, t.operand w.agen w.aoff t.blk.lentSrc (operandBytes af rows) = .ok src u →
              u.aligned src winRows 64 = .ok () v → v.checkPieces src winRows true false pieces = .ok () y →
              readRows 0 rows y (fun m s => s.actRow src af rows m w.trans) = .ok xs z → (∀ x ∈ xs, x.2.bad = none) →
              RowsWritten (exec (.astep w) s) z w p (out none xs) (fl none xs))
            ∧ (∀ a src u v y k d z xs, t.adapterGate w.adp = .ok a t →
              t.operand w.agen w.aoff t.blk.lentSrc (operandBytes af rows) = .ok src u →
              u.aligned src winRows 64 = .ok () v → v.checkPieces src winRows true false pieces = .ok () y →
              y.rankData w a j l.col = .ok d k → d.bad = none →
              readRows 0 rows k (fun m s => s.actRow src af rows m w.trans) = .ok xs z → (∀ x ∈ xs, x.2.bad = none) →
              RowsWritten (exec (.astepa w) s) z w p (out (some d) xs) (fl (some d) xs))))
      ∧ (RowsOpen t w → tsorted m.acc = true → ∃ n : Matrix, exec (.aclr w) s = .next ((t.setMyMat n).endWord p.prod)
        ∧ { n with acc := m.acc } = m ∧ (∀ i ≤ w.rows.toNat, n.row (st + i) = AccRow.init)
        ∧ ∀ i, i < st ∨ st + w.rows.toNat < i → n.row i = m.row i)
      ∧ (RowsOpen t w → ∀ xs z, t.rowOperand w 0 rows = .ok xs z → (∀ x ∈ xs, x.2.bad = none) →
        let int := (fltOf af).isNone
        let kind := if int then kindInt else kindFloat
        (t.accOn w = true → ∀ i < rows, (m.row (st + i)).poison = false
          ∧ ((m.row (st + i)).kind = 0 ∨ (m.row (st + i)).kind = kind)) →
        let cell := fun (i n : Nat) => aaddCell int (t.accOn w) w.sat ((m.row (st + i)).cell n)
          (((xs.getD i (0, ⟨KRow.zero, none⟩)).2.row.vals).getD n .nan)
        RowsWritten (exec (.aadd w) s) z w p
          (fun i => ⟨cellsOf ((List.range 192).map fun n => (cell i n).1), kind, (m.row (st + i)).closed, false⟩)
          (flagsOf (List.range rows) fun i => flagsOf (List.range 192) fun n => (cell i n).2))
      ∧ (RowsOpen t w → tsorted m.acc = true → (∀ i < rows, (m.row (st + i)).poison = false) → ∀ x z,
        t.rowOperand w 0 1 = .ok [x] z → x.2.bad = none →
        let cell := fun (i n : Nat) =>
          let y := mulNum ((m.row (st + i)).value n) (x.2.row.vals.getD n .nan)
          ((roundM w.sat y.1).1, y.2 ||| (roundM w.sat y.1).2)
        let kind := fun i => if (m.row (st + i)).kind == 0 && (List.range 192).all (fun n => (cell i n).1 == 0) then 0 else kindFloat
        RowsWritten (exec (.ascl w) s) z w p
          (fun i => ⟨cellsOf ((List.range 192).map fun n => (cell i n).1), kind i, (m.row (st + i)).closed, false⟩)
          (flagsOf (List.range rows) fun i => flagsOf (List.range 192) fun n => (cell i n).2))
      ∧ (RowsOpen t w → w.adp = 0xFFF → (∀ i < rows, (m.row (st + i)).poison = false) → ∀ dst u v,
        t.operand w.ogen w.ooff t.blk.lentTgt (outBytes w.ofmt.toNat rows) = .ok dst u → u.aligned dst winOut 64 = .ok () v →
        let out := fun i => drainRow w ((List.range 192).map fun n => drainValue w ((m.row (st + i)).value n) none)
        let parts := (List.range rows).flatMap fun i => ((outPieces w.ofmt.toNat i).zip (out i).1).map fun y => (false, y)
        ∀ z, v.putPieces p dst (some ((List.range rows).flatMap (outPieces w.ofmt.toNat))) parts = .ok () z →
          exec (.ard w) s = ended z (flagsOf (List.range rows) fun i => (out i).2) ∧ z.mats = v.mats)
      ∧ exec (.mnop w) s = .next (((t.drain t.me none).markParked 2 p.prod).endWord p.prod)
      ∧ (let a := t.agen w.agen.toNat + BitVec.ofNat 64 (64 * w.aoff.toNat)
        (w.agen = 4 → exec (.mcont w) s = .next (trapped t 0x03 (BitVec.ofNat 64 (64 * w.aoff.toNat))))
        ∧ ∀ v y d z c r, w.agen.toNat < 4 → t.aligned (.mem a) winCont 128 = .ok () v → v.checkPieces (.mem a) winCont true false (piecesOf 0 128) = .ok () y →
        y.pieces (.mem a) winCont 0 128 = .ok (d, none) z →
        contOf (z.task z.me).ctx (z.sectionSize (z.task z.me).code 2) d = some c → c.flg.testBit 1 = false →
        z.running = some r →
        let had : Option Gen := if c.tok < 63 then some ⟨c.tok, c.gen⟩ else none
        let split := c.flg.testBit 0
        exec (.mcont w) s = .next ((z.setMyMat { z.myMat with latched := none }).setRunning (some { r with
          pc := BitVec.ofNat 64 c.mpc, word := (c.mpc - c.blk) / 24, idx := c.idx, start := BitVec.ofNat 64 c.blk, n := c.nper,
          pre := if split || had.isSome then some ⟨[], none⟩ else none, hold := Hold.init,
          cont := ⟨r.pc, r.word, r.idx, r.start, r.n, p.prod, had⟩ :: r.cont, split := split,
          row := if split then c.rowm else 0, kb := if split then some c.kb else none, block := some d }))))

/-! ## Commands -/

/-- A queue whose command has ended, with its fields as `x` has them, going on at `pc`. -/
def Sys2Proof.Claims.goesOn (s : State) (q : Nat) (x : Queue) (pc : Word) : State :=
  s.setQueue q { x with pc := pc, cur := none, waitk := 0, st := .running }

/-- A command register of a queue written; `c0` ignores writes (15 R381). -/
def Sys2Proof.Claims.withReg (x : Queue) (d : BitVec 4) (v : Word) : Queue :=
  if d = 0 then x else { x with c := tset 0 x.c d.toNat v }

/-- A queue that its command has stopped, with the event for the host: the queue, the code, the place, the address and, where a
home does not answer, its die (15 R375, R376, R389). -/
def Sys2Proof.Claims.stopsWith (s : State) (q code : Nat) (addr : Word) (die : List Nat) : State :=
  let x := s.queue q
  let pc := s.turn.pc
  (s.setQueue q { x with
    st := if code = 6 then .halted else .stopped, code := code, where_ := pc.toNat % 2 ^ 32, waitk := 0, pc := pc, cur := none,
    tail := if x.calls = [] then pc.toNat else x.tail }).tellCtx x.attr.ctx 0x1000C ([q, code, pc.toNat, addr.toNat] ++ die)

/-- One that no die is the reason for. -/
def Sys2Proof.Claims.stops (s : State) (q code : Nat) (addr : Word) : State := stopsWith s q code addr []

/-- A queue that waits in its command `i`. -/
def Sys2Proof.Claims.holdsIn (s : State) (q : Nat) (i : Instr) (k : Nat) : State :=
  let x := s.queue q
  s.setQueue q { x with
    cur := some ⟨s.turn.pc, s.turn.next, i⟩, waitk := k, st := if k = 0 then .running else .waiting,
    pc := if k = 7 then s.turn.pc else s.turn.next, waitStart := if x.cur = none then (s.die 8).ptime else x.waitStart }

/-- The six conditions of commands, as of words (04 R121, 15 R382). -/
def Sys2Proof.Claims.cond (c : Nat) (x y : Word) : Prop :=
  match c with
  | 0 => x = y | 1 => x ≠ y | 2 => x.toInt < y.toInt | 3 => x.toNat < y.toNat | 4 => y.toInt ≤ x.toInt | _ => y.toNat ≤ x.toNat

/-- A WAIT that started before has its time-out behind it by more than `ps` picoseconds (15 R392). -/
def Sys2Proof.Claims.overBy (s : State) (q : Nat) (w : CWord) (ps : Nat) : Prop :=
  w.imm ≠ 0 ∧ ((s.queue q).waitStart.toNat + 1000 * w.imm.toNat) * 1000 + ps < (s.die 8).ptime.toNat * 1000

/-- What a WAIT does with the value `x` its read gave at state `t`. -/
def Sys2Proof.Claims.waited (o : Out) (t : State) (q : Nat) (w : CWord) (x : Nat) : Prop :=
  let c := cond w.cond.toNat (BitVec.ofNat 64 x) (tget 0 (t.queue q).c w.b.toNat)
  (c → o = .next (goesOn t q (withReg (t.queue q) w.d 0) t.turn.next)) ∧ (¬c → o = .next (holdsIn t q (.cmdWait w) 1))

/-- R375 to R395 and R403 to R405: what the commands of a queue do, and where they stop it or make it wait. An access that
fails stops it with code 4; one whose home does not answer sets the home's bit of DIEMASK, and the event names the die. -/
def Obligations.QueueCommands : Prop :=
  ∀ (q : Nat) (s : State), s.turn.agent = .queue q →
    let x := s.queue q
    let c := x.attr.ctx
    let pc := s.turn.pc
    let nx := s.turn.next
    let reg := fun (n : BitVec 4) => tget 0 x.c n.toNat
    let v := s.queueView q
    let acc := fun (n : Nat) (rd wr : Bool) => (⟨n, n, rd, wr, false, 16⟩ : Want)
    (∀ (w : CWord) (ext : List Word),
      let num := BitVec.ofInt 64 w.imm.toInt
      let a := reg w.a
      let y := if w.auxBit 0 = true then num else reg w.b
      let gives := fun (i : Instr) (z : Word) => exec i s = .next (goesOn s q (withReg x w.d z) nx)
      gives (.cmdLdi w ext) (if w.auxBit 0 = true then ext.headD 0 else num)
      ∧ gives (.cmdAdd w) (BitVec.ofNat 64 (a.toNat + y.toNat)) ∧ gives (.cmdSub w) (BitVec.ofInt 64 ((a.toNat : Int) - y.toNat))
      ∧ gives (.cmdAnd w) (a &&& y) ∧ gives (.cmdOr w) (a ||| y)
      ∧ gives (.cmdShl w) (BitVec.ofNat 64 (a.toNat * 2 ^ (y.toNat % 64)))
      ∧ (cond w.cond.toNat a y → gives (.cmdCmp w) 1) ∧ (¬cond w.cond.toNat a y → gives (.cmdCmp w) 0))
    ∧ exec .cmdNop s = .next (goesOn s q x nx) ∧ exec .cmdFence s = .next (goesOn s q x nx)
    ∧ exec .cmdHalt s = .next (stops s q 6 0)
    ∧ (∀ w : CWord, exec (.report w) s = .next (goesOn (s.tellCtx c (w.imm.toNat % 2 ^ 16) [q, w.imm.toNat, (reg w.a).toNat]) q
        x nx))
    ∧ (∀ (w : CWord) (i : Instr), i = .cmdBr w ∨ (i = .cmdBrc w ∧ cond w.cond.toNat (reg w.a) (reg w.b)) →
      let d := w.imm.toInt
      (x.calls = [] → d < 1 ∨ x.attr.rsize / 8 - 1 < d.toNat → exec i s = .next (stops s q 2 0))
      ∧ (x.calls = [] → 1 ≤ d → d.toNat ≤ x.attr.rsize / 8 - 1 →
        (x.written pc.toNat < 8 * d.toNat → exec i s = .next (holdsIn s q i 7))
        ∧ (8 * d.toNat ≤ x.written pc.toNat →
          let t := (pc.toNat + 8 * d.toNat) % x.attr.rsize
          exec i s = .next (goesOn s q { x with tail := t } (BitVec.ofNat 64 t))))
      ∧ (x.calls ≠ [] →
        let t := BitVec.ofInt 64 (pc.toInt + 8 * d)
        exec i s = .next (goesOn s q { x with loops := popLoops x.calls.length t x.loops } t)))
    ∧ (∀ w : CWord, ¬cond w.cond.toNat (reg w.a) (reg w.b) →
      x.calls ≠ [] ∨ (1 ≤ w.imm.toInt ∧ w.imm.toInt.toNat ≤ x.attr.rsize / 8 - 1) →
      exec (.cmdBrc w) s = .next (goesOn s q x nx))
    ∧ (∀ w : CWord, let a := reg w.a
      (16 ≤ x.calls.length → exec (.cmdCall w) s = .next (stops s q 3 0))
      ∧ (x.calls.length < 16 → a.toNat % 8 ≠ 0 ∨ a.toNat / 2 ^ 60 ≠ 8 → exec (.cmdCall w) s = .next (stops s q 2 a))
      ∧ (x.calls.length < 16 → a.toNat % 8 = 0 → a.toNat / 2 ^ 60 = 8 →
        exec (.cmdCall w) s = .next (goesOn s q { x with calls := nx :: x.calls } a)))
    ∧ (x.calls = [] → exec .cmdRet s = .next (stops s q 3 0))
    ∧ (∀ a t, x.calls = a :: t →
      let d := x.calls.length
      exec .cmdRet s = .next ((goesOn s q { x with calls := t, loops := x.loops.filter fun e => e.depth != d } a).leaveFrame q d))
    ∧ (∀ w : CWord,
      let after := pc + BitVec.ofNat 64 (8 * w.imm.toNat)
      (x.calls = [] → exec (.cmdLoop w) s = .next (stops s q 2 0))
      ∧ (x.calls ≠ [] → reg w.a = 0 → exec (.cmdLoop w) s = .next (goesOn s q x after))
      ∧ (x.calls ≠ [] → reg w.a ≠ 0 → 8 ≤ x.loops.length → exec (.cmdLoop w) s = .next (stops s q 3 0))
      ∧ (x.calls ≠ [] → reg w.a ≠ 0 → x.loops.length < 8 → exec (.cmdLoop w) s
        = .next (goesOn s q { x with loops := ⟨nx, after - 8, reg w.a, x.calls.length⟩ :: x.loops } nx)))
    ∧ (x.calls = [] → exec .cmdEndl s = .next (stops s q 2 0))
    ∧ (x.calls ≠ [] → x.loops = [] → exec .cmdEndl s = .next (stops s q 3 0))
    ∧ (∀ e t, x.calls ≠ [] → x.loops = e :: t →
      (e.stop ≠ pc → exec .cmdEndl s = .next (stops s q 3 0))
      ∧ (e.stop = pc → e.count = 1 → exec .cmdEndl s = .next (goesOn s q { x with loops := t } nx))
      ∧ (e.stop = pc → e.count ≠ 1 → exec .cmdEndl s
        = .next (goesOn s q { x with loops := { e with count := e.count - 1 } :: t } e.start)))
    ∧ (∀ (w : CWord) (p : Place) (t u : State),
      let n := 2 ^ (w.aux.toNat % 4)
      let a := reg w.a + BitVec.ofInt 64 w.imm.toInt
      (s.place v a (acc n true false) = .ok p t → p.there = false → exec (.cmdLoad w) s
        = .next (s.holdAccess (.cmdLoad w) ⟨.extent, 0, a⟩))
      ∧ (s.place v a (acc n true false) = .ok p t → p.there = true → t.place v a (acc n true false) = .ok p u → Settled s →
        u.readWait v p = none → u.poisoned p.key n = false → Plain p →
        ∃ z, exec (.cmdLoad w) s = .next (goesOn z q (withReg x w.d (BitVec.ofNat 64 (ofBytes (z.getBytes p.key n)))) nx)
          ∧ MemoryOnly s z ∧ SameBytes s z v.pair 0 0)
      ∧ (∀ k y, s.place v a (acc n true false) = .trap k y →
        (k ≠ 0x0D → exec (.cmdLoad w) s = .next (stops s q 4 y))
        ∧ ∀ d, k = 0x0D → 2 ^ 39 ≤ y.toNat → s.homeDie v y = some d →
          exec (.cmdLoad w) s = .next (stopsWith (s.touch c d) q 4 y [d]))
      ∧ (s.place v a (acc n false true) = .ok p t → p.there = true → t.place v a (acc n false true) = .ok p u → Settled s →
        s.memWf → Writable u v p → Plain p →
        ∃ z, exec (.cmdStore w) s = .next (goesOn z q x nx) ∧ MemoryOnly s z ∧ SameBytes s z v.pair p.key n
          ∧ ∀ j < n, z.getByte (p.key + j) = BitVec.ofNat 8 ((reg w.b).toNat / 256 ^ j)))
    ∧ (∀ (w : CWord) (p : Place) (t u : State), let a := reg w.a
      s.place v a (acc 8 true true) = .ok p t → p.there = true → t.place v a (acc 8 true true) = .ok p u → Settled s → s.memWf →
      u.readWait v p = none → Writable u v p → (u.sendNow v.die p.home 0).isSome = true → u.poisoned p.key 8 = false → Plain p →
      let old := ofBytes ((u.flushLine v p).getBytes p.key 8)
      ∀ e ∈ [(Instr.cmdSignalSet w, (reg w.b).toNat), (.cmdSignalAdd w, (old + (reg w.b).toNat) % 2 ^ 64)],
        ∃ z, exec e.1 s = .next (goesOn z q x nx) ∧ MemoryOnly s z ∧ SameBytes s z v.pair p.key 8
          ∧ ∀ j < 8, z.getByte (p.key + j) = BitVec.ofNat 8 (e.2 / 256 ^ j))
    ∧ (∀ (w : CWord) (r : Nat) (t : State), x.cur = none ∨ ¬overBy s q w (s.die 8).csrTerr →
      s.cmdRead v (reg w.a) 8 = .ok r t → t.queue q = x → t.turn = s.turn → waited (exec (.cmdWait w) s) t q w r)
    ∧ (∀ w : CWord,
      ((s.die 8).unlk = false → (reg w.a).toNat ≤ (s.die 8).ptime.toNat → exec (.timeat w) s = .next (goesOn s q x nx))
      ∧ ((s.die 8).unlk = true ∨ (s.die 8).ptime.toNat < (reg w.a).toNat → exec (.timeat w) s
        = .next (holdsIn s q (.timeat w) 2)))
    ∧ (∀ w : CWord,
      let live := x.since.filter s.pending
      let old := x.carried.filter s.pending
      ((∃ n ∈ old, s.barred n = false) ∨ (∃ n ∈ live, s.mayCarry n = false ∧ s.barred n = false) →
        exec (.graph w) s = .next (holdsIn s q (.graph w) 4))
      ∧ ((∀ n ∈ old, s.barred n = true) → (∀ n ∈ live, s.mayCarry n = true ∨ s.barred n = true) → x.slice.stop = false →
        exec (.graph w) s = .next (
          let u := goesOn s q { x with node := w.imm.toNat, since := [], carried := old ++ live } nx
          if (s.ctx c).coop = true then u.setQueue q { u.queue q with st := .saved } else u)))
    ∧ (∀ w : CWord,
      let k := w.imm.toNat % 2 ^ 12
      let a := s.adapter k
      let all := s.checkCores
      (a.st = 0 → exec (.bind w) s = .next (goesOn (s.setAdapter k { Adapter.init with
          st := 1, owner := c, model := (reg w.a).toNat % 256, evictFn := a.evictFn, acks := all }) q (withReg x w.d 0) nx))
      ∧ (a.st ≠ 0 → exec (.bind w) s = .next (goesOn s q (withReg x w.d 2) nx))
      ∧ (a.st = 0 ∨ a.owner ≠ c → exec (.evict w) s = .next (goesOn s q (withReg x w.d (BitVec.ofNat 64 (a.st * 256 + 6))) nx))
      ∧ (a.st = 1 → a.owner = c → exec (.evict w) s
        = .next (goesOn (s.setAdapter k { Adapter.init with acks := all }) q (withReg x w.d 0) nx))
      ∧ (a.st = 2 → a.owner = c → 0 < a.refs → (s.experts k).filter (fun e => (s.adapter e).st == 2) = [] →
        exec (.evict w) s = .next (goesOn (s.setAdapter k { a with st := 3, acks := all }) q (withReg x w.d 0) nx))
      ∧ (2 < a.st → a.owner = c → exec (.evict w) s = .next (goesOn s q (withReg x w.d 0) nx)))
    ∧ ∀ (w : CWord) (t : State), s.writeSummary v (reg w.a) (goesOn s q x nx).summaryBytes = .ok () t → t.queue q = x →
      t.turn = s.turn → exec (.summary w) s = .next (goesOn t q (withReg x w.d 0) nx)

/-- A queue that waits in `i`, put into issue again: its fields, its place, and the turn it takes. -/
def Sys2Proof.Claims.WaitsIn (s u : State) (q : Nat) (i : Instr) (k : Nat) : Prop :=
  (s.queue q).st = .waiting ∧ (s.queue q).waitk = k
    ∧ ∃ loc nx, (s.queue q).cur = some ⟨loc, nx, i⟩
      ∧ u = s.setTurn { Turn.init with agent := .queue q, pc := loc, wordPc := loc, next := nx }

/-- What an INVOKE with its references taken does, begun at `s`: with its block in use it waits; otherwise the operands are in
the block and, where the entry record passes its checks, the launch waits for admission with the block's address for its
arguments (15 R402). -/
def Sys2Proof.Claims.Invoked (o : Out) (s : State) (q : Nat) (w : CWord) (ext : List Word) (tk : Taken) : Prop :=
  let x := s.queue q
  let v := s.queueView q
  let key := (x.attr.ibase + 128 * x.nextBlk) % 2 ^ 39
  let m := s.model tk.model
  let entry := ((m.findVer tk.ver [2, 3]).map fun e => (m.entry e).entry).getD 0
  ((tfind x.blocks x.nextBlk).isSome = true → ∃ u, o = .next u
    ∧ u.queue q = { (holdsIn s q (.invoke w ext) 5).queue q with taken := some tk } ∧ u = { s with queues := u.queues })
  ∧ ∀ p z b z2 r hs y, tfind x.blocks x.nextBlk = none → s.devUp key = true →
    let f := (s.touch x.attr.ctx (key / 2 ^ 36)).putBytes key ((List.range 16).flatMap fun i => bytesOf 8 (ext.getD i 0).toNat)
    f.cmdPlace v entry ⟨128, 128, true, false, false, 16⟩ = .ok p z → z.readRecord v entry = .ok b z2 →
    z2.checkRecord v b x.since.length (fun h => (z2.blockOffset x.attr.ctx key h).isSome) = .ok (.ok (r, hs)) y →
    y.queue q = x → y.turn = s.turn →
    ∃ u l, o = .next u ∧ u.waiting = y.waiting ++ [l]
      ∧ (u.queue q).st = .waiting ∧ (u.queue q).waitk = 6 ∧ (u.queue q).taken = some tk
      ∧ (l.ctx = x.attr.ctx ∧ l.handles = hs ∧ l.block = some x.nextBlk ∧ l.under = tk.under
        ∧ l.refs = (if tk.own then some (tk.slot, tk.model, tk.ver) else none))
      ∧ l.record = { r with
          args := BitVec.ofNat 64 (8 * 2 ^ 60 + (y.blockOffset x.attr.ctx key hs).getD 0), done := tget 0 x.c w.b.toNat }
      ∧ u = { y with queues := u.queues, waiting := u.waiting }

/-- R392 to R415, R399 to R412: waits that end, launches from a queue and by INVOKE, gang slices, and what the dispatchers
make of launches: admission, placement, binding with the task's first state, stealing, and completion. -/
def Obligations.LaunchesAndWaits : Prop :=
  (∀ (q : Nat) (s u : State),
    let x := s.queue q
    let now := (s.die 8).ptime.toNat
    let past := fun (z : GangSlice) => decide (z.t0.toNat + 1000 * z.limit < now)
    let lateIn := fun (z : GangSlice) => s.gangLate.any fun e => e.1 == z.id
    (∀ w r t, WaitsIn s u q (.cmdWait w) 1 → ¬overBy s q w (s.die 8).csrTerr → u.cmdRead (u.queueView q) (tget 0 x.c w.a.toNat) 8 = .ok r t → t.queue q = x →
      t.turn = u.turn → waited (exec (.waitReread q) s) t q w r)
    ∧ (∀ w, WaitsIn s u q (.cmdWait w) 1 → overBy s q w (s.die 8).csrTerr →
      exec (.waitReread q) s = .next (goesOn u q (withReg x w.d 7) u.turn.next))
    ∧ (∀ w k, WaitsIn s u q (.cmdWait w) k → overBy s q w 0 →
      exec (.waitTimeout q) s = .next (goesOn u q (withReg x w.d 7) u.turn.next))
    ∧ (∀ w k, WaitsIn s u q (.timeat w) k → (s.die 8).unlk = false → (tget 0 x.c w.a.toNat).toNat ≤ now →
      exec (.timeatReached q) s = .next (goesOn u q x u.turn.next))
    ∧ (∀ w ext tk, WaitsIn s u q (.invoke w ext) 5 → x.taken = some tk → Invoked (exec (.invokeBlockFree q) s) u q w ext tk)
    ∧ (∀ w,
      let g := x.slice
      let passed := fun (ps : Nat) => g.t0.toNat * 1000 + ps ≤ now * 1000
      let opened := goesOn u q (withReg { x with slice := { g with opened := true } } w.d 0) u.turn.next
      WaitsIn s u q (.gang w) 3 →
      (g.late = false → passed 0 → s.gangReady g.id = true → exec (.gangStart q) s = .next opened)
      ∧ (g.late = false → passed (2 * g.bound + 2000000) → s.gangReady g.id = false →
        ∃ y, exec (.gangGuardExpiry q) s = .next y ∧ y.queue q = { x with slice := { g with late := true } }
          ∧ y.podSent = s.podSent ++ [⟨false, g.id, g.members &&& ~~~(BitVec.ofNat 256 (2 ^ s.pod.self))⟩])
      ∧ (g.late = true → s.gangReady g.id = true →
        ∃ y, exec (.gangArrived q) s = .next y ∧ y.queue q = opened.queue q
          ∧ y.podSent = s.podSent ++ [⟨true, g.id, g.members &&& ~~~(BitVec.ofNat 256 (2 ^ s.pod.self))⟩])
      ∧ (g.opened = false → (∀ z ∈ x.slices, past z = false) → g.t0.toNat * 1000 + 1000000 * g.limit ≤ now * 1000 →
        s.gangReady g.id = false → exec (.gangLateLimit q) s = .next (stops u q 5 0)))
    ∧ (x.slice.opened = true → past x.slice = true →
      exec (.gangLateLimit q) s = .next (s.setQueue q { x with slice := { x.slice with
        opened := false, stop := x.slice.stop || lateIn x.slice } }))
    ∧ (x.slice.opened = false → (∃ z ∈ x.slices, past z = true) →
      exec (.gangLateLimit q) s = .next (s.setQueue q { x with
        slice := { x.slice with stop := x.slice.stop || x.slices.any fun z => past z && lateIn z },
        slices := x.slices.filter fun z => !past z })))
  ∧ (∀ (g n : Nat) (s : State),
    (∃ u, exec (.gangLateReceive g n) s = .next u ∧ (g, n) ∈ u.gangLate ∧ u = { s with gangLate := u.gangLate })
    ∧ exec (.gangArrivedReceive g n) s = .next { s with gangLate := s.gangLate.filter fun e => e != (g, n) })
  ∧ (∀ (q : Nat) (s : State), s.turn.agent = .queue q →
    let x := s.queue q
    let v := s.queueView q
    let nx := s.turn.next
    (∀ w : CWord, let a := tget 0 x.c w.a.toNat
      (a.toNat % 128 ≠ 0 → exec (.cmdLaunch w) s = .next (stops s q 2 a))
      ∧ ∀ p z b y c t, a.toNat % 128 = 0 → s.cmdPlace v a ⟨128, 128, true, false, false, 16⟩ = .ok p z →
        z.readRecord v a = .ok b y → y.checkRecord v b x.since.length (fun _ => true) = .ok c t → t.queue q = x →
        t.turn = s.turn →
        (∀ r hs, c = .ok (r, hs) → ∃ l, exec (.cmdLaunch w) s = .next { holdsIn t q (.cmdLaunch w) 6 with waiting := t.waiting ++ [l] }
          ∧ l.ctx = x.attr.ctx ∧ l.record = r ∧ l.handles = hs ∧ l.addr = a ∧ l.objs = x.objs ∧ l.exited = 0
          ∧ l.producers = x.since.drop (x.since.length - r.depn))
        ∧ ∀ code detail, c = .error (code, detail) → exec (.cmdLaunch w) s
          = .next ((goesOn t q (withReg x w.d (BitVec.ofNat 64 (detail * 256 + code))) nx).putStatus x.attr.ctx x.objs a code
              detail))
    ∧ (∀ (w : CWord) (ext : List Word) (tk : Taken), x.taken = some tk → Invoked (exec (.invoke w ext) s) s q w ext tk)
    ∧ (∀ (w : CWord) (ext : List Word), x.taken = none → (s.model (w.imm.toNat % 2 ^ 8)).resident = false →
      exec (.invoke w ext) s = .next (goesOn s q (withReg x w.d 3) nx))
    ∧ (∀ w : CWord, (s.die 8).unlk = true → exec (.gang w) s = .next (goesOn s q (withReg x w.d 9) nx))
    ∧ ∀ (w : CWord) p z b y, (s.die 8).unlk = false →
      s.cmdPlace v (tget 0 x.c w.b.toNat) ⟨64, 64, true, false, false, 16⟩ = .ok p z → z.readPlace v p = .ok b y →
      y.queue q = x → y.turn = s.turn → gangError b = none →
      let members := BitVec.ofNat 256 (fieldAt b 0 32)
      members.getLsbD s.pod.self = true → y.pod = s.pod →
      let limit := w.imm.toNat % 2 ^ 16
      let g : GangSlice := ⟨tget 0 x.c w.a.toNat, w.imm.toNat / 2 ^ 16, if limit = 0 then 200 else limit, (s.die 8).bound, false,
        false, x.slice.stop, members⟩
      let u := y.setQueue q { x with slice := g, slices := if x.slice.opened then x.slices ++ [x.slice] else x.slices }
      (u.pastT0 g 0 = true → u.gangReady g.id = true →
        exec (.gang w) s = .next (goesOn u q (withReg { u.queue q with slice := { g with opened := true } } w.d 0) nx))
      ∧ (u.pastT0 g 0 = false ∨ u.gangReady g.id = false → exec (.gang w) s = .next (holdsIn u q (.gang w) 3)))
  ∧ (∀ (s : State) (l : Launch) (rest : List Launch), s.nextAdmission = some (l, rest) →
    let n := { l with num := s.nextLaunch }
    ∃ u, exec .launchAdmit s = .next u ∧ u.waiting = rest ∧ u.nextLaunch = (s.nextLaunch + 1) % 2 ^ 32
      ∧ tfind u.launches s.nextLaunch = some n
      ∧ ∀ q d, l.queue = some (q, d) → (u.queue q).since = (s.queue q).since ++ [s.nextLaunch]
        ∧ (∀ c, (s.queue q).cur = some c → (u.queue q).pc = c.next ∧ (u.queue q).cur = none ∧ (u.queue q).st = .running))
  ∧ (∀ (n : Nat) (rs : List DieRange) (s : State) (l : Launch), tfind s.launches n = some l → l.placed = false → l.num = n →
    (s.rangesOk l 0 rs = true → ∃ u, exec (.placement n rs []) s = .next u
      ∧ tfind u.launches n = some { l with placed := true }
      ∧ (∀ d, (u.die d).ranges = (rs.filter fun r => r.die == d).foldl (fun a r => s.insertRange ⟨n, r.lo, r.hi⟩ a) (s.die d).ranges)
      ∧ (∀ d, (∀ r ∈ (s.die d).ranges, s.admittedBefore n < s.admittedBefore r.lnum) →
        (u.die d).ranges = (s.die d).ranges ++ (rs.filter fun r => r.die == d).map fun r => ⟨n, r.lo, r.hi⟩)
      ∧ u = { s with dies := u.dies, launches := u.launches })
    ∧ ∀ w, 0 < l.record.n → (s.die (slotDie w.slot)).fwSwitching = false → exec (.placement n [] [w]) s
      = .next { s with slotRecs := tput s.slotRecs w.slot w.record })
  ∧ (∀ (k : Nat) (s : State) (r : BindRecord) (l : Launch), tfind s.slotRecs k = some r → r.valid = true → r.resume = false →
    s.bound k = false → tfind s.launches r.lnum = some l → l.num = r.lnum → l.ctx = r.ctx → r.task < l.record.n → l.record.cls = 0 →
    s.recordRefused l k r.task 0 = false → s.mayBind l = true → s.recordWaits l k = false →
    ∀ i, i = Instr.bindRecordBind k ∨ (i = .earlyBind k ∧ l.record.early = true) →
    ∃ u, exec i s = .next u ∧ u.bound k = true
      ∧ ((u.task k).ctx = l.ctx ∧ (u.task k).lnum = l.num ∧ (u.task k).idx = r.task ∧ (u.task k).code = l.record.code
        ∧ (u.task k).banks = l.record.banks ∧ (u.task k).accr = l.record.accr ∧ (u.task k).frame = l.record.frame * 4096)
      ∧ ((u.task k).hart.pc = BitVec.ofNat 64 l.record.entry ∧ (u.task k).hart.tvec = BitVec.ofNat 64 l.record.tvec)
      ∧ (∀ m, (u.task k).hart.rf.read m = if m = 1 then l.record.args else if m = 2 then BitVec.ofNat 64 r.task else 0)
      ∧ ((u.task k).toks = [] ∧ (u.task k).prods = [] ∧ (u.task k).lentSrc = none ∧ (u.task k).lentTgt = none)
      ∧ (u.ctx l.ctx).diemask.getLsbD (k / 48) = (decide (l.ctx < 128) && decide (k / 48 < 8) || (s.ctx l.ctx).diemask.getLsbD (k / 48))
      ∧ (∀ j, j ≠ k → u.task j = s.task j)
      ∧ (u.die (k / 48)).asked = []
      ∧ (l.record.lsb = 0 → s.memWf → ∀ j < l.record.frame * 4096, u.getByte (frameKey (u.task k) j) = 0)
      ∧ tfind u.launches r.lnum = some { l with dispatched := l.dispatched + 1 })
  ∧ (∀ (d v : Nat) (loft : Bool) (s : State) (r : UndRange) (size n : Nat), s.dieOpen d = true → s.idleFor d loft = true →
    nextVictim d (s.die d).asked = some v → v ≠ d → s.dieUp v = true → largestRange (s.stealable v d loft) = some (r, size, n) →
    ∃ u, exec (.stealRequest d loft) s = .next u ∧ (u.die d).ranges = s.insertRange ⟨r.lnum, r.hi - n, r.hi⟩ (s.die d).ranges
      ∧ (u.die v).ranges = (s.die v).ranges.map (fun x => if x = r then ⟨r.lnum, r.lo, r.hi - n⟩ else x)
      ∧ (u.die d).asked = (s.die d).asked ++ [v] ∧ u = { s with dies := u.dies })
  ∧ ∀ (n : Nat) (s : State) (l : Launch), tfind s.launches n = some l → l.num = n → l.record.n ≤ l.exited → s.hasAttached n = false →
    l.record.done = 0 → tsorted s.launches = true →
    ∃ u, exec (.launchComplete n) s = .next u ∧ tfind u.launches n = none ∧ u.mem = s.mem ∧ u.tasks = s.tasks

/-! ## Host messages -/

/-- A message that completes in `u`: an entry of 32 bytes waits for the completion ring of the function that sent it, with
kind 1, the status at byte 2, the message's tag at byte 4 and its result from byte 8 on (20 R471, R472). -/
def Sys2Proof.Claims.done (u : State) (status : Nat) (res : List Byte) : State :=
  let m := u.turn.msg
  let x := u.fn m.fn
  let entry := [1, 0] ++ bytesOf 2 status ++ bytesOf 4 m.tag.toNat ++ (res ++ List.replicate 24 0).take 24
  { u with fns := tput u.fns m.fn { x with waiting := x.waiting ++ [entry] } }

/-- A message whose result goes to its buffer: the bytes there, and their count with the completion. -/
def Sys2Proof.Claims.buffered (u : State) (b : List Byte) : State :=
  done (u.putBytes (2 ^ 64 + u.turn.msg.buf.toNat) b) 0 (bytesOf 4 b.length)

/-- The messages: each with the context it names, whether it must be secured whatever its context, and the readiness bit of
the unit that serves it (20 R469, R474, R477, 21 R484). -/
inductive Sys2Proof.Claims.Heard (s : State) : Instr → Option Nat → Bool → Nat → Prop
  | ctxCreate (c p f n) : Heard s (.ctxCreate c p f n) none p 1
  | ctxDestroy (c) : Heard s (.ctxDestroy c) (some c) false 1
  | fnAssign (c f) : Heard s (.fnAssign c f) none false 1
  | objWrite (c i b) : Heard s (.objWrite c i b) (some c) false 1
  | extentInvalidate (c i e) : Heard s (.extentInvalidate c i e) (some c) false 1
  | extentMap (c i e) : Heard s (.extentMap c i e) (some c) false 1
  | extentFatal (c i e) : Heard s (.extentFatal c i e) (some c) false 1
  | queueCreate (q a) : Heard s (.queueCreate q a) (some a.ctx) false 2
  | queueConfig (q a) : (s.queue q).live = true → Heard s (.queueConfig q a) (some (s.queue q).attr.ctx) false 2
  | queueDoorbell (q h) : (s.queue q).live = true → Heard s (.queueDoorbell q h) (some (s.queue q).attr.ctx) false 2
  | queueRestart (q l) : (s.queue q).live = true → Heard s (.queueRestart q l) (some (s.queue q).attr.ctx) false 2
  | queueDestroy (q) : (s.queue q).live = true → Heard s (.queueDestroy q) (some (s.queue q).attr.ctx) false 2
  | queueRead (q) : (s.queue q).live = true → Heard s (.queueRead q) (some (s.queue q).attr.ctx) false 2
  | codeLoad (c a n) : Heard s (.codeLoad c a n) (some c) false 3
  | codeUnload (d x) : tfind s.codes d = some x → Heard s (.codeUnload d) (some x.ctx) false 3
  | adpInstall (k a) : Heard s (.adpInstall k a) none (s.ctx (s.adapter k).owner).prot 4
  | adpRelease (k) : Heard s (.adpRelease k) none false 4
  | adpForceEvict (k) : Heard s (.adpForceEvict k) none false 4
  | adpRead (k) : Heard s (.adpRead k) none false 4
  | modelLoad (m e a) : Heard s (.modelLoad m e a) none false 4
  | modelSwitch (m) : Heard s (.modelSwitch m) none false 4
  | modelRetire (m e) : Heard s (.modelRetire m e) none false 4
  | modelRead (m) : Heard s (.modelRead m) none false 4
  | wobjWrite (i lo hi) : Heard s (.wobjWrite i lo hi) none true 1
  | readyClear (d) : Heard s (.readyClear d) none false 0
  | warmReset (d) : Heard s (.warmReset d) none false 0
  | moduleRetrain (d m) : Heard s (.moduleRetrain d m) none false 0
  | recal (c b) : Heard s (.recal c b) none false 0
  | retrain (d c) : Heard s (.retrain d c) none false 0
  | fwWrite (k d v a n) : Heard s (.fwWrite k d v a n) none false 1
  | fwSwitch (k d) : Heard s (.fwSwitch k d) none false 1
  | wtRead (d i n) : Heard s (.wtRead d i n) none false 0
  | podForm (a b f) : Heard s (.podForm a b f) none false 0
  | podRoute (i l) : Heard s (.podRoute i l) none false 0
  | cellarPool (l) : Heard s (.cellarPool l) none s.ownsProtected 1
  | cellarWithdraw (d a) : Heard s (.cellarWithdraw d a) none s.ownsProtected 1
  | preemptCoop (c) : Heard s (.preemptCoop c) (some c) false 1
  | preemptForce (c g) : Heard s (.preemptForce c g) (some c) false 1
  | resume (c) : Heard s (.resume c) (some c) false 1
  | keySet (k v) : Heard s (.keySet k v) none true 1
  | keyAssign (k c) : Heard s (.keyAssign k c) (some c) true 1
  | keyErase (k) : Heard s (.keyErase k) none true 1
  | counterAdvance (c v) : Heard s (.counterAdvance c v) none true 1
  | debugUnlock (t) : Heard s (.debugUnlock t) none true 1
  | attest (c n) : Heard s (.attest c n) (some c) true 1
  | lockInterface : Heard s .lockInterface none true 1
  | startInterface : Heard s .startInterface none true 1
  | stopInterface : Heard s .stopInterface none true 1
  | interfaceReport : Heard s .getDeviceInterfaceReport none true 1
  | endSession : Heard s .endSession none true 1
  | spdm (a n) : Heard s (.spdm a n) none false 1
  | timeQuery : Heard s .timeQuery none false 0
  | summary : Heard s .summaryMsg none false 0
  | readyQuery : Heard s .readyQuery none false 0

/-- A message passes what every message is checked for: the security controller and the unit that serves it are ready, its
function is not being reset, it is secured where it must be, and its context is the sender's (20 R469, R472, R477, R483, 21
R485). -/
def Sys2Proof.Claims.Passes (s : State) (ctx : Option Nat) (sec : Bool) (unit : Nat) : Prop :=
  s.units.getLsbD 1 = true ∧ s.units.getLsbD unit = true ∧ (s.fn s.turn.msg.fn).flr = 0
    ∧ (sec = true → s.turn.msg.sec = true)
    ∧ ∀ c, ctx = some c → tfind s.fnOf c = some s.turn.msg.fn ∧ ((s.ctx c).prot = true → s.turn.msg.sec = true)

/-- R469, R472, R477, R483 and 21 R485: a message that fails a check has none of its effect and completes with that check's
status: BAD_STATE while a unit it needs is down, FN_RESETTING while its function is reset, NOT_SECURED where it had to be
secured, and NOT_OWNER for a context of another function. Which of several comes first is the model's order (log 32). -/
def Obligations.MessageChecks : Prop :=
  ∀ (s : State) (i : Instr) (ctx : Option Nat) (sec : Bool) (unit : Nat), Heard s i ctx sec unit →
    let up := s.units.getLsbD 1 = true ∧ s.units.getLsbD unit = true
    let idle := (s.fn s.turn.msg.fn).flr = 0
    let must := sec = true ∨ ∃ c, ctx = some c ∧ (s.ctx c).prot = true
    (¬up → exec i s = .next (done s 6 []))
    ∧ (up → ¬idle → exec i s = .next (done s 4 []))
    ∧ (up → idle → must → s.turn.msg.sec = false → exec i s = .next (done s 2 []))
    ∧ (up → idle → (must → s.turn.msg.sec = true) → (∃ c, ctx = some c ∧ tfind s.fnOf c ≠ some s.turn.msg.fn) →
      exec i s = .next (done s 3 []))

/-- An entry of an object table that 08 R279 allows, from the bytes 8 to 47 of a message that writes entry `idx`. -/
def Sys2Proof.Claims.entryAllowed (b : List Byte) : Prop :=
  let f := fieldAt b
  1 ≤ f 0 8 ∧ f 0 8 ≤ 2 ^ 52 ∧ f 8 8 % 8 = 0 ∧ f 16 2 / 2 ^ 13 % 4 = 0 ∧ f 19 1 < 4
    ∧ (2 ^ 15 ≤ f 16 2 → f 18 1 = 1 ∨ f 18 1 = 2) ∧ (f 16 2 < 2 ^ 15 → f 18 1 = 0)

/-- 20 R469 and R474, 08 R279, R284 and R288: creating, destroying and assigning contexts, writing an object-table entry, and
the three messages about an extent. EXTENT_FATAL ends the oldest of the accesses that the extent holds in a trap, among its parked
writes, its held streams, its transfers and its remote atomics. -/
def Obligations.ContextMessages : Prop :=
  ∀ s : State,
    let f := s.turn.msg.fn
    (∀ c p n, Passes s (some c) p 1 → (s.ctx c).st = .absent → (p = true → (s.fn f).tdi = 2 ∧ s.debug ≠ 2) →
      exec (.ctxCreate c p f n) s = .next (done { s with
        ctxs := tput s.ctxs c { Ctx.init with st := .running, prot := p, fn := f, nobj := n }
        secLog := if p then s.secLog ++ [⟨2, f, c, (s.die 8).ptime, 0⟩] else s.secLog } 0 []))
    ∧ (∀ c, Passes s (some c) false 1 → (s.ctx c).st ≠ .absent → s.ctxSlots c = [] →
      ∃ u : State, exec (.ctxDestroy c) s = .next u ∧ u.ctxs = terase s.ctxs c
        ∧ u.keys = s.keys.filter (fun e => e.2.ctx != some c) ∧ u.waiting = s.waiting.filter (fun l => l.ctx != c)
        ∧ u.launches = s.launches.filter (fun e => e.2.ctx != c) ∧ u.tasks = s.tasks ∧ u.pairs.map (·.1) = s.pairs.map (·.1)
        ∧ (u.fn f).waiting.length = (s.fn f).waiting.length + 1)
    ∧ (∀ c n, Passes s none false 1 → f = 0 → (s.ctx c).st = .absent →
      exec (.fnAssign c n) s = .next (done { s with fnOf := if n = 255 then terase s.fnOf c else tput s.fnOf c n } 0 []))
    ∧ (∀ c i b, Passes s (some c) false 1 → (s.ctx c).st ≠ .absent → s.entryLoaded c i = false → i < (s.ctx c).nobj →
      entryAllowed b →
      let x := s.ctx c
      let g := fieldAt b
      let old := tfind x.objs i
      let gid := match old with | some r => r.desc.gid | none => s.nextGid
      let o : ObjDesc := ⟨i, gid, g 0 8, g 8 8, decide (2 ^ 15 ≤ g 16 2), g 16 2 % 2 ^ 13, g 18 1, decide (g 19 1 % 2 = 1),
        decide (2 ≤ g 19 1)⟩
      exec (.objWrite c i b) s = .next (done { s with
        ctxs := tput s.ctxs c { x with objs := tput x.objs i ⟨o, g 20 4, g 24 8, g 32 8⟩ }
        nextGid := if old.isSome then s.nextGid else s.nextGid + 1 } 0 (bytesOf 6 gid)))
    ∧ (∀ c i e r, Passes s (some c) false 1 → tfind (s.ctx c).objs i = some r →
      (∃ z : State, exec (.extentInvalidate c i e) s = .next ((done z 0 []).tellFn f 0x8030 [c, i, e])
        ∧ (∀ k, ∀ x ∈ (z.core k).xcache, ¬(x.ctx = c ∧ x.obj = i ∧ x.ext = e)) ∧ z.turn = s.turn)
      ∧ (∃ u : State, exec (.extentMap c i e) s = .next u ∧ u.heldAt c i e = []
        ∧ u = { done s 0 [] with tasks := u.tasks, heldSince := u.heldSince })
      ∧ (s.doomed c i e = [] → ∃ u : State, exec (.extentFatal c i e) s = .next u ∧ (u.ctx c).st = .halted ∧ (u.ctx c).halt = true
        ∧ u.mem = s.mem)
      ∧ ∀ age k eng h l, s.doomed c i e = (age, k, eng, h) :: l →
        (∀ x ∈ l, age ≤ x.1)
        ∧ (s.isAbsent c = false → s.bound k = true → (s.ctx c).st = .running →
          ∃ z : State, exec (.extentFatal c i e) s = .next (z.raiseTrap k ⟨eng, 0x08, 0, extAddr h e, z.epc k eng⟩)
            ∧ (∀ n, ∀ x ∈ (z.core n).sidelog, ¬(x.ctx = c ∧ x.obj = i ∧ x.ext = e))
            ∧ (∀ x ∈ (z.ctx c).moved, ¬(x.ctx = c ∧ x.obj = i ∧ x.ext = e)) ∧ z.mem = s.mem
            ∧ (s.xfersAwaiting c i e = [] → s.requestsAwaiting c i e = [] → z.tasks = s.tasks)))

/-- 15 R373 to R376, 14 R367, 12 R330, R332 and R336: creating, changing, ringing, restarting, destroying and reading a queue,
loading and withdrawing a code object, and asking for a pre-emption or a resume. -/
def Obligations.QueueCodeAndPreemptionMessages : Prop :=
  (∀ (s : State) (q : Nat) (a : QueueAttr),
    a.prio ≤ 7 → a.rbase % 64 = 0 → 64 ≤ a.rsize → a.rsize ≤ 2 ^ 24 → a.rsize % 64 = 0 → 1 ≤ a.nh → a.nh ≤ 256 → a.ibase % 128 = 0 →
    s.devUp (a.hlist % 2 ^ 39) = true →
    (Passes s (some a.ctx) false 2 → (s.queue q).live = false → (s.ctx a.ctx).st ≠ .absent →
      exec (.queueCreate q a) s = .next (done (s.setQueue q { Queue.init with live := true, attr := a, objs := s.queueWindow a })
        0 []))
    ∧ (Passes s (some a.ctx) false 2 → (s.queue q).live = true → (s.queue q).st = .created ∨ (s.queue q).st = .stopped →
      (s.queue q).attr.ctx = a.ctx →
      exec (.queueConfig q a) s = .next (done (s.setQueue q { s.queue q with attr := a, objs := s.queueWindow a }) 0 [])))
  ∧ (∀ (s : State) (q : Nat), let x := s.queue q
    x.live = true → Passes s (some x.attr.ctx) false 2 →
    (∀ h, h % 8 = 0 → h < x.attr.rsize → exec (.queueDoorbell q h) s
      = .next (done (s.setQueue q { x with head := h, st := if x.st = .created then .running else x.st }) 0 []))
    ∧ (∀ h, h % 8 ≠ 0 ∨ x.attr.rsize ≤ h → ∃ u : State, exec (.queueDoorbell q h) s = .next u ∧ u.queues = s.queues)
    ∧ (∀ l : Word, x.st = .stopped ∨ x.st = .halted → l.toNat % 8 = 0 → (x.calls = [] → l.toNat < x.attr.rsize) →
      exec (.queueRestart q l) s = .next (done (s.setQueue q { x with
        pc := l, tail := if x.calls = [] then l.toNat else x.tail, st := .running, code := 0, waitk := 0, cur := none }) 0 []))
    ∧ (x.st = .created ∨ x.st = .stopped ∨ x.st = .halted →
      ∃ u : State, exec (.queueDestroy q) s = .next u ∧ u.queues = terase s.queues q ∧ u.ctxs = s.ctxs ∧ u.mem = s.mem)
    ∧ (s.turn.msg.buf.toNat % 64 = 0 → exec (.queueRead q) s = .next (buffered s (s.queueRecord q)))
    ∧ (s.turn.msg.buf.toNat % 64 ≠ 0 → exec (.queueRead q) s = .next (done s 1 [])))
  ∧ (∀ (s : State) (c a n : Nat), Passes s (some c) false 3 → (s.ctx c).st ≠ .absent →
    let b := s.getBytes (2 ^ 64 + a) n
    (∀ code detail, loadObject b = .error (code, detail) →
      exec (.codeLoad c a n) s = .next (done s (0x0100 + code) (bytesOf 4 detail ++ bytesOf 4 0)))
    ∧ ∀ h l, loadObject b = .ok (h, l) →
      ((headerOf b).imgcls = 1 → h.svn < tget 0 s.fuses 3 →
        exec (.codeLoad c a n) s = .next (done s 0x0106 (bytesOf 4 h.svn ++ bytesOf 4 (tget 0 s.fuses 3))))
      ∧ ((headerOf b).imgcls ≠ 1 ∨ tget 0 s.fuses 3 ≤ h.svn → ∃ u : State, exec (.codeLoad c a n) s = .next u
        ∧ if Config.hasRoom s.freeIdx = false then
            u = done { s with freeIdx := s.freeIdx + 1 } 0x0107 (bytesOf 4 n ++ bytesOf 4 0)
          else ∃ (z : State) (x : CodeObj), u = done z 0x0100 (bytesOf 4 0 ++ bytesOf 4 s.nextCode)
            ∧ z = { s with freeIdx := s.freeIdx + 1, mem := z.mem, codes := tput s.codes s.nextCode x,
                           nextCode := s.nextCode + 1, nextGid := z.nextGid }
            ∧ (x.ctx = c ∧ x.usable = false ∧ x.withdrawn = false ∧ x.svn = h.svn ∧ x.hs = sha256 b)
            ∧ x.sizeS = (kindBytes l 1).length ∧ x.sizeV = (kindBytes l 2).length ∧ x.sizeM = (kindBytes l 3).length
            ∧ x.sizeX = (kindBytes l 4).length))
  ∧ (∀ (s : State) (d : Nat) (x : CodeObj), tfind s.codes d = some x → Passes s (some x.ctx) false 3 →
    ∃ u : State, exec (.codeUnload d) s = .next u ∧ (tsorted s.codes = true → ∀ y, tfind u.codes d = some y → y = { x with withdrawn := true })
      ∧ u.mem = s.mem ∧ u.tasks = s.tasks)
  ∧ ∀ (s : State) (c : Nat), let x := s.ctx c
    Passes s (some c) false 1 →
    (x.st = .running → x.stage = .none →
      exec (.preemptCoop c) s = .next (done (s.setCtx c { x with coop := true }) 0 [])
      ∧ ∀ g, (∀ e ∈ s.pairs, e.2.owner = some c → (s.pair e.1).diversions.length < 8) →
        (∀ l, s.sectionsFor (s.contextPairs c) s.sectionsInUse = some l → exec (.preemptForce c g) s
          = .next (done (s.setCtx c { x with sections := l, halt := true, stage := .halting, gang := g }) 0 []))
        ∧ (s.sectionsFor (s.contextPairs c) s.sectionsInUse = none → exec (.preemptForce c g) s = .next (done s 0x0203 [])))
    ∧ (x.st = .preempted → x.stage = .none → s.sectionsLost c = false →
      exec (.resume c) s = .next (done (s.setCtx c { x with stage := .resuming }) 0 []))
    ∧ (x.st = .saved → ∃ u : State, exec (.resume c) s = .next u ∧ (u.ctx c).st = .running ∧ (u.ctx c).coop = false
      ∧ ∀ q, (s.queue q).live = true → (s.queue q).attr.ctx = c → (s.queue q).st = .saved → (u.queue q).st = .running)

/-- 16 R419 to R428, 18 R435 and R448, 19 R453, R457, R462 and R466, 20 R473 and R474, 21 R484, R488 and R489: the messages of
live service: adapters, model versions and weight objects, readiness and warm reset, retraining and re-calibration, firmware,
reading, time, the pod, and the cellar pool. -/
def Obligations.ServiceMessages : Prop :=
  (∀ (s : State) (k : Nat) (a : Adapter), s.adapter k = a →
    let f := s.turn.msg.fn
    let all := s.checkCores
    (∀ (i : AdpInstall) (v : VerEnt) (e : Nat), Passes s none (s.ctx a.owner).prot 4 → s.installOk k f i = true → e < 2 →
      (s.model a.model).findVer i.bver [2, 3] = some e → (s.model a.model).entry e = v →
      (i.kind = 1 → i.parent < 0xFFF) → ∃ u : State, exec (.adpInstall k i) s = .next u
        ∧ u.adapter k = { a with
            st := 2, kind := i.kind, bver := i.bver, rankm1 := i.rankm1, eidx := i.eidx, parent := i.parent, aidx := i.aidx
            bidx := i.bidx, ridx := i.ridx, acks := all }
        ∧ ((u.model a.model).entry e).refs = v.refs + 1
        ∧ (i.kind = 1 → (u.adapter i.parent).refs = (s.adapter i.parent).refs + 1)
        ∧ u = done { s with adapters := u.adapters, models := u.models } 0 [])
    ∧ (∀ i, Passes s none (s.ctx a.owner).prot 4 → s.installOk k f i = false →
      exec (.adpInstall k i) s = .next (done s 0x0204 (bytesOf 4 0)))
    ∧ (Passes s none false 4 →
      (a.st = 1 → (s.ctx a.owner).fn = f →
        exec (.adpRelease k) s = .next (done (s.setAdapter k { Adapter.init with evictFn := a.evictFn, acks := all }) 0 []))
      ∧ (a.st = 1 → (s.ctx a.owner).fn ≠ f → exec (.adpRelease k) s = .next (done s 0x0204 (bytesOf 4 0)))
      ∧ (all ≠ 0 → a.st = 1 → exec (.adpForceEvict k) s
        = .next ((done s 0 []).setAdapter k { Adapter.init with evictFn := some f, acks := all }))
      ∧ (all ≠ 0 → a.st = 2 ∨ a.st = 3 → 0 < a.refs → ((s.experts k).filter fun e => [2, 3].contains (s.adapter e).st) = [] →
        exec (.adpForceEvict k) s = .next ((done s 0 []).setAdapter k { a with st := 4, evictFn := some f, acks := all }))
      ∧ (a.st = 0 ∨ a.st = 4 → exec (.adpForceEvict k) s = .next (done s 6 []))
      ∧ (s.turn.msg.buf.toNat % 64 = 0 → exec (.adpRead k) s = .next (buffered s a.record))))
  ∧ (∀ (s : State) (k e : Nat) (m : Model) (v : VerEnt), Passes s none false 4 → s.model k = m → e < 2 → m.entry e = v →
    (∀ a : ModelImage, a.svn < tget 0 s.fuses 3 → exec (.modelLoad k e a) s
      = .next (done s 0x0106 (bytesOf 4 a.svn ++ bytesOf 4 (tget 0 s.fuses 3))))
    ∧ (∀ a : ModelImage, tget 0 s.fuses 3 ≤ a.svn → v.st = 0 → (e ≠ m.cur ∨ m.resident = false) → a.wobj + a.nwobj ≤ 65536 →
      (∀ i, a.wobj ≤ i → i < a.wobj + a.nwobj → (s.wobj i).st = 0) →
      (∃ i, a.wobj ≤ i ∧ i < a.wobj + a.nwobj ∧ 64 ≤ (s.wobj i).size) →
      ∃ u : State, exec (.modelLoad k e a) s = .next u
        ∧ (u.model k).entry e = { VerEnt.init with
            vid := a.vid, st := 1, entry := BitVec.ofNat 64 a.entry, wobj := a.wobj, nwobj := a.nwobj, svn := a.svn }
        ∧ (∀ i, a.wobj ≤ i → i < a.wobj + a.nwobj → (u.wobj i).st = 2)
        ∧ (∃ l ∈ u.loads, l.model = k ∧ l.ent = e) ∧ u.mem = s.mem)
    ∧ (e = 1 - m.cur → v.st = 2 → v.meas = true →
      exec (.modelSwitch k) s = .next (done (s.setModel k { m with cur := 1 - m.cur }) 0 []))
    ∧ (v.st = 2 → e ≠ m.cur → 0 < v.refs →
      exec (.modelRetire k e) s = .next (done (s.setModel k (m.setEntry e { v with st := 3 })) 0 []))
    ∧ (v.st = 2 → e ≠ m.cur → v.refs = 0 → ∃ u : State, exec (.modelRetire k e) s = .next u ∧ (u.model k).entry e = VerEnt.init
      ∧ ∀ i, v.wobj ≤ i → i < v.wobj + v.nwobj → (u.wobj i).st = 0)
    ∧ (s.turn.msg.buf.toNat % 64 = 0 → exec (.modelRead k) s = .next (buffered s m.record)))
  ∧ (∀ (s : State) (id : Nat) (lo hi : List Byte), Passes s none true 1 →
    let f := fieldAt lo
    f 0 1 < 3 → f 2 1 < 2 → f 3 1 < 128 → f 4 4 % 64 = 0 → f 8 8 % 64 = 0 → 64 ≤ f 8 8 → f 8 8 ≤ 2 ^ 31 →
    f 4 4 + f 8 8 / 64 ≤ 2 ^ 25 → exec (.wobjWrite id lo hi) s
      = .next (done (s.setWobj id ⟨f 0 1, f 1 1, f 2 1, f 3 1, f 4 4, f 8 8, (s.wobj id).ver,
          BitVec.ofNat 128 (fieldAt hi 0 16), BitVec.ofNat 128 (fieldAt hi 16 16)⟩) 0 []))
  ∧ (∀ s : State, Passes s none false 0 →
    (∀ d, let x := s.die d
      (d < 8 → exec (.readyClear d) s = .next (done (s.setDie d { x with ready := false }) 0 []))
      ∧ (d < 8 → x.st ≠ .online → exec (.warmReset d) s = .next (done s 0x0202 []))
      ∧ (∀ r, d < 8 → x.st = .online → s.busyReason d = some r → exec (.warmReset d) s
        = .next (done s 0x0201 [BitVec.ofNat 8 r]))
      ∧ (d < 8 → x.st = .online → s.busyReason d = none → exec (.warmReset d) s
        = .next (done (s.setDie d { x with st := .offline, warm := 1 }) 0 []))
      ∧ (∀ m, d < 8 → m < 4 → x.st = .online → x.retraining.getLsbD m = false → ∃ u : State, exec (.moduleRetrain d m) s = .next u
        ∧ (u.die d).retraining.getLsbD m = true ∧ (u.die d).modules.getLsbD m = false)
      ∧ (∀ c, d < 8 → x.st = .online → x.lpReady.getLsbD c = true → x.lpRetrain.getLsbD c = false →
        exec (.retrain d c) s = .next (done (s.setDie d { x with lpRetrain := x.lpRetrain ||| BitVec.ofNat 16 (2 ^ c) }) 0 []))
      ∧ (∀ i n, i + n ≤ 2048 → x.st = .online → s.turn.msg.buf.toNat % 64 = 0 → exec (.wtRead d i n) s
        = .next (buffered s (bytesOf 8 (x.wlim * 2 ^ 20 + x.itmax) ++ (List.range n).flatMap fun j =>
          let b := s.bank (2048 * d + i + j)
          bytesOf 8 (b.rcal * 2 ^ 30 + b.spoiled.length * 2 ^ 16 + b.free)))))
    ∧ (∀ col b, b < 128 → s.dieOpen (pairDie col) = true → (s.bank (128 * col + b)).rcal = 0 → exec (.recal col b) s
      = .next (done (s.setBank (128 * col + b) { s.bank (128 * col + b) with rcal := 1 }) 0 []))
    ∧ (∀ me master form, let limit := if form then 50000 else 4000
      ∃ u : State, exec (.podForm me master form) s = .next u
        ∧ u = done { s with pod := { s.pod with member := form, self := me, master := master }, dies := u.dies } 0 []
        ∧ ∀ k, let x := s.die k
          u.die k = if x.unlk = false ∧ limit < x.bound then { x with unlk := true, bound := 0x7FFFFFFF } else x)
    ∧ (∀ i l, i + l.length ≤ 256 → ∃ u : State, exec (.podRoute i l) s = .next u
      ∧ (∀ n, tfind u.pod.routes n = if i ≤ n then (l[n - i]?).or (tfind s.pod.routes n) else tfind s.pod.routes n)
      ∧ u = done { s with pod := { s.pod with routes := u.pod.routes } } 0 [])
    ∧ (∃ (host : Word) (b : Nat), b ≤ 1000000 ∧ exec .timeQuery s = .next (done { s with freeIdx := s.freeIdx + 1 } 0
        (bytesOf 8 (s.die 8).ptime.toNat ++ bytesOf 8 host.toNat ++ bytesOf 4 b)))
    ∧ (s.turn.msg.buf.toNat % 64 = 0 → exec .summaryMsg s = .next (buffered s s.summaryBytes)
      ∧ exec .readyQuery s = .next (buffered s (bytesOf 32 s.readyMap ++ bytesOf 32 s.modelMap))))
  ∧ ∀ s : State,
    (∀ cls d, Passes s none false 1 → s.firmwareIdle cls d = true → cls < 2 → (cls = 1 → d = 0) →
      let spare := s.spareImage cls d
      (∀ v a n, ∃ u : State, exec (.fwWrite cls d v a n) s = .next u
        ∧ u.spareImage cls d = some ⟨v, sha256 (s.getBytes (2 ^ 64 + a) n), decide (tget 0 s.fuses cls ≤ v)⟩
        ∧ u = done { s with dies := u.dies, cfeA := u.cfeA, cfeB := u.cfeB } 0 [])
      ∧ (∀ i : FwImage, spare = some i → (cls = 0 → s.partsBusy d = false) →
        (i.ok = false → exec (.fwSwitch cls d) s = .next (done s 0x0106 (bytesOf 4 i.svn ++ bytesOf 4 (tget 0 s.fuses cls))))
        ∧ (i.ok = true → cls = 1 → exec (.fwSwitch cls d) s = .next (done { s with cfeSwitching := true } 0 []))
        ∧ (i.ok = true → cls = 0 → exec (.fwSwitch cls d) s
          = .next (done (s.setDie d { s.die d with fwSwitching := true }) 0 []))))
    ∧ (Passes s none s.ownsProtected 1 →
      (∀ l, (∀ i < l.length, s.sectionOk l i = true) →
        exec (.cellarPool l) s = .next (done { s with cellar := s.cellar ++ l } 0 (bytesOf 4 l.length)))
      ∧ (∀ l i, i < l.length → s.sectionOk l i = false → (∀ j < i, s.sectionOk l j = true) →
        exec (.cellarPool l) s = .next (done s 0x0204 (bytesOf 4 (i + 1))))
      ∧ (∀ d a, s.sectionsInUse.contains (keyLpddr d a) = true → exec (.cellarWithdraw d a) s = .next (done s 6 []))
      ∧ ∀ d a, s.sectionsInUse.contains (keyLpddr d a) = false → s.cellar.contains (d, a) = true →
        exec (.cellarWithdraw d a) s = .next (done { s with cellar := s.cellar.filter fun e => e != (d, a) } 0 []))

/-- 20 R475 to R483 and 14 R372: keys, counters, debug unlock, attestation, the interface states and the session. -/
def Obligations.TrustMessages : Prop :=
  ∀ s : State,
    let f := s.turn.msg.fn
    let x := s.fn f
    let buf := s.turn.msg.buf.toNat
    (Passes s none true 1 →
      (∀ k key, tfind s.keys k = none → exec (.keySet k key) s = .next (done { s with keys := tput s.keys k ⟨key, none⟩ } 0 []))
      ∧ (∀ k, (tfind s.keys k).isSome = true → ∀ key, exec (.keySet k key) s = .next (done s 6 []))
      ∧ (∀ k, ∃ z : State, exec (.keyErase k) s = .next (done z 0 []) ∧ z.keys = terase s.keys k)
      ∧ (∀ c v, tget 0 s.fuses c ≤ v → exec (.counterAdvance c v) s
        = .next (done { s with fuses := tput s.fuses c v, secLog := s.secLog ++ [⟨3, f, c, (s.die 8).ptime, v⟩] } 0 []))
      ∧ (∀ c v, v < tget 0 s.fuses c → exec (.counterAdvance c v) s = .next (done s 0x0204 (bytesOf 4 0)))
      ∧ (∀ t, ∃ u : State, exec (.debugUnlock t) s = .next u
        ∧ if Config.tokenValid t = false then u = done s 0x0204 (bytesOf 4 0)
          else
            let n := if ∃ e ∈ s.ctxs, e.2.prot = true ∧ e.2.st ≠ .absent then 1 else 0
            u = done { s with debug := 2 - n, secLog := s.secLog ++ [⟨1, f, 0, (s.die 8).ptime, n⟩] } 0 [BitVec.ofNat 8 n])
      ∧ (buf % 64 = 0 →
        (x.tdi = 0 → ∃ b, exec .lockInterface s = .next (buffered { s.setFn f { x with tdi := 1 } with freeIdx := s.freeIdx + 1 } b))
        ∧ (x.tdi = 1 → ∃ b, exec .startInterface s
          = .next (buffered { s.setFn f { x with tdi := 2 } with freeIdx := s.freeIdx + 1 } b))
        ∧ (1 ≤ x.tdi → x.tdi ≤ 3 → ∃ b, exec .getDeviceInterfaceReport s
          = .next (buffered { s with freeIdx := s.freeIdx + 1 } b))
        ∧ (1 ≤ x.tdi → x.tdi ≤ 3 → ∃ u : State, exec .stopInterface s = .next u ∧ (u.fn f).flr = 1 ∧ (u.fn f).rst = true
          ∧ (∀ c ∈ s.fnCtxs f, (u.ctx c).st = .halted ∧ (u.ctx c).halt = true) ∧ u.tasks = s.tasks)
        ∧ (x.sess = true → ∃ u : State, exec .endSession s = .next u ∧ (u.fn f).sess = false
          ∧ (x.tdi = 1 ∨ x.tdi = 2 → (u.fn f).tdi = 3 ∧ ∀ c ∈ s.fnCtxs f, (s.ctx c).prot = true → (u.ctx c).st = .halted)))
      ∧ (x.tdi ≠ 0 → exec .lockInterface s = .next (done s 6 []))
      ∧ (x.tdi ≠ 1 → exec .startInterface s = .next (done s 6 [])))
    ∧ (∀ k c key old, Passes s (some c) true 1 → tfind s.keys k = some ⟨key, old⟩ →
      exec (.keyAssign k c) s = .next (done { s with keys := tput s.keys k ⟨key, some c⟩ } 0 []))
    ∧ (∀ c n, Passes s (some c) true 1 → (s.ctx c).st ≠ .absent → buf % 64 = 0 →
      exec (.attest c n) s = .next (buffered s (s.report c n)))
    ∧ ∀ a n, Passes s none false 1 → ∃ u : State, exec (.spdm a n) s = .next u
      ∧ let b := s.getBytes (2 ^ 64 + a) n
        let t := { s with freeIdx := s.freeIdx + 1 }
        let v := t.setTurn { s.turn with msg := { s.turn.msg with sec := x.sess } }
        match Config.spdmKind b s.freeIdx with
        | 1 => u = (t.setFn f { x with sess := true }).respond b
        | 2 => exec .lockInterface v = .next u
        | 3 => exec .startInterface v = .next u
        | 4 => exec .stopInterface v = .next u
        | 5 => exec .getDeviceInterfaceReport v = .next u
        | 6 => exec .endSession v = .next u
        | 7 => u = t.loseSession f
        | _ => u = t.respond b

/-! ## Events -/

/-- 01 R20 to R39, 04 R141 to R156, 06 R227 to R230, 07 R252 and R271, 12 R322 to R325: what happens to tasks and their
engines between words. An engine takes the oldest block of its queue once the block's tokens have completed; a production
completes, oldest of its token first, when its word has ended and nothing in flight belongs to it; waits end; TRIG's signal is
sent and EXIT retires; a matrix binding ends and its accumulators are cleared; a PHASE move ends; engines stop with their
records written, and a trap is delivered once all have. An event whose condition does not hold changes nothing. -/
def Obligations.TaskEvents : Prop :=
  (∀ (s : State) (k : Nat) (t : Task), tfind s.tasks k = some t →
    let owed := s.owedList
    let quiet := { t with hold := Hold.init, waits := [] }
    (∀ (eng : Engine) (n : Nat) (b : Block) (rest : List Block),
      (eng, n) ∈ [(Engine.vector, 1), (Engine.matrix, 2), (Engine.transfer, 3)] → s.mayRun k = true → (t.eng n).cur = none →
      (t.eng n).queue = b :: rest → (∀ c ∈ s.chans, c.carries k = false) → (∀ q ∈ s.queued, q.owed.slot ≠ k) →
      ((∃ g ∈ b.waits, t.genDone g = false) → exec (.engineBlockBegin k eng) s = .next s)
      ∧ ((∀ g ∈ b.waits, t.genDone g = true) → (n = 1 → b.runs ≠ 0) → ∃ u : State, exec (.engineBlockBegin k eng) s = .next u
        ∧ (u.task k).eng n = ⟨rest, some { b.begun with from_ := t.posV }, b.start⟩
        ∧ (n = 3 → (u.task k).xrf = (t.xrf.place 1 b.x1).place 2 b.x2)
        ∧ (n = 2 → b.nest = false → u.mat (slotPair k) = { s.mat (slotPair k) with
            act := (s.mat (slotPair k)).shadow, shadow := (s.mat (slotPair k)).act })
        ∧ u = { s with tasks := u.tasks, mats := u.mats }))
    ∧ (∀ (tk : BitVec 6) (p : Prod) (l1 l2 : List Prod), t.prods = l1 ++ p :: l2 → p.gen.tok = tk.toNat →
      (∀ q ∈ l1 ++ l2, q.gen.tok ≠ tk.toNat) → tsorted t.toks = true →
      ∃ u : State, exec (.tokenComplete k tk p.gen.gen) s = .next u ∧ u = { s with tasks := u.tasks }
        ∧ (prodQuiet owed k p = true → (u.task k).tok tk.toNat = { t.tok tk.toNat with c := p.gen.gen }
          ∧ ∀ q ∈ (u.task k).prods, q.gen.tok ≠ tk.toNat)
        ∧ (prodQuiet owed k p = false → (u.task k).tok tk.toNat = t.tok tk.toNat ∧ p ∈ (u.task k).prods))
    ∧ (t.hold.kind = .twait →
      (t.genDone ⟨t.hold.a, t.hold.v.setWidth 16⟩ = true → (∀ g ∈ t.waits, t.genDone g = true) →
        exec (.twaitRelease k) s = .next (s.setTask k quiet))
      ∧ (t.genDone ⟨t.hold.a, t.hold.v.setWidth 16⟩ = false → exec (.twaitRelease k) s = .next s))
    ∧ (t.hold.kind = .waitdep →
      (s.producersDone t.lnum = true → exec (.waitdepRelease k) s = .next (s.setTask k quiet))
      ∧ (s.producersDone t.lnum = false → exec (.waitdepRelease k) s = .next s))
    ∧ (t.hold.kind = .txwait →
      (s.phaseLeft k t.hold.v = true → exec (.txwaitRelease (.scalar k)) s = .next (s.setTask k quiet))
      ∧ (s.phaseLeft k t.hold.v = false → exec (.txwaitRelease (.scalar k)) s = .next s))
    ∧ (∀ r, t.xfer.cur = some r → r.hold.kind = .txwait → s.phaseLeft k r.hold.v = true → exec (.txwaitRelease (.transfer k)) s
      = .next (s.setTask k { t with xfer := { t.xfer with cur := some { r with hold := Hold.init } } }))
    ∧ (t.hold.kind ∉ [WaitK.none, .twait, .bar, .exit] → exec (.stallResume (.scalar k)) s = .next (s.setTask k quiet))
    ∧ (∀ r, t.vec.cur = some r → r.hold.kind ∉ [WaitK.none, .twait, .bar, .exit] → exec (.stallResume (.vector k)) s
      = .next (s.setTask k { t with vec := { t.vec with cur := some { r with hold := Hold.init } } }))
    ∧ (t.trigPend = true →
      (s.trigReady k = false → exec (.trigSignal k) s = .next s)
      ∧ (∀ l, s.trigReady k = true → tfind s.launches t.lnum = some l → exec (.trigSignal k) s
        = .next { s.setTask k { t with trig := true, trigPend := false } with
            launches := tput s.launches t.lnum { l with trigged := l.trigged + 1 } }))
    ∧ (s.mayRun k = true → t.hold.kind = .exit →
      (s.exitReady k = false → exec (.exitRetire k) s = .next s)
      ∧ (∀ l, s.exitReady k = true → tfind s.launches t.lnum = some l → tsorted s.tasks = true →
        ∃ u : State, exec (.exitRetire k) s = .next u ∧ u.bound k = false ∧ (∀ j, j ≠ k → u.task j = s.task j)
          ∧ tfind u.launches t.lnum = some { l with
              exited := l.exited + 1, trigged := if t.trig then l.trigged else l.trigged + 1 }
          ∧ u = { s with tasks := u.tasks, launches := u.launches, pairs := u.pairs, mats := u.mats, mem := u.mem
                         chans := u.chans, queued := u.queued, poison := u.poison, heldSince := s.heldSince.filter fun e => agentSlot e.1 != some k
                         regPoison := s.regPoison.filter fun e => e.1 != k }))
    ∧ ((s.ctx t.ctx).halt = true → 512 ≤ t.frame →
      ∀ eng n, (eng, n) ∈ [(Engine.control, 0), (Engine.vector, 1), (Engine.matrix, 2), (Engine.transfer, 3)] →
        ∃ u : State, exec (.engineStop k eng) s = .next u ∧ u = { s with tasks := u.tasks, mem := u.mem }
          ∧ SameOutside s u (frameKey t (t.frame - 512)) 512
          ∧ (n ≠ 2 → u.task k = t)
          ∧ (n = 2 → { u.task k with mat := t.mat } = { t with stopped := true } ∧ (u.task k).mat.queue = t.mat.queue
            ∧ (u.task k).mat.pc = t.mat.pc ∧ (u.task k).mat.cur.map (fun r => { r with block := none })
              = t.mat.cur.map fun r => { r with block := none })
          ∧ (s.memWf → u.getNat (frameKey t (t.frame - 512 + 64 * n)) 2 = 1 + 256 * n)))
  ∧ (∀ (s : State) (p : Nat),
    let m := s.mat p
    let x := s.pair p
    (m.ending = true → exec (.matrixBindingEnd p) s = .next (s.setMat p { m with
      ending := false, clearing := true, acc := [], act := none, shadow := none, latched := none, parked := none
      reload := false }))
    ∧ (m.clearing = true → s.matrixReserved p = none → ∃ b, exec (.accClearEnd p) s
      = .next (s.setMat p { m with clearing := false, bound := b })
      ∧ (∀ k, b = some k → slotPair k = p ∧ slotLoft k = false ∧ s.bound k = true ∧ (s.task k).wantsMat = true)
      ∧ (b = none → ∀ k ∈ pairSlots p, slotLoft k = false → s.bound k = true → (s.task k).wantsMat = false))
    ∧ (x.mov = true → 2048 * (max x.cmib x.tgt - min x.cmib x.tgt) ≤ ((s.die (pairDie p)).cycle - x.movStart).toNat →
      x.cache = [] → ∃ u : State, exec (.phaseMoveEnd p) s = .next u ∧ (u.pair p).cmib = x.tgt ∧ (u.pair p).mov = false
        ∧ (∀ a, (s.movingRegion p).1 ≤ a → a < (s.movingRegion p).2 → u.getByte (keyLs p a) = 0)
        ∧ (∀ a, a < keyLs p (s.movingRegion p).1 ∨ keyLs p (s.movingRegion p).2 ≤ a → u.getByte a = s.getByte a))
    ∧ ((s.die (pairDie p)).cycle.toNat / 32 ≤ m.win → exec (.governorWindow p) s = .next s)
    ∧ (m.win < (s.die (pairDie p)).cycle.toNat / 32 → m.beats = 0 → m.stalls < 2 ^ 64 → ∃ e, exec (.governorWindow p) s
        = .next (s.setMat p { m with eff := e, prev := m.prev - m.step, win := m.win + 1 })
      ∧ (m.eff ≤ m.budget → m.eff ≤ e ∧ e ≤ m.budget) ∧ (m.budget ≤ m.eff → m.budget ≤ e ∧ e ≤ m.eff)
      ∧ (m.eff ≤ m.budget → e - m.eff ≤ m.step) ∧ (m.budget ≤ m.eff → m.eff - e ≤ m.step))
    ∧ (s.skidding p = none → ∀ n, exec (.matrixHaltSkidEnd p n) s = .next s)
    ∧ ∀ k, s.skidding p = some k →
      (s.matrixInstr k = none → ∀ n, exec (.matrixHaltSkidEnd p n) s = exec (.engineStop k .matrix) s)
      ∧ ∀ n i r t, s.matrixInstr k = some i → (s.task k).mat.cur = some r →
        partialWord i n (s.beginTurn (.matrix k) r.pc r.pc) = .next t →
        ((∃ c v, t.turn.stop = .trapped c v) → exec (.matrixHaltSkidEnd p n) s = .next t)
        ∧ (∀ q, t.turn.stop = .none → (t.task k).mat.cur = some q → q.split = true →
          exec (.matrixHaltSkidEnd p n) s = .next (t.stopEngine k 2)))
  ∧ (∀ (s : State) (c : Nat),
    let now := (s.die (coreDie c)).cycle.toNat / 64
    ((s.core c).fwWindow = now → exec (.fwshareWindow c) s = .next s)
    ∧ ((s.core c).fwWindow ≠ now → exec (.fwshareWindow c) s = .next (s.setCore c { s.core c with fwCount := 0, fwWindow := now }))
    ∧ (∀ pc, (s.fw c).halted = false ∨ (c % 2 = 1 ∧ (s.die (coreDie c)).loft = false) → exec (.firmwareContextRestart c pc) s = .next s)
    ∧ (∀ pc, (s.fw c).halted = true → c % 2 = 0 ∨ (s.die (coreDie c)).loft = true → exec (.firmwareContextRestart c pc) s
      = .next (s.setFw c { s.fw c with halted := false, hart := { (s.fw c).hart with pc := pc } }))
    ∧ (s.quiet c = false → exec (.trapDelivery c) s = .next s)
    ∧ ∀ k r l, s.quiet c = true → (s.ctx c).st = .running → s.ctxSlots c = [k] → (s.task k).raised = r :: l →
      (s.task k).hart.inhdl = false → r.cause ∉ [0x08, 0x0D, 0x10] → tsorted s.tasks = true → 512 ≤ (s.task k).frame →
      let t := s.task k
      ∃ u : State, exec (.trapDelivery c) s = .next u
        ∧ (u.task k).hart = { t.hart with
            rf := t.hart.rf.settle, p := t.land.hart.p, pendP := []
            tcause := BitVec.ofNat 64 (r.cause + 512 * r.eng + 4096 * r.orig), tval := r.val, tepc := r.tepc, inhdl := true
            mpark := t.mat.cur.isSome, pc := t.hart.tvec &&& ~~~3 }
        ∧ (∃ m, (u.task k).aside = some ⟨t.vec, m, t.xfer, t.hold, t.waits, t.serial⟩ ∧ m.queue = t.mat.queue ∧ m.pc = t.mat.pc
          ∧ m.cur.map (fun r => { r with block := none }) = t.mat.cur.map fun r => { r with block := none })
        ∧ (u.task k).raised = [] ∧ (u.task k).later = t.later ++ l.filter Raised.isLoss ∧ (u.ctx c).halt = ((s.ctx c).stage != .none)
        ∧ SameOutside s u (frameKey t (t.frame - 512)) 512)

/-- 07 R273, 08 R283 to R287 and R295, 09 R314, 12 R330 to R337, R344, 19 R458 and R460: the stages of a forced pre-emption,
what reaches an absent context, its resume, the cooperative kind, a stairwell that closes, extent walks, the side log, lines
that go back to their homes, and the numbered messages between dies. -/
def Obligations.PreemptionAndMemoryEvents : Prop :=
  (∀ (s : State) (c : Nat), let x := s.ctx c
    (x.stage = .halting → s.quiet c = true → (∀ k ∈ s.ctxSlots c, (s.task k).raised = []) →
      (∀ e ∈ x.sections, (s.pair e.1).mov = false) →
      (∃ u : State, exec (.preemptArm c) s = .next u ∧ (u.ctx c).stage = .armed ∧ (u.ctx c).sections = []
        ∧ (∀ k, u.bound k = s.bound k)
        ∧ (∀ e ∈ x.sections, (∃ v ∈ (u.ctx c).saved, v.pair = e.1 ∧ v.section_ = e.2 ∧ v.log = [])
          ∧ ((s.pair e.1).owner = some c → ⟨(s.pair e.1).epoch, c, e.2⟩ ∈ (u.pair e.1).diversions)))
      ∧ ∀ p key, x.sections = [(p, key)] → (s.pair p).owner = some c → (s.pair p).cache = [] → key + 2 ^ 25 ≤ 2 ^ 39 → p < 128 →
        s.queued = [] → s.memWf → ∃ u : State, exec (.preemptArm c) s = .next u
          ∧ ∀ j < 2 ^ 25, u.getByte (key + j) = if s.storeLive c p j = true then s.getByte (keyLs p j) else 0)
    ∧ (s.quiet c = false → exec (.preemptArm c) s = .next s)
    ∧ (x.stage = .armed → tsorted s.tasks = true → ∃ u : State, exec (.preemptFree c) s = .next u
      ∧ (u.ctx c).st = .preempted ∧ (u.ctx c).stage = .none ∧ (u.ctx c).tasks.map (·.slot) = s.ctxSlots c
      ∧ (∀ k ∈ s.ctxSlots c, u.bound k = false)
      ∧ (∀ p ∈ s.ownedPairs c, (u.pair p).owner = none
        ∧ ((s.pair p).diversions.length ≤ 8 → ∀ d ∈ (s.pair p).diversions, d.epoch ≠ (u.pair p).epoch)))
    ∧ (∀ (p : Nat) (v : Saved) (e : LogEnt) (l : List LogEnt), s.section c p = some v → v.log = e :: l →
      ∃ u : State, exec (.diversionFold p c) s = .next u ∧ u.mem = (s.putNibs (v.section_ + e.line) e.bytes).mem
        ∧ u.section c p = some { v with log := l } ∧ u = { s with mem := u.mem, ctxs := u.ctxs })
    ∧ (∀ (v : Saved) (t : SavedTask), x.stage = .resuming → x.saved = [v] → v.owned = true → v.log = [] → v.bars = [] →
      v.faults = [] → x.tasks = [t] → t.mat = none → t.task.deferred = [] → t.task.later = [] → s.ctxSlots c = [] →
      s.resumeFree c v.pair = true → (s.pair v.pair).cache = [] →
      (∃ r, tfind s.slotRecs t.slot = some r ∧ r.valid = true ∧ r.resume = true ∧ r.ctx = c ∧ r.lnum = t.task.lnum
        ∧ r.task = t.task.idx) → s.memWf → v.section_ + 2 ^ 25 ≤ 2 ^ 39 → v.pair < 128 → ∃ u : State, exec (.resumeBind c) s = .next u
        ∧ u.ctx c = { x with st := .running, stage := .none, halt := false, saved := [], tasks := [], stairs := (u.ctx c).stairs }
        ∧ ((s.pair v.pair).stairOwner = some c → (u.ctx c).stairs = x.stairs ∧ (u.pair v.pair).up = v.stairUp ++ (s.pair v.pair).up
          ∧ (u.pair v.pair).down = v.stairDown ++ (s.pair v.pair).down)
        ∧ ((u.pair v.pair).owner = some c ∧ (u.pair v.pair).epoch = v.epoch ∧ (u.pair v.pair).sb = v.sb
          ∧ ∀ d ∈ (u.pair v.pair).diversions, ¬(d.ctx = c ∧ d.epoch = v.epoch))
        ∧ (u.bound t.slot = true ∧ (u.task t.slot).hart = t.task.hart ∧ (u.task t.slot).vec = t.task.vec
          ∧ (u.task t.slot).toks = t.task.toks ∧ (u.task t.slot).lnum = t.task.lnum)
        ∧ ∀ j < 2 ^ 25, u.getByte (keyLs v.pair j) = s.getByte (v.section_ + j))
    ∧ (x.stage = .resuming → (∃ v ∈ x.saved, s.resumeFree c v.pair = false) →
      ∃ u : State, exec (.resumeBind c) s = .next u ∧ u = { s with mgmt := u.mgmt } ∧ u.mgmt.length > s.mgmt.length)
    ∧ (x.coop = true → (∀ e ∈ s.queues, e.2.live = true → e.2.attr.ctx = c → e.2.st ≠ .running ∧ e.2.st ≠ .waiting) →
      (∀ k ∈ s.ctxSlots c, (s.coopMask (s.task k)).isSome = true) → tsorted s.tasks = true →
      ∃ u : State, exec (.coopPreemptComplete c) s = .next u ∧ (u.ctx c).st = .saved ∧ (u.ctx c).coop = false
        ∧ (u.ctx c).tasks.map (·.slot) = s.ctxSlots c ∧ (∀ k ∈ s.ctxSlots c, u.bound k = false)
        ∧ (s.queued = [] → u.mem = s.mem)))
  ∧ (∀ (s : State) (n : Nat), let p := s.pair n
    (p.stair = .closing → p.up = [] → p.down = [] → (∀ k ∈ pairSlots n, slotLoft k = true → s.bound k = false) →
      exec (.stairwellClosed n) s = .next { s with
        pairs := tput s.pairs n { p with stair := .closed, stairOwner := none }
        cores := tput (tput s.cores (2 * n) { s.core (2 * n) with en := false }) (2 * n + 1)
          { s.core (2 * n + 1) with en := false }
        mgmt := s.mgmt ++ [⟨0, 0x10007, [n / 16, n, 2]⟩] })
    ∧ (∀ o, p.stair = .closing → p.up ≠ [] ∨ p.down ≠ [] → 10000 ≤ ((s.die (n / 16)).ptime - p.gateAt).toNat → p.gateAsked = false →
      p.stairOwner = some o →
      let z := s.setPair n { p with gateAsked := true }
      (∀ l, z.forceSections o = some l → exec (.stairwellDrainTimeout n) s
        = .next (z.setCtx o { s.ctx o with sections := l, halt := true, stage := .halting, gang := 0 }))
      ∧ (z.forceSections o = none → exec (.stairwellDrainTimeout n) s
        = .next { z with mgmt := s.mgmt ++ [⟨0, 0x10005, [n / 16, n, o]⟩] }))
    ∧ (∀ line l, tfind p.cache line = some l → tsorted p.cache = true →
      (∀ c ∈ s.chans, (keyHome (line * 128)).die = some c.ch.dst → c.unacked.drop c.applied = []) →
      ∃ u : State, exec (.cacheWriteback n line) s = .next u
      ∧ tfind (u.pair n).cache line = none ∧ SameOutside s u (line * 128) 128
      ∧ u = { s with pairs := u.pairs, mem := u.mem, chans := u.chans }
      ∧ ∀ i < 128, (l.dirty.extractLsb' (2 * i) 2 = 3 → u.getByte (line * 128 + i) = l.data.extractLsb' (8 * i) 8)
        ∧ (l.dirty.extractLsb' (2 * i) 2 = 0 → u.getByte (line * 128 + i) = s.getByte (line * 128 + i)))
    ∧ (∀ line, tfind p.cache line = none → exec (.cacheWriteback n line) s = .next s))
  ∧ (∀ (s : State) (core c obj ext : Nat) (r : ObjRow), tfind (s.ctx c).objs obj = some r →
    let e := s.walkedExtent r.desc ext
    ((extentOf e).present = false → exec (.extentWalk core c obj ext) s = .next s)
    ∧ ((extentOf e).present = true → (extentOf e).ok = true → s.cachedExtent core c obj ext = none →
      ∃ u : State, exec (.extentWalk core c obj ext) s = .next u ∧ u.cachedExtent core c obj ext = some e
        ∧ (u.core core).xcache.length ≤ max 512 (s.core core).xcache.length ∧ u = { s with cores := u.cores }))
  ∧ (∀ (s : State) (n i : Nat) (b : Byte) (e : SideEnt) (q : Place) (t : State), (s.core n).sidelog = [e] → e.bytes = [⟨i, 3, b⟩] →
    e.bar = none → e.red = none → (∀ x ∈ s.ctxs, x.2.moved = []) → i < 128 →
    let z := s.setCore n { s.core n with sidelog := [] }
    let v := z.parkView e
    z.place v (e.addr + BitVec.ofNat 64 i) { wantDest with n := 1 } = .ok q t →
    (q.there = false → ∃ u : State, exec (.sideLogReplay n) s = .next u ∧ (u.core n).sidelog = [e] ∧ u.mem = s.mem)
    ∧ (q.there = true → i ≤ q.key → i ≤ q.off → (∀ o, q.obj = some o → o.prot = false) → (t.core n).sidelog = [] →
      (∀ x ∈ t.ctxs, x.2.moved = []) → ∃ u : State, exec (.sideLogReplay n) s = .next u ∧ (u.core n).sidelog = []
        ∧ u.getByte q.key = b))
  ∧ ∀ (s : State) (ch : Channel) (c : Chan), c ∈ s.chans → c.ch = ch → (∀ x ∈ s.chans, x.ch = ch → x = c) →
    let put := fun (y : Chan) => s.chans.map fun x => if x.ch = ch then y else x
    (∀ m l, c.unacked.drop c.applied = m :: l → exec (.homeMessageApply ch) s = .next { s with
      mem := (s.putNibs m.key m.bytes).mem, chans := put { c with applied := c.applied + 1, expect := c.expect + 1 } })
    ∧ (c.unacked.drop c.applied = [] → exec (.homeMessageApply ch) s = .next s)
    ∧ (0 < c.applied → exec (.messageAck ch) s
      = .next { s with chans := put { c with unacked := c.unacked.drop 1, applied := c.applied - 1 } })
    ∧ exec (.linkResend ch) s = .next { s with
        chans := put { c with applied := (c.unacked.filter fun m => (m.num - c.expect).msb).length } }
    ∧ ∀ d m k,
      let n := s.permitsHeld d m k
      let needed := s.unapplied d m k
      (needed < n → ∃ u : State, exec (.permitReturn d m k) s = .next u ∧ u = { s with dies := u.dies }
        ∧ (tsorted (s.die d).permits = true → u.permitsHeld d m k = n - 1))
      ∧ (n ≤ needed → exec (.permitReturn d m k) s = .next s)

/-- 14 R369, 16 R419, R424 and R427, 18 R437 to R447: the weight tier's engine takes a target from the free pool of the row's
bank, pulses it until its check passes or its limit is reached, flips the row to it, and updates the tree; draining rows
return to the pool or are spoiled; a bank is re-calibrated between requests; a version is measured at start-up; slots and
versions without references go; cores acknowledge a slot's change; a load is recorded in its context's log before its code may
be used. Whether a pulse passes its check is a free value (log 12). -/
def Obligations.TierAndHomeEvents : Prop :=
  (∀ (s : State) (d : Nat), let x := s.die d
    (x.wcur = none → (∀ r ∈ x.wq, s.arrived r = false) → exec (.wpRequestBegin d) s = .next s)
    ∧ (∀ r l, x.wcur = none → x.wq = r :: l → s.arrived r = true → x.st = .online →
      let k := (s.rowOf r.obj r.row).1
      let b := s.bank k
      let run : WpRun := ⟨r, .taken, 0, 0, 0, false, x.wlim, x.itmax⟩
      (b.rcal = 2 → (r.load = true ∨ (s.wobj r.obj).pg.getLsbD r.ctx = true) → exec (.wpRequestBegin d) s = .next s)
      ∧ (∀ t, b.rcal ≠ 2 → (r.load = true ∨ (s.wobj r.obj).pg.getLsbD r.ctx = true) → b.head = some t → b.wearOf t < x.wlim →
        ∃ u : State, exec (.wpRequestBegin d) s = .next u ∧ u.die d = { x with wq := l, wcur := some { run with target := t } }
          ∧ u.bank k = b.pop ∧ u = { s with dies := u.dies, banks := u.banks, mgmt := u.mgmt })
      ∧ (∀ res, (res = 3 → b.rcal ≠ 2) → r.load = false → s.bound r.owed.slot = true → (s.task r.owed.slot).ctx = r.ctx →
        (s.task r.owed.slot).lnum = r.owed.lnum →
        (res = 4 ∧ (s.wobj r.obj).pg.getLsbD r.ctx = false) ∨
          (res = 3 ∧ (s.wobj r.obj).pg.getLsbD r.ctx = true ∧ b.head = none) →
        ∃ u : State, exec (.wpRequestBegin d) s = .next u ∧ (u.die d).wq = l ∧ (u.die d).wcur = none
          ∧ (u.task r.owed.slot).wres = BitVec.ofNat 4 res ∧ (u.task r.owed.slot).witer = 0
          ∧ (u.task r.owed.slot).wseq = (s.task r.owed.slot).wseq + 1
          ∧ (u.task r.owed.slot).wbusy = (s.task r.owed.slot).wbusy - 1 ∧ u.mem = s.mem))
    ∧ (∀ r, x.wcur = some r →
      let e := s.rowOf r.req.obj r.req.row
      let b := s.bank e.1
      let y := { r with n := r.n + 1, iter := r.iter + 1 }
      let worn := min 16777215 (b.wearOf r.target + 1)
      (r.phase = .taken → ∃ u : State, exec (.wpIterationEnd d) s = .next u
        ∧ (tsorted b.wear = true → (u.bank e.1).wearOf r.target = worn)
        ∧ (Config.checkPasses s.freeIdx = true → u.die d = { x with wcur := some { y with phase := .flipping } })
        ∧ (Config.checkPasses s.freeIdx = false → y.iter < r.itmax → worn < r.wlim → tsorted b.wear = true →
          u.die d = { x with wcur := some y })
        ∧ (Config.checkPasses s.freeIdx = false → r.itmax ≤ y.iter → r.target ∈ (u.bank e.1).spoiled))
      ∧ (r.phase = .flipping → r.req.data.length = 64 → tsorted b.map = true → s.memWf → ∃ u : State,
        exec (.wpFlip d) s = .next u ∧ (u.bank e.1).phys e.2 = r.target ∧ (u.bank e.1).draining = b.draining ++ [b.phys e.2]
        ∧ (∀ j < 64, u.getByte (keyWeight e.1 r.target j) = r.req.data.getD j 0)
        ∧ SameOutside s u (keyWeight e.1 r.target 0) 64
        ∧ (u.wobj r.req.obj).ver = ((s.wobj r.req.obj).ver + 1) % 2 ^ 32
        ∧ u.die d = { x with wcur := some { r with phase := .tree } }
        ∧ (r.req.load = false → s.bound r.req.owed.slot = true → (s.task r.req.owed.slot).ctx = r.req.ctx →
          (s.task r.req.owed.slot).lnum = r.req.owed.lnum →
          (u.task r.req.owed.slot).wres = (if r.spoiled then 2 else 1)
          ∧ (u.task r.req.owed.slot).witer = BitVec.ofNat 8 (min r.n 255)))
      ∧ (r.phase = .tree → r.req.load = false → ∃ u : State, exec (.wpTreeUpdateEnd d) s = .next u ∧ (u.die d).wcur = none
        ∧ u.mem = s.mem
        ∧ ∀ v, (s.model (s.wobj r.req.obj).model).entry (s.wobj r.req.obj).vent = v → v.st ≠ 0 → v.wobj ≤ r.req.obj →
          r.req.obj < v.wobj + v.nwobj →
          (u.model (s.wobj r.req.obj).model).entry (s.wobj r.req.obj).vent = { v with root := s.versionRoot v })))
  ∧ (∀ (s : State) (k : Nat), let b := s.bank k
    (∀ row, row ∈ b.draining →
      ((s.die (bankDie k)).wlim ≤ b.wearOf row → ∃ u : State, exec (.drainingRowFree k row) s = .next u
        ∧ u.bank k = { b with draining := b.draining.erase row, spoiled := b.spoiled ++ [row] }
        ∧ u = { s with banks := u.banks, mgmt := u.mgmt })
      ∧ (b.wearOf row < (s.die (bankDie k)).wlim → exec (.drainingRowFree k row) s
        = .next (s.setBank k { b with draining := b.draining.erase row, tail := b.tail ++ [row] })))
    ∧ (b.rcal = 1 → (s.die (bankDie k)).wcur = none → exec (.recalStart k) s = .next (s.setBank k { b with rcal := 2 }))
    ∧ (b.rcal = 1 → (s.die (bankDie k)).wcur ≠ none → exec (.recalStart k) s = .next s)
    ∧ (b.rcal = 2 → exec (.recalEnd k) s = .next (s.setBank k { b with rcal := 0 })))
  ∧ (∀ (s : State) (k e : Nat) (v : VerEnt), e < 2 → (s.model k).entry e = v →
    (v.st = 3 → v.refs = 0 → ∃ u : State, exec (.versionRefsZero k e) s = .next u ∧ (u.model k).entry e = VerEnt.init
      ∧ (∀ i, v.wobj ≤ i → i < v.wobj + v.nwobj → (u.wobj i).st = 0) ∧ u = { s with models := u.models, wobjs := u.wobjs })
    ∧ ((k, e) ∈ s.measured → exec (.modelStartupMeasure k e) s = .next s)
    ∧ (v.st = 2 → v.meas = false → (k, e) ∉ s.measured →
      (∀ i, v.wobj ≤ i → i < v.wobj + v.nwobj → s.dieUp (pairDie (s.wobj i).home) = true) →
      let once := (k, e) :: s.measured
      (v.svn < tget 0 s.fuses 3 → ∃ u : State, exec (.modelStartupMeasure k e) s = .next u
        ∧ (u.model k).entry e = VerEnt.init ∧ (∀ i, v.wobj ≤ i → i < v.wobj + v.nwobj → (u.wobj i).st = 0)
        ∧ u.measured = once ∧ ∃ z : State, u = z.tellHost 0x8002 [8, k, e, 0x0106, v.svn, tget 0 s.fuses 3])
      ∧ (tget 0 s.fuses 3 ≤ v.svn → ∃ u : State, exec (.modelStartupMeasure k e) s = .next u
        ∧ (s.versionRoot v = v.root →
          u = { s.setModel k ((s.model k).setEntry e { v with meas := true }) with measured := once })
        ∧ (s.versionRoot v ≠ v.root → u = { s with measured := once }.tellHost 0x8002 [8, k, e]))))
  ∧ (∀ (s : State) (k : Nat), let a := s.adapter k
    ((a.st = 3 ∨ a.st = 4) → a.refs = 0 → a.kind = 0 → ∃ u : State, exec (.adapterRefsZero k) s = .next u
      ∧ u.adapter k = { Adapter.init with acks := s.checkCores }
      ∧ (∀ e, (s.model a.model).findVer a.bver [2, 3] = some e → 1 < ((s.model a.model).entry e).refs →
        ((u.model a.model).entry e).refs = ((s.model a.model).entry e).refs - 1))
    ∧ (0 < a.refs → exec (.adapterRefsZero k) s = .next s)
    ∧ (∀ c f, let left := a.acks &&& ~~~(BitVec.ofNat 256 (2 ^ c))
      ((left ≠ 0 ∨ a.evictFn = none) → exec (.adapterStateAck c k) s = .next (s.setAdapter k { a with acks := left }))
      ∧ (left = 0 → a.evictFn = some f → exec (.adapterStateAck c k) s
        = .next ((s.setAdapter k { a with acks := 0, evictFn := none }).tellFn f 0x8040 [k]))))
  ∧ ∀ (s : State) (d : Nat) (c : CodeObj), tfind s.codes d = some c →
    (c.usable = true ∨ (∃ e ∈ s.codes, e.2.ctx = c.ctx ∧ e.2.usable = false ∧ e.1 < d) → exec (.loadComplete d) s = .next s)
    ∧ (c.usable = false → c.withdrawn = false → (∀ e ∈ s.codes, e.2.ctx = c.ctx → e.2.usable = false → d ≤ e.1) → let x := s.ctx c.ctx
      exec (.loadComplete d) s = .next { s with
        ctxs := tput s.ctxs c.ctx { x with
          att := sha256 (hashBytes x.att ++ [1] ++ hashBytes c.hs ++ hashBytes c.hn ++ bytesOf 4 c.svn
            ++ bytesOf 4 Config.loaderVersion.toNat)
          log := x.log ++ [⟨c.hs, c.hn, c.svn, d⟩] }
        codes := tput s.codes d { c with usable := true } })

/-- 12 R348, 18 R444, 19 R449 to R468, 21 R485 to R492: start-up and warm-reset steps, time, modules and pod links, budgets
and heat, errors, the loss of a die or of an I/O die, and the loss of power. Without power no agent moves: a step takes the
first thing off the agenda, and only a cold reset has an effect. The bound of an exchange is a free value under its limit (log
19). -/
def Obligations.DieTimeAndPowerEvents : Prop :=
  (∀ s : State, s.power = false → s.events = [] → (s.fns.all fun e => e.2.waiting.isEmpty) = true →
    (∀ l, s.agenda ≠ .event .coldReset :: l) → step s = .next { s with agenda := s.agenda.tail })
  ∧ (∀ (s : State) (x : StartUnit) (ok : Bool) (why : Nat),
    (s.mayStart x = false ∨ x ∈ s.started → exec (.startupStepEnd x ok why) s = .next s)
    ∧ (s.mayStart x = true → x ∉ s.started → ∃ u : State, exec (.startupStepEnd x ok why) s = .next u ∧ u.started = x :: s.started
      ∧ (ok = false ∨ s.imageOk x = false → u.units = s.units ∧ u.dies = s.dies ∧ u.pod = s.pod)
      ∧ (∀ svn floor, s.imageCheck x = some (svn, floor) → svn < floor →
        u = { s with started := x :: s.started }.tellHost 0x8002 (unitName x ++ [0x0106, svn, floor]))
      ∧ (ok = true → s.imageOk x = true → match x with
        | .security => u.units = s.units ||| 2
        | .managementIod k => u.units = s.units ||| BitVec.ofNat 8 (2 ^ (4 + k))
        | .frontEnd => u.units = s.units ||| 4
        | .loader => u.units = s.units ||| 8
        | .hostLink => u.units = s.units ||| 1
        | .die d => u.die d = { s.die d with st := .online, ready := true, modules := 15 }
        | .channel d c => (u.die d).lpReady = (s.die d).lpReady ||| BitVec.ofNat 16 (2 ^ c)
        | .podPort k => u.pod = { s.pod with up := s.pod.up ||| BitVec.ofNat 16 (2 ^ k) })))
  ∧ (∀ (s : State) (d : Nat), let x := s.die d
    let n := x.warm
    let mine := fun (c : Chan) => c.ch.src = d ∨ c.ch.dst = d
    (1 ≤ n → n ≤ 9 → (n = 8 → ∀ c ∈ s.chans, mine c → c.unacked = []) → ∃ u : State, exec (.warmResetStepEnd d) s = .next u
      ∧ (u.die d).warm = (if n = 9 then 0 else n + 1)
      ∧ (n = 1 → ∀ c ∈ u.chans, mine c → c.unacked = [])
      ∧ (n = 3 → ∀ p ∈ diePairs d, (u.pair p).cache = [])
      ∧ (n = 4 → (u.die d).llc = [])
      ∧ (n = 5 → (u.die d).cycle = 0 ∧ (u.die d).unlk = true ∧ (u.die d).wlim = 0xF4240 ∧ (u.die d).itmax = 8
        ∧ (∀ p ∈ diePairs d, ∀ a < 2 ^ 25, u.getByte (keyLs p a) = 0)
        ∧ (∀ e ∈ u.pairs, pairDie e.1 ≠ d) ∧ (∀ e ∈ u.mats, pairDie e.1 ≠ d) ∧ (∀ e ∈ u.fws, coreDie e.1 ≠ d)
        ∧ (∀ a < 2 ^ 64, u.getByte a = s.getByte a))
      ∧ (n = 6 → (u.die d).modules = 15) ∧ (n = 7 → (u.die d).unlk = false)
      ∧ (n = 9 → (u.die d).st = .online ∧ (u.die d).ready = true))
    ∧ ((n = 8 ∧ ∃ c ∈ s.chans, mine c ∧ c.unacked ≠ []) → exec (.warmResetStepEnd d) s = .next s)
    ∧ (∀ delay off, s.timeMaster d = false → ∃ b, b ≤ s.boundLimit ∧ min s.boundLimit (s.spread x) ≤ b ∧ exec (.timeExchange d delay off) s
      = .next { s.setDie d { x with
          delay := delay, offset := off, sinceEx := 0, holdover := false, holdAt := 0, bound := b } with freeIdx := s.freeIdx + 1 })
    ∧ (∀ delay off, s.timeMaster d = true → exec (.timeExchange d delay off) s = .next s)
    ∧ (s.timeMaster d = false → x.holdover = false → 4000 ≤ x.sinceEx → exec (.holdoverEnter d) s
      = .next (s.setDie d { x with holdover := true, holdBase := x.bound, holdAt := x.sinceEx }))
    ∧ (x.holdover = true → x.unlk = false → s.boundLimit < x.bound → exec (.timeUnlock d) s
      = .next (s.setDie d { x with unlk := true, bound := 0x7FFFFFFF }))
    ∧ (x.unlk = true → x.holdover = false → 0 < x.offset → exec (.timeLockAcquire d) s
      = .next (s.setDie d { x with acquiring := true }))
    ∧ (x.unlk = true → x.holdover = false → x.offset ≤ 0 →
      let y := { x with ptime := x.ptime + BitVec.ofNat 64 x.offset.natAbs }
      (s.mayLock d y = false → exec (.timeLockAcquire d) s = .next s)
      ∧ (s.mayLock d y = true → ∃ b, b ≤ s.boundLimit ∧ min s.boundLimit (s.spread y) ≤ b ∧ exec (.timeLockAcquire d) s
        = .next { s.setDie d { y with unlk := false, acquiring := false, offset := 0, bound := b } with freeIdx := s.freeIdx + 1 }))
    ∧ (∀ ns own,
      (x.unlk = false → x.acquiring = false →
        9999 * (ns * 65536) ≤ 10000 * x.rate false ns own ∧ 10000 * x.rate false ns own ≤ 10001 * (ns * 65536))
      ∧ (x.acquiring = true → x.rate false ns own = ns * 32768) ∧ x.rate true ns own = ns * 65536)
    ∧ (∀ ns l, s.inStep = true → (s.elapse ns l).inStep = true)
    ∧ (∀ l i, i < 16 → i < l.length →
      (∃ u : State, exec (.railTelemetry d l) s = .next u ∧ u = { s with mats := u.mats }
        ∧ (u.mat (16 * d + i)).budget = max 1 (min 32 (l.getD i 0)))
      ∧ ∃ u : State, exec (.junctionOvertemp d l) s = .next u
        ∧ (u.mat (16 * d + i)).budget = max 1 (min 32 (min (l.getD i 0) (s.mat (16 * d + i)).budget)))
    ∧ (∀ m, m < 4 → (∀ e < 8, (s.setModule d m false).cutOff e = false) → exec (.ucieModuleDown d m) s
      = .next (s.setDie d { x with modules := x.modules &&& ~~~(BitVec.ofNat 4 (2 ^ m)) }))
    ∧ (∀ m, m < 4 → x.retraining.getLsbD m = true → ∃ u : State, exec (.ucieModuleRetrainEnd d m) s = .next u
      ∧ (u.die d).retraining.getLsbD m = false ∧ (u.die d).modules.getLsbD m = true ∧ u = { s with dies := u.dies })
    ∧ (∀ m, let n := tget 0 x.replays m + 1
      ∃ u : State, exec (.flitCrcReplay d m) s = .next u ∧ u.die d = { x with replays := tput x.replays m n }
        ∧ u.mgmt = (if n = Config.replayLimit + 1 then s.mgmt ++ [⟨0, 0x10016, [d, m, n]⟩] else s.mgmt))
    ∧ (∀ c, x.lpRetrain.getLsbD c = true → exec (.lpddrRetrainEnd d c) s
      = .next (s.setDie d { x with lpRetrain := x.lpRetrain &&& ~~~(BitVec.ofNat 16 (2 ^ c)) }))
    ∧ (∀ c, exec (.lpddrChannelFailure d c) s = .next (s.setDie d { x with
        lpReady := x.lpReady &&& ~~~(BitVec.ofNat 16 (2 ^ c)), lpRetrain := x.lpRetrain &&& ~~~(BitVec.ofNat 16 (2 ^ c)) }))
    ∧ (x.fwSwitching = true → exec (.firmwareSwitchEnd 0 d) s
      = .next (s.setDie d { x with fwSwitching := false, fwActiveB := !x.fwActiveB }))
    ∧ (s.cfeSwitching = true → exec (.firmwareSwitchEnd 1 d) s
      = .next { s with cfeSwitching := false, cfeActiveB := !s.cfeActiveB })
    ∧ (∀ k, d < 8 → x.st ≠ .lost → ∃ u : State, exec (.dieLost d) s = .next u ∧ (u.die d).st = .lost ∧ (u.die d).ready = false
      ∧ (slotDie k = d → u.mayRun k = false)
      ∧ ((∀ e < 8, (s.loseDie d).cutOff e = false) → ∀ c, (s.ctx c).diemask.getLsbD d = false → (∀ q ∈ s.xfers, slotDie q.slot = d → q.ctx ≠ c) →
        { u.ctx c with saved := (s.ctx c).saved } = s.ctx c))
    ∧ (x.st = .lost → exec (.dieLost d) s = .next s)
    ∧ (∀ c k, d < 8 → c < 128 → x.st ≠ .lost → (∀ e < 8, (s.loseDie d).cutOff e = false) → (∀ e, (s.ctx e).diemask.getLsbD d = decide (e = c)) → (s.ctx c).st = .running →
      s.ctxSlots c = [k] → (s.die (slotDie k)).st ≠ .lost → slotDie k ≠ d → s.quiet c = true → (s.task k).raised = [] →
      (s.task k).hart.inhdl = false → tsorted s.tasks = true → (s.ctx c).tasks = [] → ∃ u : State,
        exec (.dieLost d) s = .next u ∧ (u.task k).hart.tcause = 0x0D ∧ (u.task k).hart.tval.getLsbD d = true
          ∧ (u.task k).hart.tval.getLsbD 63 = true ∧ (u.task k).hart.inhdl = true
          ∧ (u.task k).hart.tepc = (s.task k).hart.pc))
  ∧ (∀ (s : State) (k : Nat),
    (k < 2 → (s.die (8 + k)).st ≠ .lost → ∃ u : State, exec (.ioDieFailure k) s = .next u ∧ (u.die (8 + k)).st = .lost
      ∧ (u.die (8 + k)).ready = false ∧ u.units = s.units &&& ~~~(BitVec.ofNat 8 (2 ^ (4 + k))))
    ∧ exec (.podLinkDown k) s = .next { s with pod := { s.pod with up := s.pod.up &&& ~~~(BitVec.ofNat 16 (2 ^ k)) } }
    ∧ exec (.podLinkUp k) s = .next { s with pod := { s.pod with up := s.pod.up ||| BitVec.ofNat 16 (2 ^ k) } }
    ∧ (∃ u : State, exec (.uncorrectableError (.memory k)) s = .next u ∧ tget false u.poison (k / 128) = true ∧ u.mem = s.mem)
    ∧ (∀ f n, ∃ u : State, exec (.uncorrectableError (.register k f n)) s = .next u ∧ (k, f, n) ∈ u.regPoison)
    ∧ (∀ r, ∃ u : State, exec (.uncorrectableError (.accRow k r)) s = .next u
      ∧ (tget AccRow.init (u.mat k).acc r) = { tget AccRow.init (s.mat k).acc r with poison := true })
    ∧ ∀ e : ErrUnit, let d := errDie e
      let n := tget 0 (s.die d).errs (errKind e) + 1
      ∃ u : State, exec (.correctedError e) s = .next u
        ∧ u.die d = { s.die d with errs := tput (s.die d).errs (errKind e) n } ∧ u.mem = s.mem ∧ u.poison = s.poison
        ∧ (n ≠ Config.errorLimit + 1 → u.events = s.events))
  ∧ ∀ s : State, ∀ i ∈ [Instr.powerLoss, .thermalTrip, .coldReset],
    ∃ u : State, exec i s = .next u ∧ u.power = decide (i = .coldReset) ∧ (u.units = 0 ∧ u.started = [] ∧ u.tasks = [])
      ∧ u.fuses = s.fuses ∧ (∀ a < 2 ^ 64, u.getByte a = 0)
      ∧ (i ≠ .thermalTrip → ∀ a, 2 ^ 150 ≤ a → a < 2 ^ 192 → u.getByte a = s.getByte a)

/-- 00 R9, 18 R439, 20 R470, R472, R478 and R483: writes of the registers of a function and of a die, what FSTAT and the write-only
MRHEAD read as, an interface that breaks, and a function-level reset with its steps, function 0 after every virtual function. -/
def Obligations.FunctionEvents : Prop :=
  ∀ (s : State) (f : Nat), let x := s.fn f
    let n := x.flr
    (∀ i, exec (.mrhead f i) s
      = .next { s.setFn f { x with mrhead := i % 4096 } with agenda := s.agenda ++ [.run (.host f)] })
    ∧ (x.tdi ≠ 1 → x.tdi ≠ 2 → ∀ v : Word,
      exec (.registerWrite (.mrbase f) v) s = .next (s.setFn f { x with mrbase := v &&& ~~~63 })
      ∧ exec (.registerWrite (.mrsize f) v) s = .next (s.setFn f { x with mrsize := v.toNat % 2 ^ 13 })
      ∧ exec (.registerWrite (.crbase f) v) s = .next (s.setFn f { x with crbase := v &&& ~~~31 })
      ∧ exec (.registerWrite (.crsize f) v) s = .next (s.setFn f { x with crsize := v.toNat % 2 ^ 13 }))
    ∧ (x.tdi = 1 ∨ x.tdi = 2 → ∀ v, ∀ r ∈ [HostReg.mrbase f, .mrsize f, .crbase f, .crsize f],
      ∃ u : State, exec (.registerWrite r v) s = .next u ∧ u.fn f = { x with tdi := 3, lost := (u.fn f).lost }
        ∧ ∀ c ∈ s.fnCtxs f, (s.ctx c).prot = true → (u.ctx c).st = .halted)
    ∧ (x.page.getD 2 0 = 0 ∧ s.hostRead (.fstat f)
      = BitVec.ofNat 64 (x.lost * 2 ^ 32 + (if x.rst then 8 else 0) + (if x.sess then 4 else 0) + x.tdi))
    ∧ (∀ v, ∀ r ∈ [HostReg.mrtail f, .crhead f, .fstat f, .wtbank f], exec (.registerWrite r v) s = .next s)
    ∧ (∀ v : Word, ∃ u : State, exec (.registerWrite (.crtail f) v) s = .next u ∧ (u.fn f).crtail = v.toNat % 2 ^ 12
      ∧ u.agenda = s.agenda ++ [.run (.host f)])
    ∧ (∀ v : Word, exec (.registerWrite (.wpcfg f) v) s = .next (s.setDie f { s.die f with
        wlim := max 1 (v.toNat / 2 ^ 20 % 2 ^ 24), itmax := max 1 (v.toNat % 16) }))
    ∧ (∀ why, ∃ u : State, exec (.interfaceError f why) s = .next u
      ∧ (u.fn f).tdi = (if x.tdi = 1 ∨ x.tdi = 2 then 3 else x.tdi)
      ∧ (u.fn f).sess = (if why = .sessionLoss then false else x.sess)
      ∧ (x.tdi = 1 ∨ x.tdi = 2 → ∀ c ∈ s.fnCtxs f, (s.ctx c).prot = true → (u.ctx c).st = .halted))
    ∧ (f ≠ 0 → n = 0 → ∃ u : State, exec (.functionLevelReset f) s = .next u ∧ u.fn f = { x with flr := 1, rst := true }
      ∧ (∀ c ∈ s.fnCtxs f, (u.ctx c).st = .halted ∧ (u.ctx c).halt = true) ∧ u = { s with fns := u.fns, ctxs := u.ctxs })
    ∧ (s.flrNext = [] → (s.fn 1).flr = 0 → ∃ u : State, exec (.functionLevelReset 0) s = .next u
      ∧ u.flrNext = (List.range 63).map (· + 1) ++ [0] ∧ (u.fn 1).flr = 1)
    ∧ (n = 0 ∨ 7 < n → exec (.flrStepEnd f) s = .next s)
    ∧ (n = 1 → (∃ c ∈ s.fnCtxs f, s.quiet c = false) → exec (.flrStepEnd f) s = .next s)
    ∧ (1 ≤ n → n ≤ 7 → (n = 1 → ∀ c ∈ s.fnCtxs f, s.quiet c = true) → (n = 7 → ∀ g l, s.flrNext ≠ f :: g :: l) →
      ∃ u : State, exec (.flrStepEnd f) s = .next u ∧ (u.fn f).flr = (if n = 7 then 0 else n + 1)
        ∧ (n = 3 → (∀ q ∈ u.xfers, q.ctx ∉ s.fnCtxs f) ∧ (∀ q ∈ u.requests, q.ctx ∉ s.fnCtxs f)
          ∧ ∀ c ∈ s.fnCtxs f, (u.ctx c).moved = [])
        ∧ (n = 4 → ∀ e ∈ u.keys, ∀ c ∈ s.fnCtxs f, e.2.ctx ≠ some c)
        ∧ (n = 5 → ∀ c ∈ s.fnCtxs f, (u.ctx c).objs = [] ∧ (u.ctx c).nobj = 0)
        ∧ (n = 6 → tsorted s.tasks = true → ∀ c ∈ s.fnCtxs f, u.ctxSlots c = [])
        ∧ (n = 7 → (u.fn f).tdi = 0 ∧ (u.fn f).sess = false ∧ (u.fn f).rst = false))

/-! ## Reset and memory -/

/-- 21 R487 and the reset values of 01 R44 to R54 and 16 R418: right after a cold reset no unit is ready, nothing runs, every
adapter slot is free, and the registers of a task, core, die and matrix engine that nothing has written read as the rules say.
-/
def Obligations.ResetState : Prop :=
  let s := State.reset
  s.readyMap = 0 ∧ s.modelMap = 0 ∧ s.units = 0 ∧ s.tasks = [] ∧ s.ctxs = [] ∧ s.queues = [] ∧ s.launches = [] ∧ s.codes = []
    ∧ (∀ k, (s.adapter k).st = 0 ∧ (s.adapter k).parent = 0xFFF ∧ (s.adapter k).ridx = 0xFFFF)
    ∧ (∀ d, (s.die d).st = .offline ∧ (s.die d).wpcfg = 0xF4240 * 2 ^ 20 + 8 ∧ (s.die d).unlk = true
      ∧ (s.die d).bound = 0x7FFFFFFF ∧ (s.die d).cycle = 0)
    ∧ (∀ p, (s.mat p).budget = 32 ∧ (s.mat p).step = 4 ∧ (s.pair p).owner = none ∧ (s.pair p).stair = .opened)
    ∧ (∀ c, (s.core c).fwN = 4 ∧ (s.core c).en = false ∧ (s.fw c).halted = true)
    ∧ (∀ k n, (s.task k).hart.rf.read n = 0) ∧ (∀ k a, (s.mat k).acc = [] ∧ s.getByte a = 0) ∧ s.memWf
    ∧ (∀ k, s.bound k = false) ∧ s.power = true ∧ s.queued = [] ∧ s.arrivals = [] ∧ s.chans = [] ∧ s.xfers = [] ∧ s.requests = []

/-- Every instruction and every step keeps memory in its canonical form: addresses rise strictly, and no byte listed is the one
that an unlisted address reads as. -/
def Obligations.MemoryKeepsItsForm : Prop :=
  (∀ (i : Instr) (s t : State), s.memWf → exec i s = .next t → t.memWf) ∧ ∀ s t : State, s.memWf → step s = .next t → t.memWf
end

