-- ==== Sys2Proof/Laws/Encoding.lean ====
section
/-! SUPPORT. What the field readers find in the words that the encoders make. -/
namespace Sys2Proof

theorem encR_fields (op f rd a b g : Nat) (ho : op < 64) (hf : f < 8) (hd : rd < 32) (ha : a < 32) (hb : b < 32)
    (hg : g < 16) :
    encR op f rd a b g < 2 ^ 28 ∧ wOp (encR op f rd a b g) = op ∧ wRd (encR op f rd a b g) = rd
      ∧ wA (encR op f rd a b g) = a ∧ wB (encR op f rd a b g) = b ∧ wF (encR op f rd a b g) = f
      ∧ wG (encR op f rd a b g) = g := by
  simp only [encR, wOp, wRd, wA, wB, wF, wG, bits, Nat.shiftRight_eq_div_pow]
  omega

theorem encI_fields (op rd a imm : Nat) (ho : op < 64) (hd : rd < 32) (ha : a < 32) (hi : imm < 4096) :
    encI op rd a imm < 2 ^ 28 ∧ wOp (encI op rd a imm) = op ∧ wRd (encI op rd a imm) = rd ∧ wA (encI op rd a imm) = a
      ∧ wImm (encI op rd a imm) = imm := by
  simp only [encI, wOp, wRd, wA, wImm, bits, Nat.shiftRight_eq_div_pow]
  omega

theorem encB_fields (link g disp : Nat) (hl : link < 2) (hg : g < 16) (hd : disp < 2 ^ 17) :
    encB link g disp < 2 ^ 28 ∧ wOp (encB link g disp) = 0x1C ∧ bits (encB link g disp) 21 18 = g
      ∧ (encB link g disp).testBit 17 = decide (link = 1) ∧ encB link g disp % 2 ^ 17 = disp := by
  simp only [encB, wOp, bits, Nat.testBit_eq_decide_div_mod_eq, Nat.shiftRight_eq_div_pow, decide_eq_decide]
  omega

theorem withES_fields (e : Bool) (st w : Nat) (hs : st < 8) (hw : w < 2 ^ 28) :
    withES e st w % 2 ^ 28 = w ∧ wE (withES e st w) = e ∧ wS (withES e st w) = st := by
  cases e
  all_goals
    simp [withES, b01, wE, wS, bits, Nat.testBit_eq_decide_div_mod_eq, Nat.shiftRight_eq_div_pow]
    omega

/-- A word whose fields decode to a well-formed instruction. -/
theorem decodeWord_of_fields {w : Nat} {i : Instr} (h1 : isTOp (wOp w) = false) (h2 : decodeFields w = .ok i)
    (hw : checkInstr i = none) : decodeWord w = .ok i := by
  simp [decodeWord, h1, h2, wellFormedOr, hw]

/-- An R-form word decodes to the instruction that every word with its fields decodes to. -/
theorem decodeWord_encR {op f rd a b g : Nat} {i : Instr} (ho : op < 64) (hf : f < 8) (hd : rd < 32) (ha : a < 32)
    (hb : b < 32) (hg : g < 16) (hn : isTOp op = false)
    (h : ∀ w, wOp w = op → wF w = f → wRd w = rd → wA w = a → wB w = b → wG w = g → decodeFields w = .ok i)
    (hw : checkInstr i = none) : encR op f rd a b g < 2 ^ 28 ∧ decodeWord (encR op f rd a b g) = .ok i := by
  obtain ⟨h0, h1, h2, h3, h4, h5, h6⟩ := encR_fields op f rd a b g ho hf hd ha hb hg
  exact ⟨h0, decodeWord_of_fields (by rw [h1]; exact hn) (h _ h1 h5 h2 h3 h4 h6) hw⟩

/-- The same for an I-form word. -/
theorem decodeWord_encI {op rd a imm : Nat} {i : Instr} (ho : op < 64) (hd : rd < 32) (ha : a < 32) (hi : imm < 4096)
    (hn : isTOp op = false) (h : ∀ w, wOp w = op → wRd w = rd → wA w = a → wImm w = imm → decodeFields w = .ok i)
    (hw : checkInstr i = none) : encI op rd a imm < 2 ^ 28 ∧ decodeWord (encI op rd a imm) = .ok i := by
  obtain ⟨h0, h1, h2, h3, h4⟩ := encI_fields op rd a imm ho hd ha hi
  exact ⟨h0, decodeWord_of_fields (by rw [h1]; exact hn) (h _ h1 h2 h3 h4) hw⟩

/-- The same for a B-form word. -/
theorem decodeWord_encB {link g disp : Nat} {i : Instr} (hl : link < 2) (hg : g < 16) (hd : disp < 2 ^ 17)
    (h : ∀ w, wOp w = 0x1C → bits w 21 18 = g → w.testBit 17 = decide (link = 1) → w % 2 ^ 17 = disp →
      decodeFields w = .ok i)
    (hw : checkInstr i = none) : encB link g disp < 2 ^ 28 ∧ decodeWord (encB link g disp) = .ok i := by
  obtain ⟨h0, h1, h2, h3, h4⟩ := encB_fields link g disp hl hg hd
  exact ⟨h0, decodeWord_of_fields (by rw [h1]; rfl) (h _ h1 h2 h3 h4) hw⟩

/-- The fields of a T-form pair. -/
theorem encT_fields (op : Nat) (w : TWord) (w0 w1 : Nat) (ho : op < 64) (h : encT op w = .pair w0 w1) :
    wOp w0 = op ∧ tFields w0 w1 = w := by
  obtain ⟨⟨p, c1, c2, c3⟩, a, b, par⟩ := w
  have := p.isLt; have := c1.isLt; have := c2.isLt; have := c3.isLt; have := a.isLt; have := b.isLt; have := par.isLt
  simp only [encT, Encoded.pair.injEq] at h
  obtain ⟨h0, h1⟩ := h
  subst h0 h1
  refine ⟨by simp only [wOp, bits, Nat.shiftRight_eq_div_pow]; omega, ?_⟩
  simp only [tFields, bits, Nat.shiftRight_eq_div_pow, TWord.mk.injEq, TokenFields.mk.injEq]
  refine ⟨⟨?_, ?_, ?_, ?_⟩, ?_, ?_, ?_⟩ <;>
    (apply BitVec.eq_of_toNat_eq; simp only [BitVec.toNat_ofNat, i6, reg]; omega)

/-- The fields of a vector word. -/
theorem encV_fields (op : Nat) (w : VWord) (x : Nat) (ho : op < 128) (h : encV op w = .vector x) :
    x < 2 ^ 96 ∧ bits x 95 89 = op ∧ vFields x = w := by
  obtain ⟨st, fmt, mask, ⟨p, c1, c2, c3⟩, d, a, b⟩ := w
  have := st.isLt; have := fmt.isLt; have := mask.isLt; have := p.isLt; have := c1.isLt; have := c2.isLt
  have := c3.isLt; have := d.isLt; have := a.isLt; have := b.isLt
  simp only [encV, Encoded.vector.injEq] at h
  subst h
  refine ⟨by omega, by simp only [bits, Nat.shiftRight_eq_div_pow]; omega, ?_⟩
  simp only [vFields, bits, Nat.shiftRight_eq_div_pow, VWord.mk.injEq, TokenFields.mk.injEq]
  refine ⟨?_, ?_, ?_, ⟨?_, ?_, ?_, ?_⟩, ?_, ?_, ?_⟩ <;>
    (apply BitVec.eq_of_toNat_eq; simp only [BitVec.toNat_ofNat, i6, pr]; omega)

/-- The fields of a matrix word. -/
theorem encM_fields (op : Nat) (w : MWord) (x : Nat) (ho : op < 256) (h : encM op w = .matrix x) :
    x < 2 ^ 192 ∧ bits x 191 184 = op ∧ mReservedZero x = true ∧ mFields x = w := by
  obtain ⟨st, ⟨p, c1, c2, c3⟩, gd, afmt, agen, aoff, rows, start, wgen, woff, wfmt, kb, adp, rank, fl, ogen, ooff, ofmt,
    rnd, epi⟩ := w
  have := st.isLt; have := p.isLt; have := c1.isLt; have := c2.isLt; have := c3.isLt; have := gd.isLt
  have := afmt.isLt; have := agen.isLt; have := aoff.isLt; have := rows.isLt; have := start.isLt; have := wgen.isLt
  have := woff.isLt; have := wfmt.isLt; have := kb.isLt; have := adp.isLt; have := rank.isLt; have := fl.isLt
  have := ogen.isLt; have := ooff.isLt; have := ofmt.isLt; have := rnd.isLt; have := epi.isLt
  simp only [encM, Encoded.matrix.injEq] at h
  subst h
  refine ⟨by omega, by simp only [bits, Nat.shiftRight_eq_div_pow]; omega, ?_, ?_⟩
  · simp only [mReservedZero, bits, Nat.shiftRight_eq_div_pow, Bool.and_eq_true, beq_iff_eq]
    omega
  · simp only [mFields, bits, Nat.shiftRight_eq_div_pow, MWord.mk.injEq, TokenFields.mk.injEq]
    refine ⟨?_, ⟨?_, ?_, ?_, ?_⟩, ?_, ?_, ?_, ?_, ?_, ?_, ?_, ?_, ?_, ?_, ?_, ?_, ?_, ?_, ?_, ?_, ?_, ?_⟩ <;>
      (apply BitVec.eq_of_toNat_eq; simp only [BitVec.toNat_ofNat, i6, pr]; omega)

/-- The fields of a command word. -/
theorem encC_fields (op : Nat) (w : CWord) (ext l : List Word) (x : Nat) (ho : op < 64) (h : encC op w ext = .command x l) :
    x < 2 ^ 64 ∧ bits x 63 58 = op ∧ bits x 42 40 = 0 ∧ cFields x = w ∧ l = ext := by
  obtain ⟨d, a, b, c, aux, imm⟩ := w
  have := d.isLt; have := a.isLt; have := b.isLt; have := c.isLt; have := aux.isLt; have := imm.isLt
  simp only [encC, Encoded.command.injEq] at h
  obtain ⟨h, rfl⟩ := h
  subst h
  refine ⟨by omega, by simp only [bits, Nat.shiftRight_eq_div_pow]; omega,
    by simp only [bits, Nat.shiftRight_eq_div_pow]; omega, ?_, rfl⟩
  simp only [cFields, bits, Nat.shiftRight_eq_div_pow, CWord.mk.injEq]
  refine ⟨?_, ?_, ?_, ?_, ?_, ?_⟩ <;> (apply BitVec.eq_of_toNat_eq; simp only [BitVec.toNat_ofNat, pr]; omega)

end Sys2Proof
end

