-- ==== Sys2Proof/Laws/Table.lean ====
section
/-! SUPPORT. Reading after writing in a sparse table, and its canonical form under every operation. -/
namespace Sys2Proof

/-! ## Reading after writing -/

theorem tfind_tput {α : Type} (t : Tbl α) (i j : Nat) (x : α) :
    tfind (tput t i x) j = if i = j then some x else tfind t j := by
  induction t with
  | nil => simp [tput, tfind]
  | cons e t ih =>
    obtain ⟨k, v⟩ := e
    simp only [tput]
    split
    · simp [tfind]
    · split
      · subst_vars; simp only [tfind]; split <;> rfl
      · simp only [tfind, ih]
        split <;> split <;> simp_all

@[simp] theorem tget_tput_same {α : Type} (d : α) (t : Tbl α) (i : Nat) (x : α) : tget d (tput t i x) i = x := by
  simp [tget, tfind_tput]

theorem tget_tput_other {α : Type} (d : α) (t : Tbl α) {i j : Nat} (x : α) (h : j ≠ i) :
    tget d (tput t i x) j = tget d t j := by
  simp [tget, tfind_tput, Ne.symm h]

/-! ## Keys in order -/

theorem tsortedFrom_mono {α : Type} {lo lo' : Nat} (t : Tbl α) (h : tsortedFrom lo t = true) (hl : lo' ≤ lo) :
    tsortedFrom lo' t = true := by
  cases t with
  | nil => rfl
  | cons e t =>
    simp only [tsortedFrom, Bool.and_eq_true, decide_eq_true_eq] at h ⊢
    exact ⟨by omega, h.2⟩

theorem tput_sortedFrom {α : Type} (t : Tbl α) (lo i : Nat) (x : α) (h : tsortedFrom lo t = true) (hi : lo ≤ i) :
    tsortedFrom lo (tput t i x) = true := by
  induction t generalizing lo with
  | nil => simp [tput, tsortedFrom, hi]
  | cons e t ih =>
    obtain ⟨k, v⟩ := e
    simp only [tsortedFrom, Bool.and_eq_true, decide_eq_true_eq] at h
    simp only [tput]
    split
    · simp only [tsortedFrom, Bool.and_eq_true, decide_eq_true_eq]
      exact ⟨hi, by omega, h.2⟩
    · split
      · subst_vars; simp only [tsortedFrom, Bool.and_eq_true, decide_eq_true_eq]; exact ⟨hi, h.2⟩
      · simp only [tsortedFrom, Bool.and_eq_true, decide_eq_true_eq]
        exact ⟨h.1, ih (k + 1) h.2 (by omega)⟩

theorem terase_sortedFrom {α : Type} (t : Tbl α) (lo i : Nat) (h : tsortedFrom lo t = true) :
    tsortedFrom lo (terase t i) = true := by
  induction t generalizing lo with
  | nil => rfl
  | cons e t ih =>
    obtain ⟨k, v⟩ := e
    simp only [tsortedFrom, Bool.and_eq_true, decide_eq_true_eq] at h
    simp only [terase]
    split
    · exact tsortedFrom_mono t h.2 (by omega)
    · simp only [tsortedFrom, Bool.and_eq_true, decide_eq_true_eq]; exact ⟨h.1, ih (k + 1) h.2⟩

theorem filter_sortedFrom {α : Type} (p : Nat × α → Bool) (t : Tbl α) (lo : Nat) (h : tsortedFrom lo t = true) :
    tsortedFrom lo (t.filter p) = true := by
  induction t generalizing lo with
  | nil => rfl
  | cons e t ih =>
    obtain ⟨k, v⟩ := e
    simp only [tsortedFrom, Bool.and_eq_true, decide_eq_true_eq] at h
    simp only [List.filter_cons]
    split
    · simp only [tsortedFrom, Bool.and_eq_true, decide_eq_true_eq]; exact ⟨h.1, ih (k + 1) h.2⟩
    · exact ih lo (tsortedFrom_mono t h.2 (by omega))

/-- A key below every listed one is not listed. -/
theorem tfind_below {α : Type} (t : Tbl α) {lo i : Nat} (h : tsortedFrom lo t = true) (hi : i < lo) : tfind t i = none := by
  induction t generalizing lo with
  | nil => rfl
  | cons e t ih =>
    obtain ⟨k, v⟩ := e
    simp only [tsortedFrom, Bool.and_eq_true, decide_eq_true_eq] at h
    simp only [tfind]
    split
    · omega
    · exact ih h.2 (by omega)

theorem tfind_terase {α : Type} (t : Tbl α) {lo : Nat} (i j : Nat) (h : tsortedFrom lo t = true) :
    tfind (terase t i) j = if i = j then none else tfind t j := by
  induction t generalizing lo with
  | nil => simp [terase, tfind]
  | cons e t ih =>
    obtain ⟨k, v⟩ := e
    simp only [tsortedFrom, Bool.and_eq_true, decide_eq_true_eq] at h
    simp only [terase]
    split
    · subst_vars
      split
      · subst_vars; exact tfind_below t h.2 (by omega)
      · simp [tfind, *]
    · simp only [tfind, ih h.2]
      split <;> split <;> simp_all

/-! ## No entry equal to the default -/

theorem tput_nodefault {α : Type} [DecidableEq α] (d : α) (t : Tbl α) (i : Nat) (x : α) (h : tnodefault d t = true)
    (hx : x ≠ d) : tnodefault d (tput t i x) = true := by
  induction t with
  | nil => simp [tput, tnodefault, hx]
  | cons e t ih =>
    obtain ⟨k, v⟩ := e
    simp only [tnodefault, List.all_cons, Bool.and_eq_true] at h
    simp only [tput]
    split
    · simp only [tnodefault, List.all_cons, Bool.and_eq_true]; exact ⟨by simpa using hx, h⟩
    · split
      · simp only [tnodefault, List.all_cons, Bool.and_eq_true]; exact ⟨by simpa using hx, h.2⟩
      · simp only [tnodefault, List.all_cons, Bool.and_eq_true]; exact ⟨h.1, ih h.2⟩

theorem terase_nodefault {α : Type} [DecidableEq α] (d : α) (t : Tbl α) (i : Nat) (h : tnodefault d t = true) :
    tnodefault d (terase t i) = true := by
  induction t with
  | nil => rfl
  | cons e t ih =>
    obtain ⟨k, v⟩ := e
    simp only [tnodefault, List.all_cons, Bool.and_eq_true] at h
    simp only [terase]
    split
    · exact h.2
    · simp only [tnodefault, List.all_cons, Bool.and_eq_true]; exact ⟨h.1, ih h.2⟩

theorem filter_nodefault {α : Type} [DecidableEq α] (d : α) (p : Nat × α → Bool) (t : Tbl α) (h : tnodefault d t = true) :
    tnodefault d (t.filter p) = true := by
  simp only [tnodefault, List.all_eq_true] at h ⊢
  exact fun e he => h e (List.mem_filter.mp he).1

/-! ## Write with a default -/

/-- The canonical form: keys rise strictly, and no entry equals the default. -/
def tcanonical {α : Type} [DecidableEq α] (d : α) (t : Tbl α) : Bool := tsorted t && tnodefault d t

theorem tset_canonical {α : Type} [DecidableEq α] (d : α) (t : Tbl α) (i : Nat) (x : α) (h : tcanonical d t = true) :
    tcanonical d (tset d t i x) = true := by
  simp only [tcanonical, tsorted, Bool.and_eq_true] at h ⊢
  unfold tset
  split
  · exact ⟨terase_sortedFrom t 0 i h.1, terase_nodefault d t i h.2⟩
  · exact ⟨tput_sortedFrom t 0 i x h.1 (Nat.zero_le i), tput_nodefault d t i x h.2 (by assumption)⟩

theorem filter_canonical {α : Type} [DecidableEq α] (d : α) (p : Nat × α → Bool) (t : Tbl α) (h : tcanonical d t = true) :
    tcanonical d (t.filter p) = true := by
  simp only [tcanonical, tsorted, Bool.and_eq_true] at h ⊢
  exact ⟨filter_sortedFrom p t 0 h.1, filter_nodefault d p t h.2⟩

theorem tget_tset {α : Type} [DecidableEq α] (d : α) (t : Tbl α) (i j : Nat) (x : α) (h : tsorted t = true) :
    tget d (tset d t i x) j = if i = j then x else tget d t j := by
  unfold tset
  split
  · simp only [tget, tfind_terase t i j h]
    split <;> simp_all
  · simp only [tget, tfind_tput]
    split <;> simp_all

end Sys2Proof
end

