-- ==== Sys2Proof/Laws/State.lean ====
section
/-! SUPPORT. One lemma per field for each update of the state, and what each table reads after its own update. -/
namespace Sys2Proof.Machine

/-! ## setTask -/

@[simp] theorem State.setTask_agenda (s : State) (k : Nat) (x : Task) : (s.setTask k x).agenda = s.agenda := rfl
@[simp] theorem State.setTask_focus (s : State) (k : Nat) (x : Task) : (s.setTask k x).focus = s.focus := rfl
@[simp] theorem State.setTask_unready (s : State) (k : Nat) (x : Task) : (s.setTask k x).unready = s.unready := rfl
@[simp] theorem State.setTask_slips (s : State) (k : Nat) (x : Task) : (s.setTask k x).slips = s.slips := rfl
@[simp] theorem State.setTask_queued (s : State) (k : Nat) (x : Task) : (s.setTask k x).queued = s.queued := rfl
@[simp] theorem State.setTask_heldSince (s : State) (k : Nat) (x : Task) : (s.setTask k x).heldSince = s.heldSince := rfl
@[simp] theorem State.setTask_turn (s : State) (k : Nat) (x : Task) : (s.setTask k x).turn = s.turn := rfl
@[simp] theorem State.setTask_freeIdx (s : State) (k : Nat) (x : Task) : (s.setTask k x).freeIdx = s.freeIdx := rfl
@[simp] theorem State.setTask_power (s : State) (k : Nat) (x : Task) : (s.setTask k x).power = s.power := rfl
@[simp] theorem State.setTask_mem (s : State) (k : Nat) (x : Task) : (s.setTask k x).mem = s.mem := rfl
@[simp] theorem State.setTask_poison (s : State) (k : Nat) (x : Task) : (s.setTask k x).poison = s.poison := rfl
@[simp] theorem State.setTask_regPoison (s : State) (k : Nat) (x : Task) : (s.setTask k x).regPoison = s.regPoison := rfl
@[simp] theorem State.setTask_slotRecs (s : State) (k : Nat) (x : Task) : (s.setTask k x).slotRecs = s.slotRecs := rfl
@[simp] theorem State.setTask_tasks (s : State) (k : Nat) (x : Task) : (s.setTask k x).tasks = tput s.tasks k x := rfl
@[simp] theorem State.setTask_fws (s : State) (k : Nat) (x : Task) : (s.setTask k x).fws = s.fws := rfl
@[simp] theorem State.setTask_cores (s : State) (k : Nat) (x : Task) : (s.setTask k x).cores = s.cores := rfl
@[simp] theorem State.setTask_pairs (s : State) (k : Nat) (x : Task) : (s.setTask k x).pairs = s.pairs := rfl
@[simp] theorem State.setTask_mats (s : State) (k : Nat) (x : Task) : (s.setTask k x).mats = s.mats := rfl
@[simp] theorem State.setTask_dies (s : State) (k : Nat) (x : Task) : (s.setTask k x).dies = s.dies := rfl
@[simp] theorem State.setTask_ctxs (s : State) (k : Nat) (x : Task) : (s.setTask k x).ctxs = s.ctxs := rfl
@[simp] theorem State.setTask_xfers (s : State) (k : Nat) (x : Task) : (s.setTask k x).xfers = s.xfers := rfl
@[simp] theorem State.setTask_requests (s : State) (k : Nat) (x : Task) : (s.setTask k x).requests = s.requests := rfl
@[simp] theorem State.setTask_arrivals (s : State) (k : Nat) (x : Task) : (s.setTask k x).arrivals = s.arrivals := rfl
@[simp] theorem State.setTask_nextId (s : State) (k : Nat) (x : Task) : (s.setTask k x).nextId = s.nextId := rfl
@[simp] theorem State.setTask_chans (s : State) (k : Nat) (x : Task) : (s.setTask k x).chans = s.chans := rfl
@[simp] theorem State.setTask_bars (s : State) (k : Nat) (x : Task) : (s.setTask k x).bars = s.bars := rfl
@[simp] theorem State.setTask_waiting (s : State) (k : Nat) (x : Task) : (s.setTask k x).waiting = s.waiting := rfl
@[simp] theorem State.setTask_launches (s : State) (k : Nat) (x : Task) : (s.setTask k x).launches = s.launches := rfl
@[simp] theorem State.setTask_statusDue (s : State) (k : Nat) (x : Task) : (s.setTask k x).statusDue = s.statusDue := rfl
@[simp] theorem State.setTask_nextLaunch (s : State) (k : Nat) (x : Task) : (s.setTask k x).nextLaunch = s.nextLaunch := rfl
@[simp] theorem State.setTask_grants (s : State) (k : Nat) (x : Task) : (s.setTask k x).grants = s.grants := rfl
@[simp] theorem State.setTask_queues (s : State) (k : Nat) (x : Task) : (s.setTask k x).queues = s.queues := rfl
@[simp] theorem State.setTask_gangLate (s : State) (k : Nat) (x : Task) : (s.setTask k x).gangLate = s.gangLate := rfl
@[simp] theorem State.setTask_podSent (s : State) (k : Nat) (x : Task) : (s.setTask k x).podSent = s.podSent := rfl
@[simp] theorem State.setTask_adapters (s : State) (k : Nat) (x : Task) : (s.setTask k x).adapters = s.adapters := rfl
@[simp] theorem State.setTask_models (s : State) (k : Nat) (x : Task) : (s.setTask k x).models = s.models := rfl
@[simp] theorem State.setTask_wobjs (s : State) (k : Nat) (x : Task) : (s.setTask k x).wobjs = s.wobjs := rfl
@[simp] theorem State.setTask_banks (s : State) (k : Nat) (x : Task) : (s.setTask k x).banks = s.banks := rfl
@[simp] theorem State.setTask_loads (s : State) (k : Nat) (x : Task) : (s.setTask k x).loads = s.loads := rfl
@[simp] theorem State.setTask_measured (s : State) (k : Nat) (x : Task) : (s.setTask k x).measured = s.measured := rfl
@[simp] theorem State.setTask_codes (s : State) (k : Nat) (x : Task) : (s.setTask k x).codes = s.codes := rfl
@[simp] theorem State.setTask_nextCode (s : State) (k : Nat) (x : Task) : (s.setTask k x).nextCode = s.nextCode := rfl
@[simp] theorem State.setTask_nextGid (s : State) (k : Nat) (x : Task) : (s.setTask k x).nextGid = s.nextGid := rfl
@[simp] theorem State.setTask_cellar (s : State) (k : Nat) (x : Task) : (s.setTask k x).cellar = s.cellar := rfl
@[simp] theorem State.setTask_fns (s : State) (k : Nat) (x : Task) : (s.setTask k x).fns = s.fns := rfl
@[simp] theorem State.setTask_fnOf (s : State) (k : Nat) (x : Task) : (s.setTask k x).fnOf = s.fnOf := rfl
@[simp] theorem State.setTask_flrNext (s : State) (k : Nat) (x : Task) : (s.setTask k x).flrNext = s.flrNext := rfl
@[simp] theorem State.setTask_keys (s : State) (k : Nat) (x : Task) : (s.setTask k x).keys = s.keys := rfl
@[simp] theorem State.setTask_fuses (s : State) (k : Nat) (x : Task) : (s.setTask k x).fuses = s.fuses := rfl
@[simp] theorem State.setTask_units (s : State) (k : Nat) (x : Task) : (s.setTask k x).units = s.units := rfl
@[simp] theorem State.setTask_started (s : State) (k : Nat) (x : Task) : (s.setTask k x).started = s.started := rfl
@[simp] theorem State.setTask_pod (s : State) (k : Nat) (x : Task) : (s.setTask k x).pod = s.pod := rfl
@[simp] theorem State.setTask_cfeA (s : State) (k : Nat) (x : Task) : (s.setTask k x).cfeA = s.cfeA := rfl
@[simp] theorem State.setTask_cfeB (s : State) (k : Nat) (x : Task) : (s.setTask k x).cfeB = s.cfeB := rfl
@[simp] theorem State.setTask_cfeActiveB (s : State) (k : Nat) (x : Task) : (s.setTask k x).cfeActiveB = s.cfeActiveB := rfl
@[simp] theorem State.setTask_cfeSwitching (s : State) (k : Nat) (x : Task) : (s.setTask k x).cfeSwitching = s.cfeSwitching := rfl
@[simp] theorem State.setTask_iodLink (s : State) (k : Nat) (x : Task) : (s.setTask k x).iodLink = s.iodLink := rfl
@[simp] theorem State.setTask_debug (s : State) (k : Nat) (x : Task) : (s.setTask k x).debug = s.debug := rfl
@[simp] theorem State.setTask_secLog (s : State) (k : Nat) (x : Task) : (s.setTask k x).secLog = s.secLog := rfl
@[simp] theorem State.setTask_events (s : State) (k : Nat) (x : Task) : (s.setTask k x).events = s.events := rfl
@[simp] theorem State.setTask_mgmt (s : State) (k : Nat) (x : Task) : (s.setTask k x).mgmt = s.mgmt := rfl
@[simp] theorem State.setTask_task_same (s : State) (k : Nat) (x : Task) : (s.setTask k x).task k = x := by simp [State.task]
theorem State.setTask_task_other (s : State) {k j : Nat} (x : Task) (h : j ≠ k) : (s.setTask k x).task j = s.task j := by
  simp [State.task, tget_tput_other, h]
@[simp] theorem State.setTask_fw (s : State) (k j : Nat) (x : Task) : (s.setTask k x).fw j = s.fw j := rfl
@[simp] theorem State.setTask_core (s : State) (k j : Nat) (x : Task) : (s.setTask k x).core j = s.core j := rfl
@[simp] theorem State.setTask_pair (s : State) (k j : Nat) (x : Task) : (s.setTask k x).pair j = s.pair j := rfl
@[simp] theorem State.setTask_mat (s : State) (k j : Nat) (x : Task) : (s.setTask k x).mat j = s.mat j := rfl
@[simp] theorem State.setTask_die (s : State) (k j : Nat) (x : Task) : (s.setTask k x).die j = s.die j := rfl
@[simp] theorem State.setTask_ctx (s : State) (k j : Nat) (x : Task) : (s.setTask k x).ctx j = s.ctx j := rfl
@[simp] theorem State.setTask_queue (s : State) (k j : Nat) (x : Task) : (s.setTask k x).queue j = s.queue j := rfl
@[simp] theorem State.setTask_adapter (s : State) (k j : Nat) (x : Task) : (s.setTask k x).adapter j = s.adapter j := rfl
@[simp] theorem State.setTask_model (s : State) (k j : Nat) (x : Task) : (s.setTask k x).model j = s.model j := rfl
@[simp] theorem State.setTask_wobj (s : State) (k j : Nat) (x : Task) : (s.setTask k x).wobj j = s.wobj j := rfl
@[simp] theorem State.setTask_bank (s : State) (k j : Nat) (x : Task) : (s.setTask k x).bank j = s.bank j := rfl
@[simp] theorem State.setTask_fn (s : State) (k j : Nat) (x : Task) : (s.setTask k x).fn j = s.fn j := rfl

/-! ## setFw -/

@[simp] theorem State.setFw_agenda (s : State) (k : Nat) (x : Firmware) : (s.setFw k x).agenda = s.agenda := rfl
@[simp] theorem State.setFw_focus (s : State) (k : Nat) (x : Firmware) : (s.setFw k x).focus = s.focus := rfl
@[simp] theorem State.setFw_unready (s : State) (k : Nat) (x : Firmware) : (s.setFw k x).unready = s.unready := rfl
@[simp] theorem State.setFw_slips (s : State) (k : Nat) (x : Firmware) : (s.setFw k x).slips = s.slips := rfl
@[simp] theorem State.setFw_queued (s : State) (k : Nat) (x : Firmware) : (s.setFw k x).queued = s.queued := rfl
@[simp] theorem State.setFw_heldSince (s : State) (k : Nat) (x : Firmware) : (s.setFw k x).heldSince = s.heldSince := rfl
@[simp] theorem State.setFw_turn (s : State) (k : Nat) (x : Firmware) : (s.setFw k x).turn = s.turn := rfl
@[simp] theorem State.setFw_freeIdx (s : State) (k : Nat) (x : Firmware) : (s.setFw k x).freeIdx = s.freeIdx := rfl
@[simp] theorem State.setFw_power (s : State) (k : Nat) (x : Firmware) : (s.setFw k x).power = s.power := rfl
@[simp] theorem State.setFw_mem (s : State) (k : Nat) (x : Firmware) : (s.setFw k x).mem = s.mem := rfl
@[simp] theorem State.setFw_poison (s : State) (k : Nat) (x : Firmware) : (s.setFw k x).poison = s.poison := rfl
@[simp] theorem State.setFw_regPoison (s : State) (k : Nat) (x : Firmware) : (s.setFw k x).regPoison = s.regPoison := rfl
@[simp] theorem State.setFw_slotRecs (s : State) (k : Nat) (x : Firmware) : (s.setFw k x).slotRecs = s.slotRecs := rfl
@[simp] theorem State.setFw_tasks (s : State) (k : Nat) (x : Firmware) : (s.setFw k x).tasks = s.tasks := rfl
@[simp] theorem State.setFw_fws (s : State) (k : Nat) (x : Firmware) : (s.setFw k x).fws = tput s.fws k x := rfl
@[simp] theorem State.setFw_cores (s : State) (k : Nat) (x : Firmware) : (s.setFw k x).cores = s.cores := rfl
@[simp] theorem State.setFw_pairs (s : State) (k : Nat) (x : Firmware) : (s.setFw k x).pairs = s.pairs := rfl
@[simp] theorem State.setFw_mats (s : State) (k : Nat) (x : Firmware) : (s.setFw k x).mats = s.mats := rfl
@[simp] theorem State.setFw_dies (s : State) (k : Nat) (x : Firmware) : (s.setFw k x).dies = s.dies := rfl
@[simp] theorem State.setFw_ctxs (s : State) (k : Nat) (x : Firmware) : (s.setFw k x).ctxs = s.ctxs := rfl
@[simp] theorem State.setFw_xfers (s : State) (k : Nat) (x : Firmware) : (s.setFw k x).xfers = s.xfers := rfl
@[simp] theorem State.setFw_requests (s : State) (k : Nat) (x : Firmware) : (s.setFw k x).requests = s.requests := rfl
@[simp] theorem State.setFw_arrivals (s : State) (k : Nat) (x : Firmware) : (s.setFw k x).arrivals = s.arrivals := rfl
@[simp] theorem State.setFw_nextId (s : State) (k : Nat) (x : Firmware) : (s.setFw k x).nextId = s.nextId := rfl
@[simp] theorem State.setFw_chans (s : State) (k : Nat) (x : Firmware) : (s.setFw k x).chans = s.chans := rfl
@[simp] theorem State.setFw_bars (s : State) (k : Nat) (x : Firmware) : (s.setFw k x).bars = s.bars := rfl
@[simp] theorem State.setFw_waiting (s : State) (k : Nat) (x : Firmware) : (s.setFw k x).waiting = s.waiting := rfl
@[simp] theorem State.setFw_launches (s : State) (k : Nat) (x : Firmware) : (s.setFw k x).launches = s.launches := rfl
@[simp] theorem State.setFw_statusDue (s : State) (k : Nat) (x : Firmware) : (s.setFw k x).statusDue = s.statusDue := rfl
@[simp] theorem State.setFw_nextLaunch (s : State) (k : Nat) (x : Firmware) : (s.setFw k x).nextLaunch = s.nextLaunch := rfl
@[simp] theorem State.setFw_grants (s : State) (k : Nat) (x : Firmware) : (s.setFw k x).grants = s.grants := rfl
@[simp] theorem State.setFw_queues (s : State) (k : Nat) (x : Firmware) : (s.setFw k x).queues = s.queues := rfl
@[simp] theorem State.setFw_gangLate (s : State) (k : Nat) (x : Firmware) : (s.setFw k x).gangLate = s.gangLate := rfl
@[simp] theorem State.setFw_podSent (s : State) (k : Nat) (x : Firmware) : (s.setFw k x).podSent = s.podSent := rfl
@[simp] theorem State.setFw_adapters (s : State) (k : Nat) (x : Firmware) : (s.setFw k x).adapters = s.adapters := rfl
@[simp] theorem State.setFw_models (s : State) (k : Nat) (x : Firmware) : (s.setFw k x).models = s.models := rfl
@[simp] theorem State.setFw_wobjs (s : State) (k : Nat) (x : Firmware) : (s.setFw k x).wobjs = s.wobjs := rfl
@[simp] theorem State.setFw_banks (s : State) (k : Nat) (x : Firmware) : (s.setFw k x).banks = s.banks := rfl
@[simp] theorem State.setFw_loads (s : State) (k : Nat) (x : Firmware) : (s.setFw k x).loads = s.loads := rfl
@[simp] theorem State.setFw_measured (s : State) (k : Nat) (x : Firmware) : (s.setFw k x).measured = s.measured := rfl
@[simp] theorem State.setFw_codes (s : State) (k : Nat) (x : Firmware) : (s.setFw k x).codes = s.codes := rfl
@[simp] theorem State.setFw_nextCode (s : State) (k : Nat) (x : Firmware) : (s.setFw k x).nextCode = s.nextCode := rfl
@[simp] theorem State.setFw_nextGid (s : State) (k : Nat) (x : Firmware) : (s.setFw k x).nextGid = s.nextGid := rfl
@[simp] theorem State.setFw_cellar (s : State) (k : Nat) (x : Firmware) : (s.setFw k x).cellar = s.cellar := rfl
@[simp] theorem State.setFw_fns (s : State) (k : Nat) (x : Firmware) : (s.setFw k x).fns = s.fns := rfl
@[simp] theorem State.setFw_fnOf (s : State) (k : Nat) (x : Firmware) : (s.setFw k x).fnOf = s.fnOf := rfl
@[simp] theorem State.setFw_flrNext (s : State) (k : Nat) (x : Firmware) : (s.setFw k x).flrNext = s.flrNext := rfl
@[simp] theorem State.setFw_keys (s : State) (k : Nat) (x : Firmware) : (s.setFw k x).keys = s.keys := rfl
@[simp] theorem State.setFw_fuses (s : State) (k : Nat) (x : Firmware) : (s.setFw k x).fuses = s.fuses := rfl
@[simp] theorem State.setFw_units (s : State) (k : Nat) (x : Firmware) : (s.setFw k x).units = s.units := rfl
@[simp] theorem State.setFw_started (s : State) (k : Nat) (x : Firmware) : (s.setFw k x).started = s.started := rfl
@[simp] theorem State.setFw_pod (s : State) (k : Nat) (x : Firmware) : (s.setFw k x).pod = s.pod := rfl
@[simp] theorem State.setFw_cfeA (s : State) (k : Nat) (x : Firmware) : (s.setFw k x).cfeA = s.cfeA := rfl
@[simp] theorem State.setFw_cfeB (s : State) (k : Nat) (x : Firmware) : (s.setFw k x).cfeB = s.cfeB := rfl
@[simp] theorem State.setFw_cfeActiveB (s : State) (k : Nat) (x : Firmware) : (s.setFw k x).cfeActiveB = s.cfeActiveB := rfl
@[simp] theorem State.setFw_cfeSwitching (s : State) (k : Nat) (x : Firmware) : (s.setFw k x).cfeSwitching = s.cfeSwitching := rfl
@[simp] theorem State.setFw_iodLink (s : State) (k : Nat) (x : Firmware) : (s.setFw k x).iodLink = s.iodLink := rfl
@[simp] theorem State.setFw_debug (s : State) (k : Nat) (x : Firmware) : (s.setFw k x).debug = s.debug := rfl
@[simp] theorem State.setFw_secLog (s : State) (k : Nat) (x : Firmware) : (s.setFw k x).secLog = s.secLog := rfl
@[simp] theorem State.setFw_events (s : State) (k : Nat) (x : Firmware) : (s.setFw k x).events = s.events := rfl
@[simp] theorem State.setFw_mgmt (s : State) (k : Nat) (x : Firmware) : (s.setFw k x).mgmt = s.mgmt := rfl
@[simp] theorem State.setFw_task (s : State) (k j : Nat) (x : Firmware) : (s.setFw k x).task j = s.task j := rfl
@[simp] theorem State.setFw_fw_same (s : State) (k : Nat) (x : Firmware) : (s.setFw k x).fw k = x := by simp [State.fw]
theorem State.setFw_fw_other (s : State) {k j : Nat} (x : Firmware) (h : j ≠ k) : (s.setFw k x).fw j = s.fw j := by
  simp [State.fw, tget_tput_other, h]
@[simp] theorem State.setFw_core (s : State) (k j : Nat) (x : Firmware) : (s.setFw k x).core j = s.core j := rfl
@[simp] theorem State.setFw_pair (s : State) (k j : Nat) (x : Firmware) : (s.setFw k x).pair j = s.pair j := rfl
@[simp] theorem State.setFw_mat (s : State) (k j : Nat) (x : Firmware) : (s.setFw k x).mat j = s.mat j := rfl
@[simp] theorem State.setFw_die (s : State) (k j : Nat) (x : Firmware) : (s.setFw k x).die j = s.die j := rfl
@[simp] theorem State.setFw_ctx (s : State) (k j : Nat) (x : Firmware) : (s.setFw k x).ctx j = s.ctx j := rfl
@[simp] theorem State.setFw_queue (s : State) (k j : Nat) (x : Firmware) : (s.setFw k x).queue j = s.queue j := rfl
@[simp] theorem State.setFw_adapter (s : State) (k j : Nat) (x : Firmware) : (s.setFw k x).adapter j = s.adapter j := rfl
@[simp] theorem State.setFw_model (s : State) (k j : Nat) (x : Firmware) : (s.setFw k x).model j = s.model j := rfl
@[simp] theorem State.setFw_wobj (s : State) (k j : Nat) (x : Firmware) : (s.setFw k x).wobj j = s.wobj j := rfl
@[simp] theorem State.setFw_bank (s : State) (k j : Nat) (x : Firmware) : (s.setFw k x).bank j = s.bank j := rfl
@[simp] theorem State.setFw_fn (s : State) (k j : Nat) (x : Firmware) : (s.setFw k x).fn j = s.fn j := rfl

/-! ## setCore -/

@[simp] theorem State.setCore_agenda (s : State) (k : Nat) (x : Core) : (s.setCore k x).agenda = s.agenda := rfl
@[simp] theorem State.setCore_focus (s : State) (k : Nat) (x : Core) : (s.setCore k x).focus = s.focus := rfl
@[simp] theorem State.setCore_unready (s : State) (k : Nat) (x : Core) : (s.setCore k x).unready = s.unready := rfl
@[simp] theorem State.setCore_slips (s : State) (k : Nat) (x : Core) : (s.setCore k x).slips = s.slips := rfl
@[simp] theorem State.setCore_queued (s : State) (k : Nat) (x : Core) : (s.setCore k x).queued = s.queued := rfl
@[simp] theorem State.setCore_heldSince (s : State) (k : Nat) (x : Core) : (s.setCore k x).heldSince = s.heldSince := rfl
@[simp] theorem State.setCore_turn (s : State) (k : Nat) (x : Core) : (s.setCore k x).turn = s.turn := rfl
@[simp] theorem State.setCore_freeIdx (s : State) (k : Nat) (x : Core) : (s.setCore k x).freeIdx = s.freeIdx := rfl
@[simp] theorem State.setCore_power (s : State) (k : Nat) (x : Core) : (s.setCore k x).power = s.power := rfl
@[simp] theorem State.setCore_mem (s : State) (k : Nat) (x : Core) : (s.setCore k x).mem = s.mem := rfl
@[simp] theorem State.setCore_poison (s : State) (k : Nat) (x : Core) : (s.setCore k x).poison = s.poison := rfl
@[simp] theorem State.setCore_regPoison (s : State) (k : Nat) (x : Core) : (s.setCore k x).regPoison = s.regPoison := rfl
@[simp] theorem State.setCore_slotRecs (s : State) (k : Nat) (x : Core) : (s.setCore k x).slotRecs = s.slotRecs := rfl
@[simp] theorem State.setCore_tasks (s : State) (k : Nat) (x : Core) : (s.setCore k x).tasks = s.tasks := rfl
@[simp] theorem State.setCore_fws (s : State) (k : Nat) (x : Core) : (s.setCore k x).fws = s.fws := rfl
@[simp] theorem State.setCore_cores (s : State) (k : Nat) (x : Core) : (s.setCore k x).cores = tput s.cores k x := rfl
@[simp] theorem State.setCore_pairs (s : State) (k : Nat) (x : Core) : (s.setCore k x).pairs = s.pairs := rfl
@[simp] theorem State.setCore_mats (s : State) (k : Nat) (x : Core) : (s.setCore k x).mats = s.mats := rfl
@[simp] theorem State.setCore_dies (s : State) (k : Nat) (x : Core) : (s.setCore k x).dies = s.dies := rfl
@[simp] theorem State.setCore_ctxs (s : State) (k : Nat) (x : Core) : (s.setCore k x).ctxs = s.ctxs := rfl
@[simp] theorem State.setCore_xfers (s : State) (k : Nat) (x : Core) : (s.setCore k x).xfers = s.xfers := rfl
@[simp] theorem State.setCore_requests (s : State) (k : Nat) (x : Core) : (s.setCore k x).requests = s.requests := rfl
@[simp] theorem State.setCore_arrivals (s : State) (k : Nat) (x : Core) : (s.setCore k x).arrivals = s.arrivals := rfl
@[simp] theorem State.setCore_nextId (s : State) (k : Nat) (x : Core) : (s.setCore k x).nextId = s.nextId := rfl
@[simp] theorem State.setCore_chans (s : State) (k : Nat) (x : Core) : (s.setCore k x).chans = s.chans := rfl
@[simp] theorem State.setCore_bars (s : State) (k : Nat) (x : Core) : (s.setCore k x).bars = s.bars := rfl
@[simp] theorem State.setCore_waiting (s : State) (k : Nat) (x : Core) : (s.setCore k x).waiting = s.waiting := rfl
@[simp] theorem State.setCore_launches (s : State) (k : Nat) (x : Core) : (s.setCore k x).launches = s.launches := rfl
@[simp] theorem State.setCore_statusDue (s : State) (k : Nat) (x : Core) : (s.setCore k x).statusDue = s.statusDue := rfl
@[simp] theorem State.setCore_nextLaunch (s : State) (k : Nat) (x : Core) : (s.setCore k x).nextLaunch = s.nextLaunch := rfl
@[simp] theorem State.setCore_grants (s : State) (k : Nat) (x : Core) : (s.setCore k x).grants = s.grants := rfl
@[simp] theorem State.setCore_queues (s : State) (k : Nat) (x : Core) : (s.setCore k x).queues = s.queues := rfl
@[simp] theorem State.setCore_gangLate (s : State) (k : Nat) (x : Core) : (s.setCore k x).gangLate = s.gangLate := rfl
@[simp] theorem State.setCore_podSent (s : State) (k : Nat) (x : Core) : (s.setCore k x).podSent = s.podSent := rfl
@[simp] theorem State.setCore_adapters (s : State) (k : Nat) (x : Core) : (s.setCore k x).adapters = s.adapters := rfl
@[simp] theorem State.setCore_models (s : State) (k : Nat) (x : Core) : (s.setCore k x).models = s.models := rfl
@[simp] theorem State.setCore_wobjs (s : State) (k : Nat) (x : Core) : (s.setCore k x).wobjs = s.wobjs := rfl
@[simp] theorem State.setCore_banks (s : State) (k : Nat) (x : Core) : (s.setCore k x).banks = s.banks := rfl
@[simp] theorem State.setCore_loads (s : State) (k : Nat) (x : Core) : (s.setCore k x).loads = s.loads := rfl
@[simp] theorem State.setCore_measured (s : State) (k : Nat) (x : Core) : (s.setCore k x).measured = s.measured := rfl
@[simp] theorem State.setCore_codes (s : State) (k : Nat) (x : Core) : (s.setCore k x).codes = s.codes := rfl
@[simp] theorem State.setCore_nextCode (s : State) (k : Nat) (x : Core) : (s.setCore k x).nextCode = s.nextCode := rfl
@[simp] theorem State.setCore_nextGid (s : State) (k : Nat) (x : Core) : (s.setCore k x).nextGid = s.nextGid := rfl
@[simp] theorem State.setCore_cellar (s : State) (k : Nat) (x : Core) : (s.setCore k x).cellar = s.cellar := rfl
@[simp] theorem State.setCore_fns (s : State) (k : Nat) (x : Core) : (s.setCore k x).fns = s.fns := rfl
@[simp] theorem State.setCore_fnOf (s : State) (k : Nat) (x : Core) : (s.setCore k x).fnOf = s.fnOf := rfl
@[simp] theorem State.setCore_flrNext (s : State) (k : Nat) (x : Core) : (s.setCore k x).flrNext = s.flrNext := rfl
@[simp] theorem State.setCore_keys (s : State) (k : Nat) (x : Core) : (s.setCore k x).keys = s.keys := rfl
@[simp] theorem State.setCore_fuses (s : State) (k : Nat) (x : Core) : (s.setCore k x).fuses = s.fuses := rfl
@[simp] theorem State.setCore_units (s : State) (k : Nat) (x : Core) : (s.setCore k x).units = s.units := rfl
@[simp] theorem State.setCore_started (s : State) (k : Nat) (x : Core) : (s.setCore k x).started = s.started := rfl
@[simp] theorem State.setCore_pod (s : State) (k : Nat) (x : Core) : (s.setCore k x).pod = s.pod := rfl
@[simp] theorem State.setCore_cfeA (s : State) (k : Nat) (x : Core) : (s.setCore k x).cfeA = s.cfeA := rfl
@[simp] theorem State.setCore_cfeB (s : State) (k : Nat) (x : Core) : (s.setCore k x).cfeB = s.cfeB := rfl
@[simp] theorem State.setCore_cfeActiveB (s : State) (k : Nat) (x : Core) : (s.setCore k x).cfeActiveB = s.cfeActiveB := rfl
@[simp] theorem State.setCore_cfeSwitching (s : State) (k : Nat) (x : Core) : (s.setCore k x).cfeSwitching = s.cfeSwitching := rfl
@[simp] theorem State.setCore_iodLink (s : State) (k : Nat) (x : Core) : (s.setCore k x).iodLink = s.iodLink := rfl
@[simp] theorem State.setCore_debug (s : State) (k : Nat) (x : Core) : (s.setCore k x).debug = s.debug := rfl
@[simp] theorem State.setCore_secLog (s : State) (k : Nat) (x : Core) : (s.setCore k x).secLog = s.secLog := rfl
@[simp] theorem State.setCore_events (s : State) (k : Nat) (x : Core) : (s.setCore k x).events = s.events := rfl
@[simp] theorem State.setCore_mgmt (s : State) (k : Nat) (x : Core) : (s.setCore k x).mgmt = s.mgmt := rfl
@[simp] theorem State.setCore_task (s : State) (k j : Nat) (x : Core) : (s.setCore k x).task j = s.task j := rfl
@[simp] theorem State.setCore_fw (s : State) (k j : Nat) (x : Core) : (s.setCore k x).fw j = s.fw j := rfl
@[simp] theorem State.setCore_core_same (s : State) (k : Nat) (x : Core) : (s.setCore k x).core k = x := by simp [State.core]
theorem State.setCore_core_other (s : State) {k j : Nat} (x : Core) (h : j ≠ k) : (s.setCore k x).core j = s.core j := by
  simp [State.core, tget_tput_other, h]
@[simp] theorem State.setCore_pair (s : State) (k j : Nat) (x : Core) : (s.setCore k x).pair j = s.pair j := rfl
@[simp] theorem State.setCore_mat (s : State) (k j : Nat) (x : Core) : (s.setCore k x).mat j = s.mat j := rfl
@[simp] theorem State.setCore_die (s : State) (k j : Nat) (x : Core) : (s.setCore k x).die j = s.die j := rfl
@[simp] theorem State.setCore_ctx (s : State) (k j : Nat) (x : Core) : (s.setCore k x).ctx j = s.ctx j := rfl
@[simp] theorem State.setCore_queue (s : State) (k j : Nat) (x : Core) : (s.setCore k x).queue j = s.queue j := rfl
@[simp] theorem State.setCore_adapter (s : State) (k j : Nat) (x : Core) : (s.setCore k x).adapter j = s.adapter j := rfl
@[simp] theorem State.setCore_model (s : State) (k j : Nat) (x : Core) : (s.setCore k x).model j = s.model j := rfl
@[simp] theorem State.setCore_wobj (s : State) (k j : Nat) (x : Core) : (s.setCore k x).wobj j = s.wobj j := rfl
@[simp] theorem State.setCore_bank (s : State) (k j : Nat) (x : Core) : (s.setCore k x).bank j = s.bank j := rfl
@[simp] theorem State.setCore_fn (s : State) (k j : Nat) (x : Core) : (s.setCore k x).fn j = s.fn j := rfl

/-! ## setPair -/

@[simp] theorem State.setPair_agenda (s : State) (k : Nat) (x : Pair) : (s.setPair k x).agenda = s.agenda := rfl
@[simp] theorem State.setPair_focus (s : State) (k : Nat) (x : Pair) : (s.setPair k x).focus = s.focus := rfl
@[simp] theorem State.setPair_unready (s : State) (k : Nat) (x : Pair) : (s.setPair k x).unready = s.unready := rfl
@[simp] theorem State.setPair_slips (s : State) (k : Nat) (x : Pair) : (s.setPair k x).slips = s.slips := rfl
@[simp] theorem State.setPair_queued (s : State) (k : Nat) (x : Pair) : (s.setPair k x).queued = s.queued := rfl
@[simp] theorem State.setPair_heldSince (s : State) (k : Nat) (x : Pair) : (s.setPair k x).heldSince = s.heldSince := rfl
@[simp] theorem State.setPair_turn (s : State) (k : Nat) (x : Pair) : (s.setPair k x).turn = s.turn := rfl
@[simp] theorem State.setPair_freeIdx (s : State) (k : Nat) (x : Pair) : (s.setPair k x).freeIdx = s.freeIdx := rfl
@[simp] theorem State.setPair_power (s : State) (k : Nat) (x : Pair) : (s.setPair k x).power = s.power := rfl
@[simp] theorem State.setPair_mem (s : State) (k : Nat) (x : Pair) : (s.setPair k x).mem = s.mem := rfl
@[simp] theorem State.setPair_poison (s : State) (k : Nat) (x : Pair) : (s.setPair k x).poison = s.poison := rfl
@[simp] theorem State.setPair_regPoison (s : State) (k : Nat) (x : Pair) : (s.setPair k x).regPoison = s.regPoison := rfl
@[simp] theorem State.setPair_slotRecs (s : State) (k : Nat) (x : Pair) : (s.setPair k x).slotRecs = s.slotRecs := rfl
@[simp] theorem State.setPair_tasks (s : State) (k : Nat) (x : Pair) : (s.setPair k x).tasks = s.tasks := rfl
@[simp] theorem State.setPair_fws (s : State) (k : Nat) (x : Pair) : (s.setPair k x).fws = s.fws := rfl
@[simp] theorem State.setPair_cores (s : State) (k : Nat) (x : Pair) : (s.setPair k x).cores = s.cores := rfl
@[simp] theorem State.setPair_pairs (s : State) (k : Nat) (x : Pair) : (s.setPair k x).pairs = tput s.pairs k x := rfl
@[simp] theorem State.setPair_mats (s : State) (k : Nat) (x : Pair) : (s.setPair k x).mats = s.mats := rfl
@[simp] theorem State.setPair_dies (s : State) (k : Nat) (x : Pair) : (s.setPair k x).dies = s.dies := rfl
@[simp] theorem State.setPair_ctxs (s : State) (k : Nat) (x : Pair) : (s.setPair k x).ctxs = s.ctxs := rfl
@[simp] theorem State.setPair_xfers (s : State) (k : Nat) (x : Pair) : (s.setPair k x).xfers = s.xfers := rfl
@[simp] theorem State.setPair_requests (s : State) (k : Nat) (x : Pair) : (s.setPair k x).requests = s.requests := rfl
@[simp] theorem State.setPair_arrivals (s : State) (k : Nat) (x : Pair) : (s.setPair k x).arrivals = s.arrivals := rfl
@[simp] theorem State.setPair_nextId (s : State) (k : Nat) (x : Pair) : (s.setPair k x).nextId = s.nextId := rfl
@[simp] theorem State.setPair_chans (s : State) (k : Nat) (x : Pair) : (s.setPair k x).chans = s.chans := rfl
@[simp] theorem State.setPair_bars (s : State) (k : Nat) (x : Pair) : (s.setPair k x).bars = s.bars := rfl
@[simp] theorem State.setPair_waiting (s : State) (k : Nat) (x : Pair) : (s.setPair k x).waiting = s.waiting := rfl
@[simp] theorem State.setPair_launches (s : State) (k : Nat) (x : Pair) : (s.setPair k x).launches = s.launches := rfl
@[simp] theorem State.setPair_statusDue (s : State) (k : Nat) (x : Pair) : (s.setPair k x).statusDue = s.statusDue := rfl
@[simp] theorem State.setPair_nextLaunch (s : State) (k : Nat) (x : Pair) : (s.setPair k x).nextLaunch = s.nextLaunch := rfl
@[simp] theorem State.setPair_grants (s : State) (k : Nat) (x : Pair) : (s.setPair k x).grants = s.grants := rfl
@[simp] theorem State.setPair_queues (s : State) (k : Nat) (x : Pair) : (s.setPair k x).queues = s.queues := rfl
@[simp] theorem State.setPair_gangLate (s : State) (k : Nat) (x : Pair) : (s.setPair k x).gangLate = s.gangLate := rfl
@[simp] theorem State.setPair_podSent (s : State) (k : Nat) (x : Pair) : (s.setPair k x).podSent = s.podSent := rfl
@[simp] theorem State.setPair_adapters (s : State) (k : Nat) (x : Pair) : (s.setPair k x).adapters = s.adapters := rfl
@[simp] theorem State.setPair_models (s : State) (k : Nat) (x : Pair) : (s.setPair k x).models = s.models := rfl
@[simp] theorem State.setPair_wobjs (s : State) (k : Nat) (x : Pair) : (s.setPair k x).wobjs = s.wobjs := rfl
@[simp] theorem State.setPair_banks (s : State) (k : Nat) (x : Pair) : (s.setPair k x).banks = s.banks := rfl
@[simp] theorem State.setPair_loads (s : State) (k : Nat) (x : Pair) : (s.setPair k x).loads = s.loads := rfl
@[simp] theorem State.setPair_measured (s : State) (k : Nat) (x : Pair) : (s.setPair k x).measured = s.measured := rfl
@[simp] theorem State.setPair_codes (s : State) (k : Nat) (x : Pair) : (s.setPair k x).codes = s.codes := rfl
@[simp] theorem State.setPair_nextCode (s : State) (k : Nat) (x : Pair) : (s.setPair k x).nextCode = s.nextCode := rfl
@[simp] theorem State.setPair_nextGid (s : State) (k : Nat) (x : Pair) : (s.setPair k x).nextGid = s.nextGid := rfl
@[simp] theorem State.setPair_cellar (s : State) (k : Nat) (x : Pair) : (s.setPair k x).cellar = s.cellar := rfl
@[simp] theorem State.setPair_fns (s : State) (k : Nat) (x : Pair) : (s.setPair k x).fns = s.fns := rfl
@[simp] theorem State.setPair_fnOf (s : State) (k : Nat) (x : Pair) : (s.setPair k x).fnOf = s.fnOf := rfl
@[simp] theorem State.setPair_flrNext (s : State) (k : Nat) (x : Pair) : (s.setPair k x).flrNext = s.flrNext := rfl
@[simp] theorem State.setPair_keys (s : State) (k : Nat) (x : Pair) : (s.setPair k x).keys = s.keys := rfl
@[simp] theorem State.setPair_fuses (s : State) (k : Nat) (x : Pair) : (s.setPair k x).fuses = s.fuses := rfl
@[simp] theorem State.setPair_units (s : State) (k : Nat) (x : Pair) : (s.setPair k x).units = s.units := rfl
@[simp] theorem State.setPair_started (s : State) (k : Nat) (x : Pair) : (s.setPair k x).started = s.started := rfl
@[simp] theorem State.setPair_pod (s : State) (k : Nat) (x : Pair) : (s.setPair k x).pod = s.pod := rfl
@[simp] theorem State.setPair_cfeA (s : State) (k : Nat) (x : Pair) : (s.setPair k x).cfeA = s.cfeA := rfl
@[simp] theorem State.setPair_cfeB (s : State) (k : Nat) (x : Pair) : (s.setPair k x).cfeB = s.cfeB := rfl
@[simp] theorem State.setPair_cfeActiveB (s : State) (k : Nat) (x : Pair) : (s.setPair k x).cfeActiveB = s.cfeActiveB := rfl
@[simp] theorem State.setPair_cfeSwitching (s : State) (k : Nat) (x : Pair) : (s.setPair k x).cfeSwitching = s.cfeSwitching := rfl
@[simp] theorem State.setPair_iodLink (s : State) (k : Nat) (x : Pair) : (s.setPair k x).iodLink = s.iodLink := rfl
@[simp] theorem State.setPair_debug (s : State) (k : Nat) (x : Pair) : (s.setPair k x).debug = s.debug := rfl
@[simp] theorem State.setPair_secLog (s : State) (k : Nat) (x : Pair) : (s.setPair k x).secLog = s.secLog := rfl
@[simp] theorem State.setPair_events (s : State) (k : Nat) (x : Pair) : (s.setPair k x).events = s.events := rfl
@[simp] theorem State.setPair_mgmt (s : State) (k : Nat) (x : Pair) : (s.setPair k x).mgmt = s.mgmt := rfl
@[simp] theorem State.setPair_task (s : State) (k j : Nat) (x : Pair) : (s.setPair k x).task j = s.task j := rfl
@[simp] theorem State.setPair_fw (s : State) (k j : Nat) (x : Pair) : (s.setPair k x).fw j = s.fw j := rfl
@[simp] theorem State.setPair_core (s : State) (k j : Nat) (x : Pair) : (s.setPair k x).core j = s.core j := rfl
@[simp] theorem State.setPair_pair_same (s : State) (k : Nat) (x : Pair) : (s.setPair k x).pair k = x := by simp [State.pair]
theorem State.setPair_pair_other (s : State) {k j : Nat} (x : Pair) (h : j ≠ k) : (s.setPair k x).pair j = s.pair j := by
  simp [State.pair, tget_tput_other, h]
@[simp] theorem State.setPair_mat (s : State) (k j : Nat) (x : Pair) : (s.setPair k x).mat j = s.mat j := rfl
@[simp] theorem State.setPair_die (s : State) (k j : Nat) (x : Pair) : (s.setPair k x).die j = s.die j := rfl
@[simp] theorem State.setPair_ctx (s : State) (k j : Nat) (x : Pair) : (s.setPair k x).ctx j = s.ctx j := rfl
@[simp] theorem State.setPair_queue (s : State) (k j : Nat) (x : Pair) : (s.setPair k x).queue j = s.queue j := rfl
@[simp] theorem State.setPair_adapter (s : State) (k j : Nat) (x : Pair) : (s.setPair k x).adapter j = s.adapter j := rfl
@[simp] theorem State.setPair_model (s : State) (k j : Nat) (x : Pair) : (s.setPair k x).model j = s.model j := rfl
@[simp] theorem State.setPair_wobj (s : State) (k j : Nat) (x : Pair) : (s.setPair k x).wobj j = s.wobj j := rfl
@[simp] theorem State.setPair_bank (s : State) (k j : Nat) (x : Pair) : (s.setPair k x).bank j = s.bank j := rfl
@[simp] theorem State.setPair_fn (s : State) (k j : Nat) (x : Pair) : (s.setPair k x).fn j = s.fn j := rfl

/-! ## setMat -/

@[simp] theorem State.setMat_agenda (s : State) (k : Nat) (x : Matrix) : (s.setMat k x).agenda = s.agenda := rfl
@[simp] theorem State.setMat_focus (s : State) (k : Nat) (x : Matrix) : (s.setMat k x).focus = s.focus := rfl
@[simp] theorem State.setMat_unready (s : State) (k : Nat) (x : Matrix) : (s.setMat k x).unready = s.unready := rfl
@[simp] theorem State.setMat_slips (s : State) (k : Nat) (x : Matrix) : (s.setMat k x).slips = s.slips := rfl
@[simp] theorem State.setMat_queued (s : State) (k : Nat) (x : Matrix) : (s.setMat k x).queued = s.queued := rfl
@[simp] theorem State.setMat_heldSince (s : State) (k : Nat) (x : Matrix) : (s.setMat k x).heldSince = s.heldSince := rfl
@[simp] theorem State.setMat_turn (s : State) (k : Nat) (x : Matrix) : (s.setMat k x).turn = s.turn := rfl
@[simp] theorem State.setMat_freeIdx (s : State) (k : Nat) (x : Matrix) : (s.setMat k x).freeIdx = s.freeIdx := rfl
@[simp] theorem State.setMat_power (s : State) (k : Nat) (x : Matrix) : (s.setMat k x).power = s.power := rfl
@[simp] theorem State.setMat_mem (s : State) (k : Nat) (x : Matrix) : (s.setMat k x).mem = s.mem := rfl
@[simp] theorem State.setMat_poison (s : State) (k : Nat) (x : Matrix) : (s.setMat k x).poison = s.poison := rfl
@[simp] theorem State.setMat_regPoison (s : State) (k : Nat) (x : Matrix) : (s.setMat k x).regPoison = s.regPoison := rfl
@[simp] theorem State.setMat_slotRecs (s : State) (k : Nat) (x : Matrix) : (s.setMat k x).slotRecs = s.slotRecs := rfl
@[simp] theorem State.setMat_tasks (s : State) (k : Nat) (x : Matrix) : (s.setMat k x).tasks = s.tasks := rfl
@[simp] theorem State.setMat_fws (s : State) (k : Nat) (x : Matrix) : (s.setMat k x).fws = s.fws := rfl
@[simp] theorem State.setMat_cores (s : State) (k : Nat) (x : Matrix) : (s.setMat k x).cores = s.cores := rfl
@[simp] theorem State.setMat_pairs (s : State) (k : Nat) (x : Matrix) : (s.setMat k x).pairs = s.pairs := rfl
@[simp] theorem State.setMat_mats (s : State) (k : Nat) (x : Matrix) : (s.setMat k x).mats = tput s.mats k x := rfl
@[simp] theorem State.setMat_dies (s : State) (k : Nat) (x : Matrix) : (s.setMat k x).dies = s.dies := rfl
@[simp] theorem State.setMat_ctxs (s : State) (k : Nat) (x : Matrix) : (s.setMat k x).ctxs = s.ctxs := rfl
@[simp] theorem State.setMat_xfers (s : State) (k : Nat) (x : Matrix) : (s.setMat k x).xfers = s.xfers := rfl
@[simp] theorem State.setMat_requests (s : State) (k : Nat) (x : Matrix) : (s.setMat k x).requests = s.requests := rfl
@[simp] theorem State.setMat_arrivals (s : State) (k : Nat) (x : Matrix) : (s.setMat k x).arrivals = s.arrivals := rfl
@[simp] theorem State.setMat_nextId (s : State) (k : Nat) (x : Matrix) : (s.setMat k x).nextId = s.nextId := rfl
@[simp] theorem State.setMat_chans (s : State) (k : Nat) (x : Matrix) : (s.setMat k x).chans = s.chans := rfl
@[simp] theorem State.setMat_bars (s : State) (k : Nat) (x : Matrix) : (s.setMat k x).bars = s.bars := rfl
@[simp] theorem State.setMat_waiting (s : State) (k : Nat) (x : Matrix) : (s.setMat k x).waiting = s.waiting := rfl
@[simp] theorem State.setMat_launches (s : State) (k : Nat) (x : Matrix) : (s.setMat k x).launches = s.launches := rfl
@[simp] theorem State.setMat_statusDue (s : State) (k : Nat) (x : Matrix) : (s.setMat k x).statusDue = s.statusDue := rfl
@[simp] theorem State.setMat_nextLaunch (s : State) (k : Nat) (x : Matrix) : (s.setMat k x).nextLaunch = s.nextLaunch := rfl
@[simp] theorem State.setMat_grants (s : State) (k : Nat) (x : Matrix) : (s.setMat k x).grants = s.grants := rfl
@[simp] theorem State.setMat_queues (s : State) (k : Nat) (x : Matrix) : (s.setMat k x).queues = s.queues := rfl
@[simp] theorem State.setMat_gangLate (s : State) (k : Nat) (x : Matrix) : (s.setMat k x).gangLate = s.gangLate := rfl
@[simp] theorem State.setMat_podSent (s : State) (k : Nat) (x : Matrix) : (s.setMat k x).podSent = s.podSent := rfl
@[simp] theorem State.setMat_adapters (s : State) (k : Nat) (x : Matrix) : (s.setMat k x).adapters = s.adapters := rfl
@[simp] theorem State.setMat_models (s : State) (k : Nat) (x : Matrix) : (s.setMat k x).models = s.models := rfl
@[simp] theorem State.setMat_wobjs (s : State) (k : Nat) (x : Matrix) : (s.setMat k x).wobjs = s.wobjs := rfl
@[simp] theorem State.setMat_banks (s : State) (k : Nat) (x : Matrix) : (s.setMat k x).banks = s.banks := rfl
@[simp] theorem State.setMat_loads (s : State) (k : Nat) (x : Matrix) : (s.setMat k x).loads = s.loads := rfl
@[simp] theorem State.setMat_measured (s : State) (k : Nat) (x : Matrix) : (s.setMat k x).measured = s.measured := rfl
@[simp] theorem State.setMat_codes (s : State) (k : Nat) (x : Matrix) : (s.setMat k x).codes = s.codes := rfl
@[simp] theorem State.setMat_nextCode (s : State) (k : Nat) (x : Matrix) : (s.setMat k x).nextCode = s.nextCode := rfl
@[simp] theorem State.setMat_nextGid (s : State) (k : Nat) (x : Matrix) : (s.setMat k x).nextGid = s.nextGid := rfl
@[simp] theorem State.setMat_cellar (s : State) (k : Nat) (x : Matrix) : (s.setMat k x).cellar = s.cellar := rfl
@[simp] theorem State.setMat_fns (s : State) (k : Nat) (x : Matrix) : (s.setMat k x).fns = s.fns := rfl
@[simp] theorem State.setMat_fnOf (s : State) (k : Nat) (x : Matrix) : (s.setMat k x).fnOf = s.fnOf := rfl
@[simp] theorem State.setMat_flrNext (s : State) (k : Nat) (x : Matrix) : (s.setMat k x).flrNext = s.flrNext := rfl
@[simp] theorem State.setMat_keys (s : State) (k : Nat) (x : Matrix) : (s.setMat k x).keys = s.keys := rfl
@[simp] theorem State.setMat_fuses (s : State) (k : Nat) (x : Matrix) : (s.setMat k x).fuses = s.fuses := rfl
@[simp] theorem State.setMat_units (s : State) (k : Nat) (x : Matrix) : (s.setMat k x).units = s.units := rfl
@[simp] theorem State.setMat_started (s : State) (k : Nat) (x : Matrix) : (s.setMat k x).started = s.started := rfl
@[simp] theorem State.setMat_pod (s : State) (k : Nat) (x : Matrix) : (s.setMat k x).pod = s.pod := rfl
@[simp] theorem State.setMat_cfeA (s : State) (k : Nat) (x : Matrix) : (s.setMat k x).cfeA = s.cfeA := rfl
@[simp] theorem State.setMat_cfeB (s : State) (k : Nat) (x : Matrix) : (s.setMat k x).cfeB = s.cfeB := rfl
@[simp] theorem State.setMat_cfeActiveB (s : State) (k : Nat) (x : Matrix) : (s.setMat k x).cfeActiveB = s.cfeActiveB := rfl
@[simp] theorem State.setMat_cfeSwitching (s : State) (k : Nat) (x : Matrix) : (s.setMat k x).cfeSwitching = s.cfeSwitching := rfl
@[simp] theorem State.setMat_iodLink (s : State) (k : Nat) (x : Matrix) : (s.setMat k x).iodLink = s.iodLink := rfl
@[simp] theorem State.setMat_debug (s : State) (k : Nat) (x : Matrix) : (s.setMat k x).debug = s.debug := rfl
@[simp] theorem State.setMat_secLog (s : State) (k : Nat) (x : Matrix) : (s.setMat k x).secLog = s.secLog := rfl
@[simp] theorem State.setMat_events (s : State) (k : Nat) (x : Matrix) : (s.setMat k x).events = s.events := rfl
@[simp] theorem State.setMat_mgmt (s : State) (k : Nat) (x : Matrix) : (s.setMat k x).mgmt = s.mgmt := rfl
@[simp] theorem State.setMat_task (s : State) (k j : Nat) (x : Matrix) : (s.setMat k x).task j = s.task j := rfl
@[simp] theorem State.setMat_fw (s : State) (k j : Nat) (x : Matrix) : (s.setMat k x).fw j = s.fw j := rfl
@[simp] theorem State.setMat_core (s : State) (k j : Nat) (x : Matrix) : (s.setMat k x).core j = s.core j := rfl
@[simp] theorem State.setMat_pair (s : State) (k j : Nat) (x : Matrix) : (s.setMat k x).pair j = s.pair j := rfl
@[simp] theorem State.setMat_mat_same (s : State) (k : Nat) (x : Matrix) : (s.setMat k x).mat k = x := by simp [State.mat]
theorem State.setMat_mat_other (s : State) {k j : Nat} (x : Matrix) (h : j ≠ k) : (s.setMat k x).mat j = s.mat j := by
  simp [State.mat, tget_tput_other, h]
@[simp] theorem State.setMat_die (s : State) (k j : Nat) (x : Matrix) : (s.setMat k x).die j = s.die j := rfl
@[simp] theorem State.setMat_ctx (s : State) (k j : Nat) (x : Matrix) : (s.setMat k x).ctx j = s.ctx j := rfl
@[simp] theorem State.setMat_queue (s : State) (k j : Nat) (x : Matrix) : (s.setMat k x).queue j = s.queue j := rfl
@[simp] theorem State.setMat_adapter (s : State) (k j : Nat) (x : Matrix) : (s.setMat k x).adapter j = s.adapter j := rfl
@[simp] theorem State.setMat_model (s : State) (k j : Nat) (x : Matrix) : (s.setMat k x).model j = s.model j := rfl
@[simp] theorem State.setMat_wobj (s : State) (k j : Nat) (x : Matrix) : (s.setMat k x).wobj j = s.wobj j := rfl
@[simp] theorem State.setMat_bank (s : State) (k j : Nat) (x : Matrix) : (s.setMat k x).bank j = s.bank j := rfl
@[simp] theorem State.setMat_fn (s : State) (k j : Nat) (x : Matrix) : (s.setMat k x).fn j = s.fn j := rfl

/-! ## setDie -/

@[simp] theorem State.setDie_agenda (s : State) (k : Nat) (x : Die) : (s.setDie k x).agenda = s.agenda := rfl
@[simp] theorem State.setDie_focus (s : State) (k : Nat) (x : Die) : (s.setDie k x).focus = s.focus := rfl
@[simp] theorem State.setDie_unready (s : State) (k : Nat) (x : Die) : (s.setDie k x).unready = s.unready := rfl
@[simp] theorem State.setDie_slips (s : State) (k : Nat) (x : Die) : (s.setDie k x).slips = s.slips := rfl
@[simp] theorem State.setDie_queued (s : State) (k : Nat) (x : Die) : (s.setDie k x).queued = s.queued := rfl
@[simp] theorem State.setDie_heldSince (s : State) (k : Nat) (x : Die) : (s.setDie k x).heldSince = s.heldSince := rfl
@[simp] theorem State.setDie_turn (s : State) (k : Nat) (x : Die) : (s.setDie k x).turn = s.turn := rfl
@[simp] theorem State.setDie_freeIdx (s : State) (k : Nat) (x : Die) : (s.setDie k x).freeIdx = s.freeIdx := rfl
@[simp] theorem State.setDie_power (s : State) (k : Nat) (x : Die) : (s.setDie k x).power = s.power := rfl
@[simp] theorem State.setDie_mem (s : State) (k : Nat) (x : Die) : (s.setDie k x).mem = s.mem := rfl
@[simp] theorem State.setDie_poison (s : State) (k : Nat) (x : Die) : (s.setDie k x).poison = s.poison := rfl
@[simp] theorem State.setDie_regPoison (s : State) (k : Nat) (x : Die) : (s.setDie k x).regPoison = s.regPoison := rfl
@[simp] theorem State.setDie_slotRecs (s : State) (k : Nat) (x : Die) : (s.setDie k x).slotRecs = s.slotRecs := rfl
@[simp] theorem State.setDie_tasks (s : State) (k : Nat) (x : Die) : (s.setDie k x).tasks = s.tasks := rfl
@[simp] theorem State.setDie_fws (s : State) (k : Nat) (x : Die) : (s.setDie k x).fws = s.fws := rfl
@[simp] theorem State.setDie_cores (s : State) (k : Nat) (x : Die) : (s.setDie k x).cores = s.cores := rfl
@[simp] theorem State.setDie_pairs (s : State) (k : Nat) (x : Die) : (s.setDie k x).pairs = s.pairs := rfl
@[simp] theorem State.setDie_mats (s : State) (k : Nat) (x : Die) : (s.setDie k x).mats = s.mats := rfl
@[simp] theorem State.setDie_dies (s : State) (k : Nat) (x : Die) : (s.setDie k x).dies = tput s.dies k x := rfl
@[simp] theorem State.setDie_ctxs (s : State) (k : Nat) (x : Die) : (s.setDie k x).ctxs = s.ctxs := rfl
@[simp] theorem State.setDie_xfers (s : State) (k : Nat) (x : Die) : (s.setDie k x).xfers = s.xfers := rfl
@[simp] theorem State.setDie_requests (s : State) (k : Nat) (x : Die) : (s.setDie k x).requests = s.requests := rfl
@[simp] theorem State.setDie_arrivals (s : State) (k : Nat) (x : Die) : (s.setDie k x).arrivals = s.arrivals := rfl
@[simp] theorem State.setDie_nextId (s : State) (k : Nat) (x : Die) : (s.setDie k x).nextId = s.nextId := rfl
@[simp] theorem State.setDie_chans (s : State) (k : Nat) (x : Die) : (s.setDie k x).chans = s.chans := rfl
@[simp] theorem State.setDie_bars (s : State) (k : Nat) (x : Die) : (s.setDie k x).bars = s.bars := rfl
@[simp] theorem State.setDie_waiting (s : State) (k : Nat) (x : Die) : (s.setDie k x).waiting = s.waiting := rfl
@[simp] theorem State.setDie_launches (s : State) (k : Nat) (x : Die) : (s.setDie k x).launches = s.launches := rfl
@[simp] theorem State.setDie_statusDue (s : State) (k : Nat) (x : Die) : (s.setDie k x).statusDue = s.statusDue := rfl
@[simp] theorem State.setDie_nextLaunch (s : State) (k : Nat) (x : Die) : (s.setDie k x).nextLaunch = s.nextLaunch := rfl
@[simp] theorem State.setDie_grants (s : State) (k : Nat) (x : Die) : (s.setDie k x).grants = s.grants := rfl
@[simp] theorem State.setDie_queues (s : State) (k : Nat) (x : Die) : (s.setDie k x).queues = s.queues := rfl
@[simp] theorem State.setDie_gangLate (s : State) (k : Nat) (x : Die) : (s.setDie k x).gangLate = s.gangLate := rfl
@[simp] theorem State.setDie_podSent (s : State) (k : Nat) (x : Die) : (s.setDie k x).podSent = s.podSent := rfl
@[simp] theorem State.setDie_adapters (s : State) (k : Nat) (x : Die) : (s.setDie k x).adapters = s.adapters := rfl
@[simp] theorem State.setDie_models (s : State) (k : Nat) (x : Die) : (s.setDie k x).models = s.models := rfl
@[simp] theorem State.setDie_wobjs (s : State) (k : Nat) (x : Die) : (s.setDie k x).wobjs = s.wobjs := rfl
@[simp] theorem State.setDie_banks (s : State) (k : Nat) (x : Die) : (s.setDie k x).banks = s.banks := rfl
@[simp] theorem State.setDie_loads (s : State) (k : Nat) (x : Die) : (s.setDie k x).loads = s.loads := rfl
@[simp] theorem State.setDie_measured (s : State) (k : Nat) (x : Die) : (s.setDie k x).measured = s.measured := rfl
@[simp] theorem State.setDie_codes (s : State) (k : Nat) (x : Die) : (s.setDie k x).codes = s.codes := rfl
@[simp] theorem State.setDie_nextCode (s : State) (k : Nat) (x : Die) : (s.setDie k x).nextCode = s.nextCode := rfl
@[simp] theorem State.setDie_nextGid (s : State) (k : Nat) (x : Die) : (s.setDie k x).nextGid = s.nextGid := rfl
@[simp] theorem State.setDie_cellar (s : State) (k : Nat) (x : Die) : (s.setDie k x).cellar = s.cellar := rfl
@[simp] theorem State.setDie_fns (s : State) (k : Nat) (x : Die) : (s.setDie k x).fns = s.fns := rfl
@[simp] theorem State.setDie_fnOf (s : State) (k : Nat) (x : Die) : (s.setDie k x).fnOf = s.fnOf := rfl
@[simp] theorem State.setDie_flrNext (s : State) (k : Nat) (x : Die) : (s.setDie k x).flrNext = s.flrNext := rfl
@[simp] theorem State.setDie_keys (s : State) (k : Nat) (x : Die) : (s.setDie k x).keys = s.keys := rfl
@[simp] theorem State.setDie_fuses (s : State) (k : Nat) (x : Die) : (s.setDie k x).fuses = s.fuses := rfl
@[simp] theorem State.setDie_units (s : State) (k : Nat) (x : Die) : (s.setDie k x).units = s.units := rfl
@[simp] theorem State.setDie_started (s : State) (k : Nat) (x : Die) : (s.setDie k x).started = s.started := rfl
@[simp] theorem State.setDie_pod (s : State) (k : Nat) (x : Die) : (s.setDie k x).pod = s.pod := rfl
@[simp] theorem State.setDie_cfeA (s : State) (k : Nat) (x : Die) : (s.setDie k x).cfeA = s.cfeA := rfl
@[simp] theorem State.setDie_cfeB (s : State) (k : Nat) (x : Die) : (s.setDie k x).cfeB = s.cfeB := rfl
@[simp] theorem State.setDie_cfeActiveB (s : State) (k : Nat) (x : Die) : (s.setDie k x).cfeActiveB = s.cfeActiveB := rfl
@[simp] theorem State.setDie_cfeSwitching (s : State) (k : Nat) (x : Die) : (s.setDie k x).cfeSwitching = s.cfeSwitching := rfl
@[simp] theorem State.setDie_iodLink (s : State) (k : Nat) (x : Die) : (s.setDie k x).iodLink = s.iodLink := rfl
@[simp] theorem State.setDie_debug (s : State) (k : Nat) (x : Die) : (s.setDie k x).debug = s.debug := rfl
@[simp] theorem State.setDie_secLog (s : State) (k : Nat) (x : Die) : (s.setDie k x).secLog = s.secLog := rfl
@[simp] theorem State.setDie_events (s : State) (k : Nat) (x : Die) : (s.setDie k x).events = s.events := rfl
@[simp] theorem State.setDie_mgmt (s : State) (k : Nat) (x : Die) : (s.setDie k x).mgmt = s.mgmt := rfl
@[simp] theorem State.setDie_task (s : State) (k j : Nat) (x : Die) : (s.setDie k x).task j = s.task j := rfl
@[simp] theorem State.setDie_fw (s : State) (k j : Nat) (x : Die) : (s.setDie k x).fw j = s.fw j := rfl
@[simp] theorem State.setDie_core (s : State) (k j : Nat) (x : Die) : (s.setDie k x).core j = s.core j := rfl
@[simp] theorem State.setDie_pair (s : State) (k j : Nat) (x : Die) : (s.setDie k x).pair j = s.pair j := rfl
@[simp] theorem State.setDie_mat (s : State) (k j : Nat) (x : Die) : (s.setDie k x).mat j = s.mat j := rfl
@[simp] theorem State.setDie_die_same (s : State) (k : Nat) (x : Die) : (s.setDie k x).die k = x := by simp [State.die]
theorem State.setDie_die_other (s : State) {k j : Nat} (x : Die) (h : j ≠ k) : (s.setDie k x).die j = s.die j := by
  simp [State.die, tget_tput_other, h]
@[simp] theorem State.setDie_ctx (s : State) (k j : Nat) (x : Die) : (s.setDie k x).ctx j = s.ctx j := rfl
@[simp] theorem State.setDie_queue (s : State) (k j : Nat) (x : Die) : (s.setDie k x).queue j = s.queue j := rfl
@[simp] theorem State.setDie_adapter (s : State) (k j : Nat) (x : Die) : (s.setDie k x).adapter j = s.adapter j := rfl
@[simp] theorem State.setDie_model (s : State) (k j : Nat) (x : Die) : (s.setDie k x).model j = s.model j := rfl
@[simp] theorem State.setDie_wobj (s : State) (k j : Nat) (x : Die) : (s.setDie k x).wobj j = s.wobj j := rfl
@[simp] theorem State.setDie_bank (s : State) (k j : Nat) (x : Die) : (s.setDie k x).bank j = s.bank j := rfl
@[simp] theorem State.setDie_fn (s : State) (k j : Nat) (x : Die) : (s.setDie k x).fn j = s.fn j := rfl

/-! ## setCtx -/

@[simp] theorem State.setCtx_agenda (s : State) (k : Nat) (x : Ctx) : (s.setCtx k x).agenda = s.agenda := rfl
@[simp] theorem State.setCtx_focus (s : State) (k : Nat) (x : Ctx) : (s.setCtx k x).focus = s.focus := rfl
@[simp] theorem State.setCtx_unready (s : State) (k : Nat) (x : Ctx) : (s.setCtx k x).unready = s.unready := rfl
@[simp] theorem State.setCtx_slips (s : State) (k : Nat) (x : Ctx) : (s.setCtx k x).slips = s.slips := rfl
@[simp] theorem State.setCtx_queued (s : State) (k : Nat) (x : Ctx) : (s.setCtx k x).queued = s.queued := rfl
@[simp] theorem State.setCtx_heldSince (s : State) (k : Nat) (x : Ctx) : (s.setCtx k x).heldSince = s.heldSince := rfl
@[simp] theorem State.setCtx_turn (s : State) (k : Nat) (x : Ctx) : (s.setCtx k x).turn = s.turn := rfl
@[simp] theorem State.setCtx_freeIdx (s : State) (k : Nat) (x : Ctx) : (s.setCtx k x).freeIdx = s.freeIdx := rfl
@[simp] theorem State.setCtx_power (s : State) (k : Nat) (x : Ctx) : (s.setCtx k x).power = s.power := rfl
@[simp] theorem State.setCtx_mem (s : State) (k : Nat) (x : Ctx) : (s.setCtx k x).mem = s.mem := rfl
@[simp] theorem State.setCtx_poison (s : State) (k : Nat) (x : Ctx) : (s.setCtx k x).poison = s.poison := rfl
@[simp] theorem State.setCtx_regPoison (s : State) (k : Nat) (x : Ctx) : (s.setCtx k x).regPoison = s.regPoison := rfl
@[simp] theorem State.setCtx_slotRecs (s : State) (k : Nat) (x : Ctx) : (s.setCtx k x).slotRecs = s.slotRecs := rfl
@[simp] theorem State.setCtx_tasks (s : State) (k : Nat) (x : Ctx) : (s.setCtx k x).tasks = s.tasks := rfl
@[simp] theorem State.setCtx_fws (s : State) (k : Nat) (x : Ctx) : (s.setCtx k x).fws = s.fws := rfl
@[simp] theorem State.setCtx_cores (s : State) (k : Nat) (x : Ctx) : (s.setCtx k x).cores = s.cores := rfl
@[simp] theorem State.setCtx_pairs (s : State) (k : Nat) (x : Ctx) : (s.setCtx k x).pairs = s.pairs := rfl
@[simp] theorem State.setCtx_mats (s : State) (k : Nat) (x : Ctx) : (s.setCtx k x).mats = s.mats := rfl
@[simp] theorem State.setCtx_dies (s : State) (k : Nat) (x : Ctx) : (s.setCtx k x).dies = s.dies := rfl
@[simp] theorem State.setCtx_ctxs (s : State) (k : Nat) (x : Ctx) : (s.setCtx k x).ctxs = tput s.ctxs k x := rfl
@[simp] theorem State.setCtx_xfers (s : State) (k : Nat) (x : Ctx) : (s.setCtx k x).xfers = s.xfers := rfl
@[simp] theorem State.setCtx_requests (s : State) (k : Nat) (x : Ctx) : (s.setCtx k x).requests = s.requests := rfl
@[simp] theorem State.setCtx_arrivals (s : State) (k : Nat) (x : Ctx) : (s.setCtx k x).arrivals = s.arrivals := rfl
@[simp] theorem State.setCtx_nextId (s : State) (k : Nat) (x : Ctx) : (s.setCtx k x).nextId = s.nextId := rfl
@[simp] theorem State.setCtx_chans (s : State) (k : Nat) (x : Ctx) : (s.setCtx k x).chans = s.chans := rfl
@[simp] theorem State.setCtx_bars (s : State) (k : Nat) (x : Ctx) : (s.setCtx k x).bars = s.bars := rfl
@[simp] theorem State.setCtx_waiting (s : State) (k : Nat) (x : Ctx) : (s.setCtx k x).waiting = s.waiting := rfl
@[simp] theorem State.setCtx_launches (s : State) (k : Nat) (x : Ctx) : (s.setCtx k x).launches = s.launches := rfl
@[simp] theorem State.setCtx_statusDue (s : State) (k : Nat) (x : Ctx) : (s.setCtx k x).statusDue = s.statusDue := rfl
@[simp] theorem State.setCtx_nextLaunch (s : State) (k : Nat) (x : Ctx) : (s.setCtx k x).nextLaunch = s.nextLaunch := rfl
@[simp] theorem State.setCtx_grants (s : State) (k : Nat) (x : Ctx) : (s.setCtx k x).grants = s.grants := rfl
@[simp] theorem State.setCtx_queues (s : State) (k : Nat) (x : Ctx) : (s.setCtx k x).queues = s.queues := rfl
@[simp] theorem State.setCtx_gangLate (s : State) (k : Nat) (x : Ctx) : (s.setCtx k x).gangLate = s.gangLate := rfl
@[simp] theorem State.setCtx_podSent (s : State) (k : Nat) (x : Ctx) : (s.setCtx k x).podSent = s.podSent := rfl
@[simp] theorem State.setCtx_adapters (s : State) (k : Nat) (x : Ctx) : (s.setCtx k x).adapters = s.adapters := rfl
@[simp] theorem State.setCtx_models (s : State) (k : Nat) (x : Ctx) : (s.setCtx k x).models = s.models := rfl
@[simp] theorem State.setCtx_wobjs (s : State) (k : Nat) (x : Ctx) : (s.setCtx k x).wobjs = s.wobjs := rfl
@[simp] theorem State.setCtx_banks (s : State) (k : Nat) (x : Ctx) : (s.setCtx k x).banks = s.banks := rfl
@[simp] theorem State.setCtx_loads (s : State) (k : Nat) (x : Ctx) : (s.setCtx k x).loads = s.loads := rfl
@[simp] theorem State.setCtx_measured (s : State) (k : Nat) (x : Ctx) : (s.setCtx k x).measured = s.measured := rfl
@[simp] theorem State.setCtx_codes (s : State) (k : Nat) (x : Ctx) : (s.setCtx k x).codes = s.codes := rfl
@[simp] theorem State.setCtx_nextCode (s : State) (k : Nat) (x : Ctx) : (s.setCtx k x).nextCode = s.nextCode := rfl
@[simp] theorem State.setCtx_nextGid (s : State) (k : Nat) (x : Ctx) : (s.setCtx k x).nextGid = s.nextGid := rfl
@[simp] theorem State.setCtx_cellar (s : State) (k : Nat) (x : Ctx) : (s.setCtx k x).cellar = s.cellar := rfl
@[simp] theorem State.setCtx_fns (s : State) (k : Nat) (x : Ctx) : (s.setCtx k x).fns = s.fns := rfl
@[simp] theorem State.setCtx_fnOf (s : State) (k : Nat) (x : Ctx) : (s.setCtx k x).fnOf = s.fnOf := rfl
@[simp] theorem State.setCtx_flrNext (s : State) (k : Nat) (x : Ctx) : (s.setCtx k x).flrNext = s.flrNext := rfl
@[simp] theorem State.setCtx_keys (s : State) (k : Nat) (x : Ctx) : (s.setCtx k x).keys = s.keys := rfl
@[simp] theorem State.setCtx_fuses (s : State) (k : Nat) (x : Ctx) : (s.setCtx k x).fuses = s.fuses := rfl
@[simp] theorem State.setCtx_units (s : State) (k : Nat) (x : Ctx) : (s.setCtx k x).units = s.units := rfl
@[simp] theorem State.setCtx_started (s : State) (k : Nat) (x : Ctx) : (s.setCtx k x).started = s.started := rfl
@[simp] theorem State.setCtx_pod (s : State) (k : Nat) (x : Ctx) : (s.setCtx k x).pod = s.pod := rfl
@[simp] theorem State.setCtx_cfeA (s : State) (k : Nat) (x : Ctx) : (s.setCtx k x).cfeA = s.cfeA := rfl
@[simp] theorem State.setCtx_cfeB (s : State) (k : Nat) (x : Ctx) : (s.setCtx k x).cfeB = s.cfeB := rfl
@[simp] theorem State.setCtx_cfeActiveB (s : State) (k : Nat) (x : Ctx) : (s.setCtx k x).cfeActiveB = s.cfeActiveB := rfl
@[simp] theorem State.setCtx_cfeSwitching (s : State) (k : Nat) (x : Ctx) : (s.setCtx k x).cfeSwitching = s.cfeSwitching := rfl
@[simp] theorem State.setCtx_iodLink (s : State) (k : Nat) (x : Ctx) : (s.setCtx k x).iodLink = s.iodLink := rfl
@[simp] theorem State.setCtx_debug (s : State) (k : Nat) (x : Ctx) : (s.setCtx k x).debug = s.debug := rfl
@[simp] theorem State.setCtx_secLog (s : State) (k : Nat) (x : Ctx) : (s.setCtx k x).secLog = s.secLog := rfl
@[simp] theorem State.setCtx_events (s : State) (k : Nat) (x : Ctx) : (s.setCtx k x).events = s.events := rfl
@[simp] theorem State.setCtx_mgmt (s : State) (k : Nat) (x : Ctx) : (s.setCtx k x).mgmt = s.mgmt := rfl
@[simp] theorem State.setCtx_task (s : State) (k j : Nat) (x : Ctx) : (s.setCtx k x).task j = s.task j := rfl
@[simp] theorem State.setCtx_fw (s : State) (k j : Nat) (x : Ctx) : (s.setCtx k x).fw j = s.fw j := rfl
@[simp] theorem State.setCtx_core (s : State) (k j : Nat) (x : Ctx) : (s.setCtx k x).core j = s.core j := rfl
@[simp] theorem State.setCtx_pair (s : State) (k j : Nat) (x : Ctx) : (s.setCtx k x).pair j = s.pair j := rfl
@[simp] theorem State.setCtx_mat (s : State) (k j : Nat) (x : Ctx) : (s.setCtx k x).mat j = s.mat j := rfl
@[simp] theorem State.setCtx_die (s : State) (k j : Nat) (x : Ctx) : (s.setCtx k x).die j = s.die j := rfl
@[simp] theorem State.setCtx_ctx_same (s : State) (k : Nat) (x : Ctx) : (s.setCtx k x).ctx k = x := by simp [State.ctx]
theorem State.setCtx_ctx_other (s : State) {k j : Nat} (x : Ctx) (h : j ≠ k) : (s.setCtx k x).ctx j = s.ctx j := by
  simp [State.ctx, tget_tput_other, h]
@[simp] theorem State.setCtx_queue (s : State) (k j : Nat) (x : Ctx) : (s.setCtx k x).queue j = s.queue j := rfl
@[simp] theorem State.setCtx_adapter (s : State) (k j : Nat) (x : Ctx) : (s.setCtx k x).adapter j = s.adapter j := rfl
@[simp] theorem State.setCtx_model (s : State) (k j : Nat) (x : Ctx) : (s.setCtx k x).model j = s.model j := rfl
@[simp] theorem State.setCtx_wobj (s : State) (k j : Nat) (x : Ctx) : (s.setCtx k x).wobj j = s.wobj j := rfl
@[simp] theorem State.setCtx_bank (s : State) (k j : Nat) (x : Ctx) : (s.setCtx k x).bank j = s.bank j := rfl
@[simp] theorem State.setCtx_fn (s : State) (k j : Nat) (x : Ctx) : (s.setCtx k x).fn j = s.fn j := rfl

/-! ## setQueue -/

@[simp] theorem State.setQueue_agenda (s : State) (k : Nat) (x : Queue) : (s.setQueue k x).agenda = s.agenda := rfl
@[simp] theorem State.setQueue_focus (s : State) (k : Nat) (x : Queue) : (s.setQueue k x).focus = s.focus := rfl
@[simp] theorem State.setQueue_unready (s : State) (k : Nat) (x : Queue) : (s.setQueue k x).unready = s.unready := rfl
@[simp] theorem State.setQueue_slips (s : State) (k : Nat) (x : Queue) : (s.setQueue k x).slips = s.slips := rfl
@[simp] theorem State.setQueue_queued (s : State) (k : Nat) (x : Queue) : (s.setQueue k x).queued = s.queued := rfl
@[simp] theorem State.setQueue_heldSince (s : State) (k : Nat) (x : Queue) : (s.setQueue k x).heldSince = s.heldSince := rfl
@[simp] theorem State.setQueue_turn (s : State) (k : Nat) (x : Queue) : (s.setQueue k x).turn = s.turn := rfl
@[simp] theorem State.setQueue_freeIdx (s : State) (k : Nat) (x : Queue) : (s.setQueue k x).freeIdx = s.freeIdx := rfl
@[simp] theorem State.setQueue_power (s : State) (k : Nat) (x : Queue) : (s.setQueue k x).power = s.power := rfl
@[simp] theorem State.setQueue_mem (s : State) (k : Nat) (x : Queue) : (s.setQueue k x).mem = s.mem := rfl
@[simp] theorem State.setQueue_poison (s : State) (k : Nat) (x : Queue) : (s.setQueue k x).poison = s.poison := rfl
@[simp] theorem State.setQueue_regPoison (s : State) (k : Nat) (x : Queue) : (s.setQueue k x).regPoison = s.regPoison := rfl
@[simp] theorem State.setQueue_slotRecs (s : State) (k : Nat) (x : Queue) : (s.setQueue k x).slotRecs = s.slotRecs := rfl
@[simp] theorem State.setQueue_tasks (s : State) (k : Nat) (x : Queue) : (s.setQueue k x).tasks = s.tasks := rfl
@[simp] theorem State.setQueue_fws (s : State) (k : Nat) (x : Queue) : (s.setQueue k x).fws = s.fws := rfl
@[simp] theorem State.setQueue_cores (s : State) (k : Nat) (x : Queue) : (s.setQueue k x).cores = s.cores := rfl
@[simp] theorem State.setQueue_pairs (s : State) (k : Nat) (x : Queue) : (s.setQueue k x).pairs = s.pairs := rfl
@[simp] theorem State.setQueue_mats (s : State) (k : Nat) (x : Queue) : (s.setQueue k x).mats = s.mats := rfl
@[simp] theorem State.setQueue_dies (s : State) (k : Nat) (x : Queue) : (s.setQueue k x).dies = s.dies := rfl
@[simp] theorem State.setQueue_ctxs (s : State) (k : Nat) (x : Queue) : (s.setQueue k x).ctxs = s.ctxs := rfl
@[simp] theorem State.setQueue_xfers (s : State) (k : Nat) (x : Queue) : (s.setQueue k x).xfers = s.xfers := rfl
@[simp] theorem State.setQueue_requests (s : State) (k : Nat) (x : Queue) : (s.setQueue k x).requests = s.requests := rfl
@[simp] theorem State.setQueue_arrivals (s : State) (k : Nat) (x : Queue) : (s.setQueue k x).arrivals = s.arrivals := rfl
@[simp] theorem State.setQueue_nextId (s : State) (k : Nat) (x : Queue) : (s.setQueue k x).nextId = s.nextId := rfl
@[simp] theorem State.setQueue_chans (s : State) (k : Nat) (x : Queue) : (s.setQueue k x).chans = s.chans := rfl
@[simp] theorem State.setQueue_bars (s : State) (k : Nat) (x : Queue) : (s.setQueue k x).bars = s.bars := rfl
@[simp] theorem State.setQueue_waiting (s : State) (k : Nat) (x : Queue) : (s.setQueue k x).waiting = s.waiting := rfl
@[simp] theorem State.setQueue_launches (s : State) (k : Nat) (x : Queue) : (s.setQueue k x).launches = s.launches := rfl
@[simp] theorem State.setQueue_statusDue (s : State) (k : Nat) (x : Queue) : (s.setQueue k x).statusDue = s.statusDue := rfl
@[simp] theorem State.setQueue_nextLaunch (s : State) (k : Nat) (x : Queue) : (s.setQueue k x).nextLaunch = s.nextLaunch := rfl
@[simp] theorem State.setQueue_grants (s : State) (k : Nat) (x : Queue) : (s.setQueue k x).grants = s.grants := rfl
@[simp] theorem State.setQueue_queues (s : State) (k : Nat) (x : Queue) : (s.setQueue k x).queues = tput s.queues k x := rfl
@[simp] theorem State.setQueue_gangLate (s : State) (k : Nat) (x : Queue) : (s.setQueue k x).gangLate = s.gangLate := rfl
@[simp] theorem State.setQueue_podSent (s : State) (k : Nat) (x : Queue) : (s.setQueue k x).podSent = s.podSent := rfl
@[simp] theorem State.setQueue_adapters (s : State) (k : Nat) (x : Queue) : (s.setQueue k x).adapters = s.adapters := rfl
@[simp] theorem State.setQueue_models (s : State) (k : Nat) (x : Queue) : (s.setQueue k x).models = s.models := rfl
@[simp] theorem State.setQueue_wobjs (s : State) (k : Nat) (x : Queue) : (s.setQueue k x).wobjs = s.wobjs := rfl
@[simp] theorem State.setQueue_banks (s : State) (k : Nat) (x : Queue) : (s.setQueue k x).banks = s.banks := rfl
@[simp] theorem State.setQueue_loads (s : State) (k : Nat) (x : Queue) : (s.setQueue k x).loads = s.loads := rfl
@[simp] theorem State.setQueue_measured (s : State) (k : Nat) (x : Queue) : (s.setQueue k x).measured = s.measured := rfl
@[simp] theorem State.setQueue_codes (s : State) (k : Nat) (x : Queue) : (s.setQueue k x).codes = s.codes := rfl
@[simp] theorem State.setQueue_nextCode (s : State) (k : Nat) (x : Queue) : (s.setQueue k x).nextCode = s.nextCode := rfl
@[simp] theorem State.setQueue_nextGid (s : State) (k : Nat) (x : Queue) : (s.setQueue k x).nextGid = s.nextGid := rfl
@[simp] theorem State.setQueue_cellar (s : State) (k : Nat) (x : Queue) : (s.setQueue k x).cellar = s.cellar := rfl
@[simp] theorem State.setQueue_fns (s : State) (k : Nat) (x : Queue) : (s.setQueue k x).fns = s.fns := rfl
@[simp] theorem State.setQueue_fnOf (s : State) (k : Nat) (x : Queue) : (s.setQueue k x).fnOf = s.fnOf := rfl
@[simp] theorem State.setQueue_flrNext (s : State) (k : Nat) (x : Queue) : (s.setQueue k x).flrNext = s.flrNext := rfl
@[simp] theorem State.setQueue_keys (s : State) (k : Nat) (x : Queue) : (s.setQueue k x).keys = s.keys := rfl
@[simp] theorem State.setQueue_fuses (s : State) (k : Nat) (x : Queue) : (s.setQueue k x).fuses = s.fuses := rfl
@[simp] theorem State.setQueue_units (s : State) (k : Nat) (x : Queue) : (s.setQueue k x).units = s.units := rfl
@[simp] theorem State.setQueue_started (s : State) (k : Nat) (x : Queue) : (s.setQueue k x).started = s.started := rfl
@[simp] theorem State.setQueue_pod (s : State) (k : Nat) (x : Queue) : (s.setQueue k x).pod = s.pod := rfl
@[simp] theorem State.setQueue_cfeA (s : State) (k : Nat) (x : Queue) : (s.setQueue k x).cfeA = s.cfeA := rfl
@[simp] theorem State.setQueue_cfeB (s : State) (k : Nat) (x : Queue) : (s.setQueue k x).cfeB = s.cfeB := rfl
@[simp] theorem State.setQueue_cfeActiveB (s : State) (k : Nat) (x : Queue) : (s.setQueue k x).cfeActiveB = s.cfeActiveB := rfl
@[simp] theorem State.setQueue_cfeSwitching (s : State) (k : Nat) (x : Queue) : (s.setQueue k x).cfeSwitching = s.cfeSwitching := rfl
@[simp] theorem State.setQueue_iodLink (s : State) (k : Nat) (x : Queue) : (s.setQueue k x).iodLink = s.iodLink := rfl
@[simp] theorem State.setQueue_debug (s : State) (k : Nat) (x : Queue) : (s.setQueue k x).debug = s.debug := rfl
@[simp] theorem State.setQueue_secLog (s : State) (k : Nat) (x : Queue) : (s.setQueue k x).secLog = s.secLog := rfl
@[simp] theorem State.setQueue_events (s : State) (k : Nat) (x : Queue) : (s.setQueue k x).events = s.events := rfl
@[simp] theorem State.setQueue_mgmt (s : State) (k : Nat) (x : Queue) : (s.setQueue k x).mgmt = s.mgmt := rfl
@[simp] theorem State.setQueue_task (s : State) (k j : Nat) (x : Queue) : (s.setQueue k x).task j = s.task j := rfl
@[simp] theorem State.setQueue_fw (s : State) (k j : Nat) (x : Queue) : (s.setQueue k x).fw j = s.fw j := rfl
@[simp] theorem State.setQueue_core (s : State) (k j : Nat) (x : Queue) : (s.setQueue k x).core j = s.core j := rfl
@[simp] theorem State.setQueue_pair (s : State) (k j : Nat) (x : Queue) : (s.setQueue k x).pair j = s.pair j := rfl
@[simp] theorem State.setQueue_mat (s : State) (k j : Nat) (x : Queue) : (s.setQueue k x).mat j = s.mat j := rfl
@[simp] theorem State.setQueue_die (s : State) (k j : Nat) (x : Queue) : (s.setQueue k x).die j = s.die j := rfl
@[simp] theorem State.setQueue_ctx (s : State) (k j : Nat) (x : Queue) : (s.setQueue k x).ctx j = s.ctx j := rfl
@[simp] theorem State.setQueue_queue_same (s : State) (k : Nat) (x : Queue) : (s.setQueue k x).queue k = x := by simp [State.queue]
theorem State.setQueue_queue_other (s : State) {k j : Nat} (x : Queue) (h : j ≠ k) : (s.setQueue k x).queue j = s.queue j := by
  simp [State.queue, tget_tput_other, h]
@[simp] theorem State.setQueue_adapter (s : State) (k j : Nat) (x : Queue) : (s.setQueue k x).adapter j = s.adapter j := rfl
@[simp] theorem State.setQueue_model (s : State) (k j : Nat) (x : Queue) : (s.setQueue k x).model j = s.model j := rfl
@[simp] theorem State.setQueue_wobj (s : State) (k j : Nat) (x : Queue) : (s.setQueue k x).wobj j = s.wobj j := rfl
@[simp] theorem State.setQueue_bank (s : State) (k j : Nat) (x : Queue) : (s.setQueue k x).bank j = s.bank j := rfl
@[simp] theorem State.setQueue_fn (s : State) (k j : Nat) (x : Queue) : (s.setQueue k x).fn j = s.fn j := rfl

/-! ## setAdapter -/

@[simp] theorem State.setAdapter_agenda (s : State) (k : Nat) (x : Adapter) : (s.setAdapter k x).agenda = s.agenda := rfl
@[simp] theorem State.setAdapter_focus (s : State) (k : Nat) (x : Adapter) : (s.setAdapter k x).focus = s.focus := rfl
@[simp] theorem State.setAdapter_unready (s : State) (k : Nat) (x : Adapter) : (s.setAdapter k x).unready = s.unready := rfl
@[simp] theorem State.setAdapter_slips (s : State) (k : Nat) (x : Adapter) : (s.setAdapter k x).slips = s.slips := rfl
@[simp] theorem State.setAdapter_queued (s : State) (k : Nat) (x : Adapter) : (s.setAdapter k x).queued = s.queued := rfl
@[simp] theorem State.setAdapter_heldSince (s : State) (k : Nat) (x : Adapter) : (s.setAdapter k x).heldSince = s.heldSince := rfl
@[simp] theorem State.setAdapter_turn (s : State) (k : Nat) (x : Adapter) : (s.setAdapter k x).turn = s.turn := rfl
@[simp] theorem State.setAdapter_freeIdx (s : State) (k : Nat) (x : Adapter) : (s.setAdapter k x).freeIdx = s.freeIdx := rfl
@[simp] theorem State.setAdapter_power (s : State) (k : Nat) (x : Adapter) : (s.setAdapter k x).power = s.power := rfl
@[simp] theorem State.setAdapter_mem (s : State) (k : Nat) (x : Adapter) : (s.setAdapter k x).mem = s.mem := rfl
@[simp] theorem State.setAdapter_poison (s : State) (k : Nat) (x : Adapter) : (s.setAdapter k x).poison = s.poison := rfl
@[simp] theorem State.setAdapter_regPoison (s : State) (k : Nat) (x : Adapter) : (s.setAdapter k x).regPoison = s.regPoison := rfl
@[simp] theorem State.setAdapter_slotRecs (s : State) (k : Nat) (x : Adapter) : (s.setAdapter k x).slotRecs = s.slotRecs := rfl
@[simp] theorem State.setAdapter_tasks (s : State) (k : Nat) (x : Adapter) : (s.setAdapter k x).tasks = s.tasks := rfl
@[simp] theorem State.setAdapter_fws (s : State) (k : Nat) (x : Adapter) : (s.setAdapter k x).fws = s.fws := rfl
@[simp] theorem State.setAdapter_cores (s : State) (k : Nat) (x : Adapter) : (s.setAdapter k x).cores = s.cores := rfl
@[simp] theorem State.setAdapter_pairs (s : State) (k : Nat) (x : Adapter) : (s.setAdapter k x).pairs = s.pairs := rfl
@[simp] theorem State.setAdapter_mats (s : State) (k : Nat) (x : Adapter) : (s.setAdapter k x).mats = s.mats := rfl
@[simp] theorem State.setAdapter_dies (s : State) (k : Nat) (x : Adapter) : (s.setAdapter k x).dies = s.dies := rfl
@[simp] theorem State.setAdapter_ctxs (s : State) (k : Nat) (x : Adapter) : (s.setAdapter k x).ctxs = s.ctxs := rfl
@[simp] theorem State.setAdapter_xfers (s : State) (k : Nat) (x : Adapter) : (s.setAdapter k x).xfers = s.xfers := rfl
@[simp] theorem State.setAdapter_requests (s : State) (k : Nat) (x : Adapter) : (s.setAdapter k x).requests = s.requests := rfl
@[simp] theorem State.setAdapter_arrivals (s : State) (k : Nat) (x : Adapter) : (s.setAdapter k x).arrivals = s.arrivals := rfl
@[simp] theorem State.setAdapter_nextId (s : State) (k : Nat) (x : Adapter) : (s.setAdapter k x).nextId = s.nextId := rfl
@[simp] theorem State.setAdapter_chans (s : State) (k : Nat) (x : Adapter) : (s.setAdapter k x).chans = s.chans := rfl
@[simp] theorem State.setAdapter_bars (s : State) (k : Nat) (x : Adapter) : (s.setAdapter k x).bars = s.bars := rfl
@[simp] theorem State.setAdapter_waiting (s : State) (k : Nat) (x : Adapter) : (s.setAdapter k x).waiting = s.waiting := rfl
@[simp] theorem State.setAdapter_launches (s : State) (k : Nat) (x : Adapter) : (s.setAdapter k x).launches = s.launches := rfl
@[simp] theorem State.setAdapter_statusDue (s : State) (k : Nat) (x : Adapter) : (s.setAdapter k x).statusDue = s.statusDue := rfl
@[simp] theorem State.setAdapter_nextLaunch (s : State) (k : Nat) (x : Adapter) : (s.setAdapter k x).nextLaunch = s.nextLaunch := rfl
@[simp] theorem State.setAdapter_grants (s : State) (k : Nat) (x : Adapter) : (s.setAdapter k x).grants = s.grants := rfl
@[simp] theorem State.setAdapter_queues (s : State) (k : Nat) (x : Adapter) : (s.setAdapter k x).queues = s.queues := rfl
@[simp] theorem State.setAdapter_gangLate (s : State) (k : Nat) (x : Adapter) : (s.setAdapter k x).gangLate = s.gangLate := rfl
@[simp] theorem State.setAdapter_podSent (s : State) (k : Nat) (x : Adapter) : (s.setAdapter k x).podSent = s.podSent := rfl
@[simp] theorem State.setAdapter_adapters (s : State) (k : Nat) (x : Adapter) : (s.setAdapter k x).adapters = tput s.adapters k x := rfl
@[simp] theorem State.setAdapter_models (s : State) (k : Nat) (x : Adapter) : (s.setAdapter k x).models = s.models := rfl
@[simp] theorem State.setAdapter_wobjs (s : State) (k : Nat) (x : Adapter) : (s.setAdapter k x).wobjs = s.wobjs := rfl
@[simp] theorem State.setAdapter_banks (s : State) (k : Nat) (x : Adapter) : (s.setAdapter k x).banks = s.banks := rfl
@[simp] theorem State.setAdapter_loads (s : State) (k : Nat) (x : Adapter) : (s.setAdapter k x).loads = s.loads := rfl
@[simp] theorem State.setAdapter_measured (s : State) (k : Nat) (x : Adapter) : (s.setAdapter k x).measured = s.measured := rfl
@[simp] theorem State.setAdapter_codes (s : State) (k : Nat) (x : Adapter) : (s.setAdapter k x).codes = s.codes := rfl
@[simp] theorem State.setAdapter_nextCode (s : State) (k : Nat) (x : Adapter) : (s.setAdapter k x).nextCode = s.nextCode := rfl
@[simp] theorem State.setAdapter_nextGid (s : State) (k : Nat) (x : Adapter) : (s.setAdapter k x).nextGid = s.nextGid := rfl
@[simp] theorem State.setAdapter_cellar (s : State) (k : Nat) (x : Adapter) : (s.setAdapter k x).cellar = s.cellar := rfl
@[simp] theorem State.setAdapter_fns (s : State) (k : Nat) (x : Adapter) : (s.setAdapter k x).fns = s.fns := rfl
@[simp] theorem State.setAdapter_fnOf (s : State) (k : Nat) (x : Adapter) : (s.setAdapter k x).fnOf = s.fnOf := rfl
@[simp] theorem State.setAdapter_flrNext (s : State) (k : Nat) (x : Adapter) : (s.setAdapter k x).flrNext = s.flrNext := rfl
@[simp] theorem State.setAdapter_keys (s : State) (k : Nat) (x : Adapter) : (s.setAdapter k x).keys = s.keys := rfl
@[simp] theorem State.setAdapter_fuses (s : State) (k : Nat) (x : Adapter) : (s.setAdapter k x).fuses = s.fuses := rfl
@[simp] theorem State.setAdapter_units (s : State) (k : Nat) (x : Adapter) : (s.setAdapter k x).units = s.units := rfl
@[simp] theorem State.setAdapter_started (s : State) (k : Nat) (x : Adapter) : (s.setAdapter k x).started = s.started := rfl
@[simp] theorem State.setAdapter_pod (s : State) (k : Nat) (x : Adapter) : (s.setAdapter k x).pod = s.pod := rfl
@[simp] theorem State.setAdapter_cfeA (s : State) (k : Nat) (x : Adapter) : (s.setAdapter k x).cfeA = s.cfeA := rfl
@[simp] theorem State.setAdapter_cfeB (s : State) (k : Nat) (x : Adapter) : (s.setAdapter k x).cfeB = s.cfeB := rfl
@[simp] theorem State.setAdapter_cfeActiveB (s : State) (k : Nat) (x : Adapter) : (s.setAdapter k x).cfeActiveB = s.cfeActiveB := rfl
@[simp] theorem State.setAdapter_cfeSwitching (s : State) (k : Nat) (x : Adapter) : (s.setAdapter k x).cfeSwitching = s.cfeSwitching := rfl
@[simp] theorem State.setAdapter_iodLink (s : State) (k : Nat) (x : Adapter) : (s.setAdapter k x).iodLink = s.iodLink := rfl
@[simp] theorem State.setAdapter_debug (s : State) (k : Nat) (x : Adapter) : (s.setAdapter k x).debug = s.debug := rfl
@[simp] theorem State.setAdapter_secLog (s : State) (k : Nat) (x : Adapter) : (s.setAdapter k x).secLog = s.secLog := rfl
@[simp] theorem State.setAdapter_events (s : State) (k : Nat) (x : Adapter) : (s.setAdapter k x).events = s.events := rfl
@[simp] theorem State.setAdapter_mgmt (s : State) (k : Nat) (x : Adapter) : (s.setAdapter k x).mgmt = s.mgmt := rfl
@[simp] theorem State.setAdapter_task (s : State) (k j : Nat) (x : Adapter) : (s.setAdapter k x).task j = s.task j := rfl
@[simp] theorem State.setAdapter_fw (s : State) (k j : Nat) (x : Adapter) : (s.setAdapter k x).fw j = s.fw j := rfl
@[simp] theorem State.setAdapter_core (s : State) (k j : Nat) (x : Adapter) : (s.setAdapter k x).core j = s.core j := rfl
@[simp] theorem State.setAdapter_pair (s : State) (k j : Nat) (x : Adapter) : (s.setAdapter k x).pair j = s.pair j := rfl
@[simp] theorem State.setAdapter_mat (s : State) (k j : Nat) (x : Adapter) : (s.setAdapter k x).mat j = s.mat j := rfl
@[simp] theorem State.setAdapter_die (s : State) (k j : Nat) (x : Adapter) : (s.setAdapter k x).die j = s.die j := rfl
@[simp] theorem State.setAdapter_ctx (s : State) (k j : Nat) (x : Adapter) : (s.setAdapter k x).ctx j = s.ctx j := rfl
@[simp] theorem State.setAdapter_queue (s : State) (k j : Nat) (x : Adapter) : (s.setAdapter k x).queue j = s.queue j := rfl
@[simp] theorem State.setAdapter_adapter_same (s : State) (k : Nat) (x : Adapter) : (s.setAdapter k x).adapter k = x := by simp [State.adapter]
theorem State.setAdapter_adapter_other (s : State) {k j : Nat} (x : Adapter) (h : j ≠ k) : (s.setAdapter k x).adapter j = s.adapter j := by
  simp [State.adapter, tget_tput_other, h]
@[simp] theorem State.setAdapter_model (s : State) (k j : Nat) (x : Adapter) : (s.setAdapter k x).model j = s.model j := rfl
@[simp] theorem State.setAdapter_wobj (s : State) (k j : Nat) (x : Adapter) : (s.setAdapter k x).wobj j = s.wobj j := rfl
@[simp] theorem State.setAdapter_bank (s : State) (k j : Nat) (x : Adapter) : (s.setAdapter k x).bank j = s.bank j := rfl
@[simp] theorem State.setAdapter_fn (s : State) (k j : Nat) (x : Adapter) : (s.setAdapter k x).fn j = s.fn j := rfl

/-! ## setModel -/

@[simp] theorem State.setModel_agenda (s : State) (k : Nat) (x : Model) : (s.setModel k x).agenda = s.agenda := rfl
@[simp] theorem State.setModel_focus (s : State) (k : Nat) (x : Model) : (s.setModel k x).focus = s.focus := rfl
@[simp] theorem State.setModel_unready (s : State) (k : Nat) (x : Model) : (s.setModel k x).unready = s.unready := rfl
@[simp] theorem State.setModel_slips (s : State) (k : Nat) (x : Model) : (s.setModel k x).slips = s.slips := rfl
@[simp] theorem State.setModel_queued (s : State) (k : Nat) (x : Model) : (s.setModel k x).queued = s.queued := rfl
@[simp] theorem State.setModel_heldSince (s : State) (k : Nat) (x : Model) : (s.setModel k x).heldSince = s.heldSince := rfl
@[simp] theorem State.setModel_turn (s : State) (k : Nat) (x : Model) : (s.setModel k x).turn = s.turn := rfl
@[simp] theorem State.setModel_freeIdx (s : State) (k : Nat) (x : Model) : (s.setModel k x).freeIdx = s.freeIdx := rfl
@[simp] theorem State.setModel_power (s : State) (k : Nat) (x : Model) : (s.setModel k x).power = s.power := rfl
@[simp] theorem State.setModel_mem (s : State) (k : Nat) (x : Model) : (s.setModel k x).mem = s.mem := rfl
@[simp] theorem State.setModel_poison (s : State) (k : Nat) (x : Model) : (s.setModel k x).poison = s.poison := rfl
@[simp] theorem State.setModel_regPoison (s : State) (k : Nat) (x : Model) : (s.setModel k x).regPoison = s.regPoison := rfl
@[simp] theorem State.setModel_slotRecs (s : State) (k : Nat) (x : Model) : (s.setModel k x).slotRecs = s.slotRecs := rfl
@[simp] theorem State.setModel_tasks (s : State) (k : Nat) (x : Model) : (s.setModel k x).tasks = s.tasks := rfl
@[simp] theorem State.setModel_fws (s : State) (k : Nat) (x : Model) : (s.setModel k x).fws = s.fws := rfl
@[simp] theorem State.setModel_cores (s : State) (k : Nat) (x : Model) : (s.setModel k x).cores = s.cores := rfl
@[simp] theorem State.setModel_pairs (s : State) (k : Nat) (x : Model) : (s.setModel k x).pairs = s.pairs := rfl
@[simp] theorem State.setModel_mats (s : State) (k : Nat) (x : Model) : (s.setModel k x).mats = s.mats := rfl
@[simp] theorem State.setModel_dies (s : State) (k : Nat) (x : Model) : (s.setModel k x).dies = s.dies := rfl
@[simp] theorem State.setModel_ctxs (s : State) (k : Nat) (x : Model) : (s.setModel k x).ctxs = s.ctxs := rfl
@[simp] theorem State.setModel_xfers (s : State) (k : Nat) (x : Model) : (s.setModel k x).xfers = s.xfers := rfl
@[simp] theorem State.setModel_requests (s : State) (k : Nat) (x : Model) : (s.setModel k x).requests = s.requests := rfl
@[simp] theorem State.setModel_arrivals (s : State) (k : Nat) (x : Model) : (s.setModel k x).arrivals = s.arrivals := rfl
@[simp] theorem State.setModel_nextId (s : State) (k : Nat) (x : Model) : (s.setModel k x).nextId = s.nextId := rfl
@[simp] theorem State.setModel_chans (s : State) (k : Nat) (x : Model) : (s.setModel k x).chans = s.chans := rfl
@[simp] theorem State.setModel_bars (s : State) (k : Nat) (x : Model) : (s.setModel k x).bars = s.bars := rfl
@[simp] theorem State.setModel_waiting (s : State) (k : Nat) (x : Model) : (s.setModel k x).waiting = s.waiting := rfl
@[simp] theorem State.setModel_launches (s : State) (k : Nat) (x : Model) : (s.setModel k x).launches = s.launches := rfl
@[simp] theorem State.setModel_statusDue (s : State) (k : Nat) (x : Model) : (s.setModel k x).statusDue = s.statusDue := rfl
@[simp] theorem State.setModel_nextLaunch (s : State) (k : Nat) (x : Model) : (s.setModel k x).nextLaunch = s.nextLaunch := rfl
@[simp] theorem State.setModel_grants (s : State) (k : Nat) (x : Model) : (s.setModel k x).grants = s.grants := rfl
@[simp] theorem State.setModel_queues (s : State) (k : Nat) (x : Model) : (s.setModel k x).queues = s.queues := rfl
@[simp] theorem State.setModel_gangLate (s : State) (k : Nat) (x : Model) : (s.setModel k x).gangLate = s.gangLate := rfl
@[simp] theorem State.setModel_podSent (s : State) (k : Nat) (x : Model) : (s.setModel k x).podSent = s.podSent := rfl
@[simp] theorem State.setModel_adapters (s : State) (k : Nat) (x : Model) : (s.setModel k x).adapters = s.adapters := rfl
@[simp] theorem State.setModel_models (s : State) (k : Nat) (x : Model) : (s.setModel k x).models = tput s.models k x := rfl
@[simp] theorem State.setModel_wobjs (s : State) (k : Nat) (x : Model) : (s.setModel k x).wobjs = s.wobjs := rfl
@[simp] theorem State.setModel_banks (s : State) (k : Nat) (x : Model) : (s.setModel k x).banks = s.banks := rfl
@[simp] theorem State.setModel_loads (s : State) (k : Nat) (x : Model) : (s.setModel k x).loads = s.loads := rfl
@[simp] theorem State.setModel_measured (s : State) (k : Nat) (x : Model) : (s.setModel k x).measured = s.measured := rfl
@[simp] theorem State.setModel_codes (s : State) (k : Nat) (x : Model) : (s.setModel k x).codes = s.codes := rfl
@[simp] theorem State.setModel_nextCode (s : State) (k : Nat) (x : Model) : (s.setModel k x).nextCode = s.nextCode := rfl
@[simp] theorem State.setModel_nextGid (s : State) (k : Nat) (x : Model) : (s.setModel k x).nextGid = s.nextGid := rfl
@[simp] theorem State.setModel_cellar (s : State) (k : Nat) (x : Model) : (s.setModel k x).cellar = s.cellar := rfl
@[simp] theorem State.setModel_fns (s : State) (k : Nat) (x : Model) : (s.setModel k x).fns = s.fns := rfl
@[simp] theorem State.setModel_fnOf (s : State) (k : Nat) (x : Model) : (s.setModel k x).fnOf = s.fnOf := rfl
@[simp] theorem State.setModel_flrNext (s : State) (k : Nat) (x : Model) : (s.setModel k x).flrNext = s.flrNext := rfl
@[simp] theorem State.setModel_keys (s : State) (k : Nat) (x : Model) : (s.setModel k x).keys = s.keys := rfl
@[simp] theorem State.setModel_fuses (s : State) (k : Nat) (x : Model) : (s.setModel k x).fuses = s.fuses := rfl
@[simp] theorem State.setModel_units (s : State) (k : Nat) (x : Model) : (s.setModel k x).units = s.units := rfl
@[simp] theorem State.setModel_started (s : State) (k : Nat) (x : Model) : (s.setModel k x).started = s.started := rfl
@[simp] theorem State.setModel_pod (s : State) (k : Nat) (x : Model) : (s.setModel k x).pod = s.pod := rfl
@[simp] theorem State.setModel_cfeA (s : State) (k : Nat) (x : Model) : (s.setModel k x).cfeA = s.cfeA := rfl
@[simp] theorem State.setModel_cfeB (s : State) (k : Nat) (x : Model) : (s.setModel k x).cfeB = s.cfeB := rfl
@[simp] theorem State.setModel_cfeActiveB (s : State) (k : Nat) (x : Model) : (s.setModel k x).cfeActiveB = s.cfeActiveB := rfl
@[simp] theorem State.setModel_cfeSwitching (s : State) (k : Nat) (x : Model) : (s.setModel k x).cfeSwitching = s.cfeSwitching := rfl
@[simp] theorem State.setModel_iodLink (s : State) (k : Nat) (x : Model) : (s.setModel k x).iodLink = s.iodLink := rfl
@[simp] theorem State.setModel_debug (s : State) (k : Nat) (x : Model) : (s.setModel k x).debug = s.debug := rfl
@[simp] theorem State.setModel_secLog (s : State) (k : Nat) (x : Model) : (s.setModel k x).secLog = s.secLog := rfl
@[simp] theorem State.setModel_events (s : State) (k : Nat) (x : Model) : (s.setModel k x).events = s.events := rfl
@[simp] theorem State.setModel_mgmt (s : State) (k : Nat) (x : Model) : (s.setModel k x).mgmt = s.mgmt := rfl
@[simp] theorem State.setModel_task (s : State) (k j : Nat) (x : Model) : (s.setModel k x).task j = s.task j := rfl
@[simp] theorem State.setModel_fw (s : State) (k j : Nat) (x : Model) : (s.setModel k x).fw j = s.fw j := rfl
@[simp] theorem State.setModel_core (s : State) (k j : Nat) (x : Model) : (s.setModel k x).core j = s.core j := rfl
@[simp] theorem State.setModel_pair (s : State) (k j : Nat) (x : Model) : (s.setModel k x).pair j = s.pair j := rfl
@[simp] theorem State.setModel_mat (s : State) (k j : Nat) (x : Model) : (s.setModel k x).mat j = s.mat j := rfl
@[simp] theorem State.setModel_die (s : State) (k j : Nat) (x : Model) : (s.setModel k x).die j = s.die j := rfl
@[simp] theorem State.setModel_ctx (s : State) (k j : Nat) (x : Model) : (s.setModel k x).ctx j = s.ctx j := rfl
@[simp] theorem State.setModel_queue (s : State) (k j : Nat) (x : Model) : (s.setModel k x).queue j = s.queue j := rfl
@[simp] theorem State.setModel_adapter (s : State) (k j : Nat) (x : Model) : (s.setModel k x).adapter j = s.adapter j := rfl
@[simp] theorem State.setModel_model_same (s : State) (k : Nat) (x : Model) : (s.setModel k x).model k = x := by simp [State.model]
theorem State.setModel_model_other (s : State) {k j : Nat} (x : Model) (h : j ≠ k) : (s.setModel k x).model j = s.model j := by
  simp [State.model, tget_tput_other, h]
@[simp] theorem State.setModel_wobj (s : State) (k j : Nat) (x : Model) : (s.setModel k x).wobj j = s.wobj j := rfl
@[simp] theorem State.setModel_bank (s : State) (k j : Nat) (x : Model) : (s.setModel k x).bank j = s.bank j := rfl
@[simp] theorem State.setModel_fn (s : State) (k j : Nat) (x : Model) : (s.setModel k x).fn j = s.fn j := rfl

/-! ## setWobj -/

@[simp] theorem State.setWobj_agenda (s : State) (k : Nat) (x : WObj) : (s.setWobj k x).agenda = s.agenda := rfl
@[simp] theorem State.setWobj_focus (s : State) (k : Nat) (x : WObj) : (s.setWobj k x).focus = s.focus := rfl
@[simp] theorem State.setWobj_unready (s : State) (k : Nat) (x : WObj) : (s.setWobj k x).unready = s.unready := rfl
@[simp] theorem State.setWobj_slips (s : State) (k : Nat) (x : WObj) : (s.setWobj k x).slips = s.slips := rfl
@[simp] theorem State.setWobj_queued (s : State) (k : Nat) (x : WObj) : (s.setWobj k x).queued = s.queued := rfl
@[simp] theorem State.setWobj_heldSince (s : State) (k : Nat) (x : WObj) : (s.setWobj k x).heldSince = s.heldSince := rfl
@[simp] theorem State.setWobj_turn (s : State) (k : Nat) (x : WObj) : (s.setWobj k x).turn = s.turn := rfl
@[simp] theorem State.setWobj_freeIdx (s : State) (k : Nat) (x : WObj) : (s.setWobj k x).freeIdx = s.freeIdx := rfl
@[simp] theorem State.setWobj_power (s : State) (k : Nat) (x : WObj) : (s.setWobj k x).power = s.power := rfl
@[simp] theorem State.setWobj_mem (s : State) (k : Nat) (x : WObj) : (s.setWobj k x).mem = s.mem := rfl
@[simp] theorem State.setWobj_poison (s : State) (k : Nat) (x : WObj) : (s.setWobj k x).poison = s.poison := rfl
@[simp] theorem State.setWobj_regPoison (s : State) (k : Nat) (x : WObj) : (s.setWobj k x).regPoison = s.regPoison := rfl
@[simp] theorem State.setWobj_slotRecs (s : State) (k : Nat) (x : WObj) : (s.setWobj k x).slotRecs = s.slotRecs := rfl
@[simp] theorem State.setWobj_tasks (s : State) (k : Nat) (x : WObj) : (s.setWobj k x).tasks = s.tasks := rfl
@[simp] theorem State.setWobj_fws (s : State) (k : Nat) (x : WObj) : (s.setWobj k x).fws = s.fws := rfl
@[simp] theorem State.setWobj_cores (s : State) (k : Nat) (x : WObj) : (s.setWobj k x).cores = s.cores := rfl
@[simp] theorem State.setWobj_pairs (s : State) (k : Nat) (x : WObj) : (s.setWobj k x).pairs = s.pairs := rfl
@[simp] theorem State.setWobj_mats (s : State) (k : Nat) (x : WObj) : (s.setWobj k x).mats = s.mats := rfl
@[simp] theorem State.setWobj_dies (s : State) (k : Nat) (x : WObj) : (s.setWobj k x).dies = s.dies := rfl
@[simp] theorem State.setWobj_ctxs (s : State) (k : Nat) (x : WObj) : (s.setWobj k x).ctxs = s.ctxs := rfl
@[simp] theorem State.setWobj_xfers (s : State) (k : Nat) (x : WObj) : (s.setWobj k x).xfers = s.xfers := rfl
@[simp] theorem State.setWobj_requests (s : State) (k : Nat) (x : WObj) : (s.setWobj k x).requests = s.requests := rfl
@[simp] theorem State.setWobj_arrivals (s : State) (k : Nat) (x : WObj) : (s.setWobj k x).arrivals = s.arrivals := rfl
@[simp] theorem State.setWobj_nextId (s : State) (k : Nat) (x : WObj) : (s.setWobj k x).nextId = s.nextId := rfl
@[simp] theorem State.setWobj_chans (s : State) (k : Nat) (x : WObj) : (s.setWobj k x).chans = s.chans := rfl
@[simp] theorem State.setWobj_bars (s : State) (k : Nat) (x : WObj) : (s.setWobj k x).bars = s.bars := rfl
@[simp] theorem State.setWobj_waiting (s : State) (k : Nat) (x : WObj) : (s.setWobj k x).waiting = s.waiting := rfl
@[simp] theorem State.setWobj_launches (s : State) (k : Nat) (x : WObj) : (s.setWobj k x).launches = s.launches := rfl
@[simp] theorem State.setWobj_statusDue (s : State) (k : Nat) (x : WObj) : (s.setWobj k x).statusDue = s.statusDue := rfl
@[simp] theorem State.setWobj_nextLaunch (s : State) (k : Nat) (x : WObj) : (s.setWobj k x).nextLaunch = s.nextLaunch := rfl
@[simp] theorem State.setWobj_grants (s : State) (k : Nat) (x : WObj) : (s.setWobj k x).grants = s.grants := rfl
@[simp] theorem State.setWobj_queues (s : State) (k : Nat) (x : WObj) : (s.setWobj k x).queues = s.queues := rfl
@[simp] theorem State.setWobj_gangLate (s : State) (k : Nat) (x : WObj) : (s.setWobj k x).gangLate = s.gangLate := rfl
@[simp] theorem State.setWobj_podSent (s : State) (k : Nat) (x : WObj) : (s.setWobj k x).podSent = s.podSent := rfl
@[simp] theorem State.setWobj_adapters (s : State) (k : Nat) (x : WObj) : (s.setWobj k x).adapters = s.adapters := rfl
@[simp] theorem State.setWobj_models (s : State) (k : Nat) (x : WObj) : (s.setWobj k x).models = s.models := rfl
@[simp] theorem State.setWobj_wobjs (s : State) (k : Nat) (x : WObj) : (s.setWobj k x).wobjs = tput s.wobjs k x := rfl
@[simp] theorem State.setWobj_banks (s : State) (k : Nat) (x : WObj) : (s.setWobj k x).banks = s.banks := rfl
@[simp] theorem State.setWobj_loads (s : State) (k : Nat) (x : WObj) : (s.setWobj k x).loads = s.loads := rfl
@[simp] theorem State.setWobj_measured (s : State) (k : Nat) (x : WObj) : (s.setWobj k x).measured = s.measured := rfl
@[simp] theorem State.setWobj_codes (s : State) (k : Nat) (x : WObj) : (s.setWobj k x).codes = s.codes := rfl
@[simp] theorem State.setWobj_nextCode (s : State) (k : Nat) (x : WObj) : (s.setWobj k x).nextCode = s.nextCode := rfl
@[simp] theorem State.setWobj_nextGid (s : State) (k : Nat) (x : WObj) : (s.setWobj k x).nextGid = s.nextGid := rfl
@[simp] theorem State.setWobj_cellar (s : State) (k : Nat) (x : WObj) : (s.setWobj k x).cellar = s.cellar := rfl
@[simp] theorem State.setWobj_fns (s : State) (k : Nat) (x : WObj) : (s.setWobj k x).fns = s.fns := rfl
@[simp] theorem State.setWobj_fnOf (s : State) (k : Nat) (x : WObj) : (s.setWobj k x).fnOf = s.fnOf := rfl
@[simp] theorem State.setWobj_flrNext (s : State) (k : Nat) (x : WObj) : (s.setWobj k x).flrNext = s.flrNext := rfl
@[simp] theorem State.setWobj_keys (s : State) (k : Nat) (x : WObj) : (s.setWobj k x).keys = s.keys := rfl
@[simp] theorem State.setWobj_fuses (s : State) (k : Nat) (x : WObj) : (s.setWobj k x).fuses = s.fuses := rfl
@[simp] theorem State.setWobj_units (s : State) (k : Nat) (x : WObj) : (s.setWobj k x).units = s.units := rfl
@[simp] theorem State.setWobj_started (s : State) (k : Nat) (x : WObj) : (s.setWobj k x).started = s.started := rfl
@[simp] theorem State.setWobj_pod (s : State) (k : Nat) (x : WObj) : (s.setWobj k x).pod = s.pod := rfl
@[simp] theorem State.setWobj_cfeA (s : State) (k : Nat) (x : WObj) : (s.setWobj k x).cfeA = s.cfeA := rfl
@[simp] theorem State.setWobj_cfeB (s : State) (k : Nat) (x : WObj) : (s.setWobj k x).cfeB = s.cfeB := rfl
@[simp] theorem State.setWobj_cfeActiveB (s : State) (k : Nat) (x : WObj) : (s.setWobj k x).cfeActiveB = s.cfeActiveB := rfl
@[simp] theorem State.setWobj_cfeSwitching (s : State) (k : Nat) (x : WObj) : (s.setWobj k x).cfeSwitching = s.cfeSwitching := rfl
@[simp] theorem State.setWobj_iodLink (s : State) (k : Nat) (x : WObj) : (s.setWobj k x).iodLink = s.iodLink := rfl
@[simp] theorem State.setWobj_debug (s : State) (k : Nat) (x : WObj) : (s.setWobj k x).debug = s.debug := rfl
@[simp] theorem State.setWobj_secLog (s : State) (k : Nat) (x : WObj) : (s.setWobj k x).secLog = s.secLog := rfl
@[simp] theorem State.setWobj_events (s : State) (k : Nat) (x : WObj) : (s.setWobj k x).events = s.events := rfl
@[simp] theorem State.setWobj_mgmt (s : State) (k : Nat) (x : WObj) : (s.setWobj k x).mgmt = s.mgmt := rfl
@[simp] theorem State.setWobj_task (s : State) (k j : Nat) (x : WObj) : (s.setWobj k x).task j = s.task j := rfl
@[simp] theorem State.setWobj_fw (s : State) (k j : Nat) (x : WObj) : (s.setWobj k x).fw j = s.fw j := rfl
@[simp] theorem State.setWobj_core (s : State) (k j : Nat) (x : WObj) : (s.setWobj k x).core j = s.core j := rfl
@[simp] theorem State.setWobj_pair (s : State) (k j : Nat) (x : WObj) : (s.setWobj k x).pair j = s.pair j := rfl
@[simp] theorem State.setWobj_mat (s : State) (k j : Nat) (x : WObj) : (s.setWobj k x).mat j = s.mat j := rfl
@[simp] theorem State.setWobj_die (s : State) (k j : Nat) (x : WObj) : (s.setWobj k x).die j = s.die j := rfl
@[simp] theorem State.setWobj_ctx (s : State) (k j : Nat) (x : WObj) : (s.setWobj k x).ctx j = s.ctx j := rfl
@[simp] theorem State.setWobj_queue (s : State) (k j : Nat) (x : WObj) : (s.setWobj k x).queue j = s.queue j := rfl
@[simp] theorem State.setWobj_adapter (s : State) (k j : Nat) (x : WObj) : (s.setWobj k x).adapter j = s.adapter j := rfl
@[simp] theorem State.setWobj_model (s : State) (k j : Nat) (x : WObj) : (s.setWobj k x).model j = s.model j := rfl
@[simp] theorem State.setWobj_wobj_same (s : State) (k : Nat) (x : WObj) : (s.setWobj k x).wobj k = x := by simp [State.wobj]
theorem State.setWobj_wobj_other (s : State) {k j : Nat} (x : WObj) (h : j ≠ k) : (s.setWobj k x).wobj j = s.wobj j := by
  simp [State.wobj, tget_tput_other, h]
@[simp] theorem State.setWobj_bank (s : State) (k j : Nat) (x : WObj) : (s.setWobj k x).bank j = s.bank j := rfl
@[simp] theorem State.setWobj_fn (s : State) (k j : Nat) (x : WObj) : (s.setWobj k x).fn j = s.fn j := rfl

/-! ## setBank -/

@[simp] theorem State.setBank_agenda (s : State) (k : Nat) (x : Bank) : (s.setBank k x).agenda = s.agenda := rfl
@[simp] theorem State.setBank_focus (s : State) (k : Nat) (x : Bank) : (s.setBank k x).focus = s.focus := rfl
@[simp] theorem State.setBank_unready (s : State) (k : Nat) (x : Bank) : (s.setBank k x).unready = s.unready := rfl
@[simp] theorem State.setBank_slips (s : State) (k : Nat) (x : Bank) : (s.setBank k x).slips = s.slips := rfl
@[simp] theorem State.setBank_queued (s : State) (k : Nat) (x : Bank) : (s.setBank k x).queued = s.queued := rfl
@[simp] theorem State.setBank_heldSince (s : State) (k : Nat) (x : Bank) : (s.setBank k x).heldSince = s.heldSince := rfl
@[simp] theorem State.setBank_turn (s : State) (k : Nat) (x : Bank) : (s.setBank k x).turn = s.turn := rfl
@[simp] theorem State.setBank_freeIdx (s : State) (k : Nat) (x : Bank) : (s.setBank k x).freeIdx = s.freeIdx := rfl
@[simp] theorem State.setBank_power (s : State) (k : Nat) (x : Bank) : (s.setBank k x).power = s.power := rfl
@[simp] theorem State.setBank_mem (s : State) (k : Nat) (x : Bank) : (s.setBank k x).mem = s.mem := rfl
@[simp] theorem State.setBank_poison (s : State) (k : Nat) (x : Bank) : (s.setBank k x).poison = s.poison := rfl
@[simp] theorem State.setBank_regPoison (s : State) (k : Nat) (x : Bank) : (s.setBank k x).regPoison = s.regPoison := rfl
@[simp] theorem State.setBank_slotRecs (s : State) (k : Nat) (x : Bank) : (s.setBank k x).slotRecs = s.slotRecs := rfl
@[simp] theorem State.setBank_tasks (s : State) (k : Nat) (x : Bank) : (s.setBank k x).tasks = s.tasks := rfl
@[simp] theorem State.setBank_fws (s : State) (k : Nat) (x : Bank) : (s.setBank k x).fws = s.fws := rfl
@[simp] theorem State.setBank_cores (s : State) (k : Nat) (x : Bank) : (s.setBank k x).cores = s.cores := rfl
@[simp] theorem State.setBank_pairs (s : State) (k : Nat) (x : Bank) : (s.setBank k x).pairs = s.pairs := rfl
@[simp] theorem State.setBank_mats (s : State) (k : Nat) (x : Bank) : (s.setBank k x).mats = s.mats := rfl
@[simp] theorem State.setBank_dies (s : State) (k : Nat) (x : Bank) : (s.setBank k x).dies = s.dies := rfl
@[simp] theorem State.setBank_ctxs (s : State) (k : Nat) (x : Bank) : (s.setBank k x).ctxs = s.ctxs := rfl
@[simp] theorem State.setBank_xfers (s : State) (k : Nat) (x : Bank) : (s.setBank k x).xfers = s.xfers := rfl
@[simp] theorem State.setBank_requests (s : State) (k : Nat) (x : Bank) : (s.setBank k x).requests = s.requests := rfl
@[simp] theorem State.setBank_arrivals (s : State) (k : Nat) (x : Bank) : (s.setBank k x).arrivals = s.arrivals := rfl
@[simp] theorem State.setBank_nextId (s : State) (k : Nat) (x : Bank) : (s.setBank k x).nextId = s.nextId := rfl
@[simp] theorem State.setBank_chans (s : State) (k : Nat) (x : Bank) : (s.setBank k x).chans = s.chans := rfl
@[simp] theorem State.setBank_bars (s : State) (k : Nat) (x : Bank) : (s.setBank k x).bars = s.bars := rfl
@[simp] theorem State.setBank_waiting (s : State) (k : Nat) (x : Bank) : (s.setBank k x).waiting = s.waiting := rfl
@[simp] theorem State.setBank_launches (s : State) (k : Nat) (x : Bank) : (s.setBank k x).launches = s.launches := rfl
@[simp] theorem State.setBank_statusDue (s : State) (k : Nat) (x : Bank) : (s.setBank k x).statusDue = s.statusDue := rfl
@[simp] theorem State.setBank_nextLaunch (s : State) (k : Nat) (x : Bank) : (s.setBank k x).nextLaunch = s.nextLaunch := rfl
@[simp] theorem State.setBank_grants (s : State) (k : Nat) (x : Bank) : (s.setBank k x).grants = s.grants := rfl
@[simp] theorem State.setBank_queues (s : State) (k : Nat) (x : Bank) : (s.setBank k x).queues = s.queues := rfl
@[simp] theorem State.setBank_gangLate (s : State) (k : Nat) (x : Bank) : (s.setBank k x).gangLate = s.gangLate := rfl
@[simp] theorem State.setBank_podSent (s : State) (k : Nat) (x : Bank) : (s.setBank k x).podSent = s.podSent := rfl
@[simp] theorem State.setBank_adapters (s : State) (k : Nat) (x : Bank) : (s.setBank k x).adapters = s.adapters := rfl
@[simp] theorem State.setBank_models (s : State) (k : Nat) (x : Bank) : (s.setBank k x).models = s.models := rfl
@[simp] theorem State.setBank_wobjs (s : State) (k : Nat) (x : Bank) : (s.setBank k x).wobjs = s.wobjs := rfl
@[simp] theorem State.setBank_banks (s : State) (k : Nat) (x : Bank) : (s.setBank k x).banks = tput s.banks k x := rfl
@[simp] theorem State.setBank_loads (s : State) (k : Nat) (x : Bank) : (s.setBank k x).loads = s.loads := rfl
@[simp] theorem State.setBank_measured (s : State) (k : Nat) (x : Bank) : (s.setBank k x).measured = s.measured := rfl
@[simp] theorem State.setBank_codes (s : State) (k : Nat) (x : Bank) : (s.setBank k x).codes = s.codes := rfl
@[simp] theorem State.setBank_nextCode (s : State) (k : Nat) (x : Bank) : (s.setBank k x).nextCode = s.nextCode := rfl
@[simp] theorem State.setBank_nextGid (s : State) (k : Nat) (x : Bank) : (s.setBank k x).nextGid = s.nextGid := rfl
@[simp] theorem State.setBank_cellar (s : State) (k : Nat) (x : Bank) : (s.setBank k x).cellar = s.cellar := rfl
@[simp] theorem State.setBank_fns (s : State) (k : Nat) (x : Bank) : (s.setBank k x).fns = s.fns := rfl
@[simp] theorem State.setBank_fnOf (s : State) (k : Nat) (x : Bank) : (s.setBank k x).fnOf = s.fnOf := rfl
@[simp] theorem State.setBank_flrNext (s : State) (k : Nat) (x : Bank) : (s.setBank k x).flrNext = s.flrNext := rfl
@[simp] theorem State.setBank_keys (s : State) (k : Nat) (x : Bank) : (s.setBank k x).keys = s.keys := rfl
@[simp] theorem State.setBank_fuses (s : State) (k : Nat) (x : Bank) : (s.setBank k x).fuses = s.fuses := rfl
@[simp] theorem State.setBank_units (s : State) (k : Nat) (x : Bank) : (s.setBank k x).units = s.units := rfl
@[simp] theorem State.setBank_started (s : State) (k : Nat) (x : Bank) : (s.setBank k x).started = s.started := rfl
@[simp] theorem State.setBank_pod (s : State) (k : Nat) (x : Bank) : (s.setBank k x).pod = s.pod := rfl
@[simp] theorem State.setBank_cfeA (s : State) (k : Nat) (x : Bank) : (s.setBank k x).cfeA = s.cfeA := rfl
@[simp] theorem State.setBank_cfeB (s : State) (k : Nat) (x : Bank) : (s.setBank k x).cfeB = s.cfeB := rfl
@[simp] theorem State.setBank_cfeActiveB (s : State) (k : Nat) (x : Bank) : (s.setBank k x).cfeActiveB = s.cfeActiveB := rfl
@[simp] theorem State.setBank_cfeSwitching (s : State) (k : Nat) (x : Bank) : (s.setBank k x).cfeSwitching = s.cfeSwitching := rfl
@[simp] theorem State.setBank_iodLink (s : State) (k : Nat) (x : Bank) : (s.setBank k x).iodLink = s.iodLink := rfl
@[simp] theorem State.setBank_debug (s : State) (k : Nat) (x : Bank) : (s.setBank k x).debug = s.debug := rfl
@[simp] theorem State.setBank_secLog (s : State) (k : Nat) (x : Bank) : (s.setBank k x).secLog = s.secLog := rfl
@[simp] theorem State.setBank_events (s : State) (k : Nat) (x : Bank) : (s.setBank k x).events = s.events := rfl
@[simp] theorem State.setBank_mgmt (s : State) (k : Nat) (x : Bank) : (s.setBank k x).mgmt = s.mgmt := rfl
@[simp] theorem State.setBank_task (s : State) (k j : Nat) (x : Bank) : (s.setBank k x).task j = s.task j := rfl
@[simp] theorem State.setBank_fw (s : State) (k j : Nat) (x : Bank) : (s.setBank k x).fw j = s.fw j := rfl
@[simp] theorem State.setBank_core (s : State) (k j : Nat) (x : Bank) : (s.setBank k x).core j = s.core j := rfl
@[simp] theorem State.setBank_pair (s : State) (k j : Nat) (x : Bank) : (s.setBank k x).pair j = s.pair j := rfl
@[simp] theorem State.setBank_mat (s : State) (k j : Nat) (x : Bank) : (s.setBank k x).mat j = s.mat j := rfl
@[simp] theorem State.setBank_die (s : State) (k j : Nat) (x : Bank) : (s.setBank k x).die j = s.die j := rfl
@[simp] theorem State.setBank_ctx (s : State) (k j : Nat) (x : Bank) : (s.setBank k x).ctx j = s.ctx j := rfl
@[simp] theorem State.setBank_queue (s : State) (k j : Nat) (x : Bank) : (s.setBank k x).queue j = s.queue j := rfl
@[simp] theorem State.setBank_adapter (s : State) (k j : Nat) (x : Bank) : (s.setBank k x).adapter j = s.adapter j := rfl
@[simp] theorem State.setBank_model (s : State) (k j : Nat) (x : Bank) : (s.setBank k x).model j = s.model j := rfl
@[simp] theorem State.setBank_wobj (s : State) (k j : Nat) (x : Bank) : (s.setBank k x).wobj j = s.wobj j := rfl
@[simp] theorem State.setBank_bank_same (s : State) (k : Nat) (x : Bank) : (s.setBank k x).bank k = x := by simp [State.bank]
theorem State.setBank_bank_other (s : State) {k j : Nat} (x : Bank) (h : j ≠ k) : (s.setBank k x).bank j = s.bank j := by
  simp [State.bank, tget_tput_other, h]
@[simp] theorem State.setBank_fn (s : State) (k j : Nat) (x : Bank) : (s.setBank k x).fn j = s.fn j := rfl

/-! ## setFn -/

@[simp] theorem State.setFn_agenda (s : State) (k : Nat) (x : Fn) : (s.setFn k x).agenda = s.agenda := rfl
@[simp] theorem State.setFn_focus (s : State) (k : Nat) (x : Fn) : (s.setFn k x).focus = s.focus := rfl
@[simp] theorem State.setFn_unready (s : State) (k : Nat) (x : Fn) : (s.setFn k x).unready = s.unready := rfl
@[simp] theorem State.setFn_slips (s : State) (k : Nat) (x : Fn) : (s.setFn k x).slips = s.slips := rfl
@[simp] theorem State.setFn_queued (s : State) (k : Nat) (x : Fn) : (s.setFn k x).queued = s.queued := rfl
@[simp] theorem State.setFn_heldSince (s : State) (k : Nat) (x : Fn) : (s.setFn k x).heldSince = s.heldSince := rfl
@[simp] theorem State.setFn_turn (s : State) (k : Nat) (x : Fn) : (s.setFn k x).turn = s.turn := rfl
@[simp] theorem State.setFn_freeIdx (s : State) (k : Nat) (x : Fn) : (s.setFn k x).freeIdx = s.freeIdx := rfl
@[simp] theorem State.setFn_power (s : State) (k : Nat) (x : Fn) : (s.setFn k x).power = s.power := rfl
@[simp] theorem State.setFn_mem (s : State) (k : Nat) (x : Fn) : (s.setFn k x).mem = s.mem := rfl
@[simp] theorem State.setFn_poison (s : State) (k : Nat) (x : Fn) : (s.setFn k x).poison = s.poison := rfl
@[simp] theorem State.setFn_regPoison (s : State) (k : Nat) (x : Fn) : (s.setFn k x).regPoison = s.regPoison := rfl
@[simp] theorem State.setFn_slotRecs (s : State) (k : Nat) (x : Fn) : (s.setFn k x).slotRecs = s.slotRecs := rfl
@[simp] theorem State.setFn_tasks (s : State) (k : Nat) (x : Fn) : (s.setFn k x).tasks = s.tasks := rfl
@[simp] theorem State.setFn_fws (s : State) (k : Nat) (x : Fn) : (s.setFn k x).fws = s.fws := rfl
@[simp] theorem State.setFn_cores (s : State) (k : Nat) (x : Fn) : (s.setFn k x).cores = s.cores := rfl
@[simp] theorem State.setFn_pairs (s : State) (k : Nat) (x : Fn) : (s.setFn k x).pairs = s.pairs := rfl
@[simp] theorem State.setFn_mats (s : State) (k : Nat) (x : Fn) : (s.setFn k x).mats = s.mats := rfl
@[simp] theorem State.setFn_dies (s : State) (k : Nat) (x : Fn) : (s.setFn k x).dies = s.dies := rfl
@[simp] theorem State.setFn_ctxs (s : State) (k : Nat) (x : Fn) : (s.setFn k x).ctxs = s.ctxs := rfl
@[simp] theorem State.setFn_xfers (s : State) (k : Nat) (x : Fn) : (s.setFn k x).xfers = s.xfers := rfl
@[simp] theorem State.setFn_requests (s : State) (k : Nat) (x : Fn) : (s.setFn k x).requests = s.requests := rfl
@[simp] theorem State.setFn_arrivals (s : State) (k : Nat) (x : Fn) : (s.setFn k x).arrivals = s.arrivals := rfl
@[simp] theorem State.setFn_nextId (s : State) (k : Nat) (x : Fn) : (s.setFn k x).nextId = s.nextId := rfl
@[simp] theorem State.setFn_chans (s : State) (k : Nat) (x : Fn) : (s.setFn k x).chans = s.chans := rfl
@[simp] theorem State.setFn_bars (s : State) (k : Nat) (x : Fn) : (s.setFn k x).bars = s.bars := rfl
@[simp] theorem State.setFn_waiting (s : State) (k : Nat) (x : Fn) : (s.setFn k x).waiting = s.waiting := rfl
@[simp] theorem State.setFn_launches (s : State) (k : Nat) (x : Fn) : (s.setFn k x).launches = s.launches := rfl
@[simp] theorem State.setFn_statusDue (s : State) (k : Nat) (x : Fn) : (s.setFn k x).statusDue = s.statusDue := rfl
@[simp] theorem State.setFn_nextLaunch (s : State) (k : Nat) (x : Fn) : (s.setFn k x).nextLaunch = s.nextLaunch := rfl
@[simp] theorem State.setFn_grants (s : State) (k : Nat) (x : Fn) : (s.setFn k x).grants = s.grants := rfl
@[simp] theorem State.setFn_queues (s : State) (k : Nat) (x : Fn) : (s.setFn k x).queues = s.queues := rfl
@[simp] theorem State.setFn_gangLate (s : State) (k : Nat) (x : Fn) : (s.setFn k x).gangLate = s.gangLate := rfl
@[simp] theorem State.setFn_podSent (s : State) (k : Nat) (x : Fn) : (s.setFn k x).podSent = s.podSent := rfl
@[simp] theorem State.setFn_adapters (s : State) (k : Nat) (x : Fn) : (s.setFn k x).adapters = s.adapters := rfl
@[simp] theorem State.setFn_models (s : State) (k : Nat) (x : Fn) : (s.setFn k x).models = s.models := rfl
@[simp] theorem State.setFn_wobjs (s : State) (k : Nat) (x : Fn) : (s.setFn k x).wobjs = s.wobjs := rfl
@[simp] theorem State.setFn_banks (s : State) (k : Nat) (x : Fn) : (s.setFn k x).banks = s.banks := rfl
@[simp] theorem State.setFn_loads (s : State) (k : Nat) (x : Fn) : (s.setFn k x).loads = s.loads := rfl
@[simp] theorem State.setFn_measured (s : State) (k : Nat) (x : Fn) : (s.setFn k x).measured = s.measured := rfl
@[simp] theorem State.setFn_codes (s : State) (k : Nat) (x : Fn) : (s.setFn k x).codes = s.codes := rfl
@[simp] theorem State.setFn_nextCode (s : State) (k : Nat) (x : Fn) : (s.setFn k x).nextCode = s.nextCode := rfl
@[simp] theorem State.setFn_nextGid (s : State) (k : Nat) (x : Fn) : (s.setFn k x).nextGid = s.nextGid := rfl
@[simp] theorem State.setFn_cellar (s : State) (k : Nat) (x : Fn) : (s.setFn k x).cellar = s.cellar := rfl
@[simp] theorem State.setFn_fns (s : State) (k : Nat) (x : Fn) : (s.setFn k x).fns = tput s.fns k x := rfl
@[simp] theorem State.setFn_fnOf (s : State) (k : Nat) (x : Fn) : (s.setFn k x).fnOf = s.fnOf := rfl
@[simp] theorem State.setFn_flrNext (s : State) (k : Nat) (x : Fn) : (s.setFn k x).flrNext = s.flrNext := rfl
@[simp] theorem State.setFn_keys (s : State) (k : Nat) (x : Fn) : (s.setFn k x).keys = s.keys := rfl
@[simp] theorem State.setFn_fuses (s : State) (k : Nat) (x : Fn) : (s.setFn k x).fuses = s.fuses := rfl
@[simp] theorem State.setFn_units (s : State) (k : Nat) (x : Fn) : (s.setFn k x).units = s.units := rfl
@[simp] theorem State.setFn_started (s : State) (k : Nat) (x : Fn) : (s.setFn k x).started = s.started := rfl
@[simp] theorem State.setFn_pod (s : State) (k : Nat) (x : Fn) : (s.setFn k x).pod = s.pod := rfl
@[simp] theorem State.setFn_cfeA (s : State) (k : Nat) (x : Fn) : (s.setFn k x).cfeA = s.cfeA := rfl
@[simp] theorem State.setFn_cfeB (s : State) (k : Nat) (x : Fn) : (s.setFn k x).cfeB = s.cfeB := rfl
@[simp] theorem State.setFn_cfeActiveB (s : State) (k : Nat) (x : Fn) : (s.setFn k x).cfeActiveB = s.cfeActiveB := rfl
@[simp] theorem State.setFn_cfeSwitching (s : State) (k : Nat) (x : Fn) : (s.setFn k x).cfeSwitching = s.cfeSwitching := rfl
@[simp] theorem State.setFn_iodLink (s : State) (k : Nat) (x : Fn) : (s.setFn k x).iodLink = s.iodLink := rfl
@[simp] theorem State.setFn_debug (s : State) (k : Nat) (x : Fn) : (s.setFn k x).debug = s.debug := rfl
@[simp] theorem State.setFn_secLog (s : State) (k : Nat) (x : Fn) : (s.setFn k x).secLog = s.secLog := rfl
@[simp] theorem State.setFn_events (s : State) (k : Nat) (x : Fn) : (s.setFn k x).events = s.events := rfl
@[simp] theorem State.setFn_mgmt (s : State) (k : Nat) (x : Fn) : (s.setFn k x).mgmt = s.mgmt := rfl
@[simp] theorem State.setFn_task (s : State) (k j : Nat) (x : Fn) : (s.setFn k x).task j = s.task j := rfl
@[simp] theorem State.setFn_fw (s : State) (k j : Nat) (x : Fn) : (s.setFn k x).fw j = s.fw j := rfl
@[simp] theorem State.setFn_core (s : State) (k j : Nat) (x : Fn) : (s.setFn k x).core j = s.core j := rfl
@[simp] theorem State.setFn_pair (s : State) (k j : Nat) (x : Fn) : (s.setFn k x).pair j = s.pair j := rfl
@[simp] theorem State.setFn_mat (s : State) (k j : Nat) (x : Fn) : (s.setFn k x).mat j = s.mat j := rfl
@[simp] theorem State.setFn_die (s : State) (k j : Nat) (x : Fn) : (s.setFn k x).die j = s.die j := rfl
@[simp] theorem State.setFn_ctx (s : State) (k j : Nat) (x : Fn) : (s.setFn k x).ctx j = s.ctx j := rfl
@[simp] theorem State.setFn_queue (s : State) (k j : Nat) (x : Fn) : (s.setFn k x).queue j = s.queue j := rfl
@[simp] theorem State.setFn_adapter (s : State) (k j : Nat) (x : Fn) : (s.setFn k x).adapter j = s.adapter j := rfl
@[simp] theorem State.setFn_model (s : State) (k j : Nat) (x : Fn) : (s.setFn k x).model j = s.model j := rfl
@[simp] theorem State.setFn_wobj (s : State) (k j : Nat) (x : Fn) : (s.setFn k x).wobj j = s.wobj j := rfl
@[simp] theorem State.setFn_bank (s : State) (k j : Nat) (x : Fn) : (s.setFn k x).bank j = s.bank j := rfl
@[simp] theorem State.setFn_fn_same (s : State) (k : Nat) (x : Fn) : (s.setFn k x).fn k = x := by simp [State.fn]
theorem State.setFn_fn_other (s : State) {k j : Nat} (x : Fn) (h : j ≠ k) : (s.setFn k x).fn j = s.fn j := by
  simp [State.fn, tget_tput_other, h]

/-! ## setTurn -/

@[simp] theorem State.setTurn_agenda (s : State) (x : Turn) : (s.setTurn x).agenda = s.agenda := rfl
@[simp] theorem State.setTurn_focus (s : State) (x : Turn) : (s.setTurn x).focus = s.focus := rfl
@[simp] theorem State.setTurn_unready (s : State) (x : Turn) : (s.setTurn x).unready = s.unready := rfl
@[simp] theorem State.setTurn_slips (s : State) (x : Turn) : (s.setTurn x).slips = s.slips := rfl
@[simp] theorem State.setTurn_queued (s : State) (x : Turn) : (s.setTurn x).queued = s.queued := rfl
@[simp] theorem State.setTurn_heldSince (s : State) (x : Turn) : (s.setTurn x).heldSince = s.heldSince := rfl
@[simp] theorem State.setTurn_turn (s : State) (x : Turn) : (s.setTurn x).turn = x := rfl
@[simp] theorem State.setTurn_freeIdx (s : State) (x : Turn) : (s.setTurn x).freeIdx = s.freeIdx := rfl
@[simp] theorem State.setTurn_power (s : State) (x : Turn) : (s.setTurn x).power = s.power := rfl
@[simp] theorem State.setTurn_mem (s : State) (x : Turn) : (s.setTurn x).mem = s.mem := rfl
@[simp] theorem State.setTurn_poison (s : State) (x : Turn) : (s.setTurn x).poison = s.poison := rfl
@[simp] theorem State.setTurn_regPoison (s : State) (x : Turn) : (s.setTurn x).regPoison = s.regPoison := rfl
@[simp] theorem State.setTurn_slotRecs (s : State) (x : Turn) : (s.setTurn x).slotRecs = s.slotRecs := rfl
@[simp] theorem State.setTurn_tasks (s : State) (x : Turn) : (s.setTurn x).tasks = s.tasks := rfl
@[simp] theorem State.setTurn_fws (s : State) (x : Turn) : (s.setTurn x).fws = s.fws := rfl
@[simp] theorem State.setTurn_cores (s : State) (x : Turn) : (s.setTurn x).cores = s.cores := rfl
@[simp] theorem State.setTurn_pairs (s : State) (x : Turn) : (s.setTurn x).pairs = s.pairs := rfl
@[simp] theorem State.setTurn_mats (s : State) (x : Turn) : (s.setTurn x).mats = s.mats := rfl
@[simp] theorem State.setTurn_dies (s : State) (x : Turn) : (s.setTurn x).dies = s.dies := rfl
@[simp] theorem State.setTurn_ctxs (s : State) (x : Turn) : (s.setTurn x).ctxs = s.ctxs := rfl
@[simp] theorem State.setTurn_xfers (s : State) (x : Turn) : (s.setTurn x).xfers = s.xfers := rfl
@[simp] theorem State.setTurn_requests (s : State) (x : Turn) : (s.setTurn x).requests = s.requests := rfl
@[simp] theorem State.setTurn_arrivals (s : State) (x : Turn) : (s.setTurn x).arrivals = s.arrivals := rfl
@[simp] theorem State.setTurn_nextId (s : State) (x : Turn) : (s.setTurn x).nextId = s.nextId := rfl
@[simp] theorem State.setTurn_chans (s : State) (x : Turn) : (s.setTurn x).chans = s.chans := rfl
@[simp] theorem State.setTurn_bars (s : State) (x : Turn) : (s.setTurn x).bars = s.bars := rfl
@[simp] theorem State.setTurn_waiting (s : State) (x : Turn) : (s.setTurn x).waiting = s.waiting := rfl
@[simp] theorem State.setTurn_launches (s : State) (x : Turn) : (s.setTurn x).launches = s.launches := rfl
@[simp] theorem State.setTurn_statusDue (s : State) (x : Turn) : (s.setTurn x).statusDue = s.statusDue := rfl
@[simp] theorem State.setTurn_nextLaunch (s : State) (x : Turn) : (s.setTurn x).nextLaunch = s.nextLaunch := rfl
@[simp] theorem State.setTurn_grants (s : State) (x : Turn) : (s.setTurn x).grants = s.grants := rfl
@[simp] theorem State.setTurn_queues (s : State) (x : Turn) : (s.setTurn x).queues = s.queues := rfl
@[simp] theorem State.setTurn_gangLate (s : State) (x : Turn) : (s.setTurn x).gangLate = s.gangLate := rfl
@[simp] theorem State.setTurn_podSent (s : State) (x : Turn) : (s.setTurn x).podSent = s.podSent := rfl
@[simp] theorem State.setTurn_adapters (s : State) (x : Turn) : (s.setTurn x).adapters = s.adapters := rfl
@[simp] theorem State.setTurn_models (s : State) (x : Turn) : (s.setTurn x).models = s.models := rfl
@[simp] theorem State.setTurn_wobjs (s : State) (x : Turn) : (s.setTurn x).wobjs = s.wobjs := rfl
@[simp] theorem State.setTurn_banks (s : State) (x : Turn) : (s.setTurn x).banks = s.banks := rfl
@[simp] theorem State.setTurn_loads (s : State) (x : Turn) : (s.setTurn x).loads = s.loads := rfl
@[simp] theorem State.setTurn_measured (s : State) (x : Turn) : (s.setTurn x).measured = s.measured := rfl
@[simp] theorem State.setTurn_codes (s : State) (x : Turn) : (s.setTurn x).codes = s.codes := rfl
@[simp] theorem State.setTurn_nextCode (s : State) (x : Turn) : (s.setTurn x).nextCode = s.nextCode := rfl
@[simp] theorem State.setTurn_nextGid (s : State) (x : Turn) : (s.setTurn x).nextGid = s.nextGid := rfl
@[simp] theorem State.setTurn_cellar (s : State) (x : Turn) : (s.setTurn x).cellar = s.cellar := rfl
@[simp] theorem State.setTurn_fns (s : State) (x : Turn) : (s.setTurn x).fns = s.fns := rfl
@[simp] theorem State.setTurn_fnOf (s : State) (x : Turn) : (s.setTurn x).fnOf = s.fnOf := rfl
@[simp] theorem State.setTurn_flrNext (s : State) (x : Turn) : (s.setTurn x).flrNext = s.flrNext := rfl
@[simp] theorem State.setTurn_keys (s : State) (x : Turn) : (s.setTurn x).keys = s.keys := rfl
@[simp] theorem State.setTurn_fuses (s : State) (x : Turn) : (s.setTurn x).fuses = s.fuses := rfl
@[simp] theorem State.setTurn_units (s : State) (x : Turn) : (s.setTurn x).units = s.units := rfl
@[simp] theorem State.setTurn_started (s : State) (x : Turn) : (s.setTurn x).started = s.started := rfl
@[simp] theorem State.setTurn_pod (s : State) (x : Turn) : (s.setTurn x).pod = s.pod := rfl
@[simp] theorem State.setTurn_cfeA (s : State) (x : Turn) : (s.setTurn x).cfeA = s.cfeA := rfl
@[simp] theorem State.setTurn_cfeB (s : State) (x : Turn) : (s.setTurn x).cfeB = s.cfeB := rfl
@[simp] theorem State.setTurn_cfeActiveB (s : State) (x : Turn) : (s.setTurn x).cfeActiveB = s.cfeActiveB := rfl
@[simp] theorem State.setTurn_cfeSwitching (s : State) (x : Turn) : (s.setTurn x).cfeSwitching = s.cfeSwitching := rfl
@[simp] theorem State.setTurn_iodLink (s : State) (x : Turn) : (s.setTurn x).iodLink = s.iodLink := rfl
@[simp] theorem State.setTurn_debug (s : State) (x : Turn) : (s.setTurn x).debug = s.debug := rfl
@[simp] theorem State.setTurn_secLog (s : State) (x : Turn) : (s.setTurn x).secLog = s.secLog := rfl
@[simp] theorem State.setTurn_events (s : State) (x : Turn) : (s.setTurn x).events = s.events := rfl
@[simp] theorem State.setTurn_mgmt (s : State) (x : Turn) : (s.setTurn x).mgmt = s.mgmt := rfl
@[simp] theorem State.setTurn_task (s : State) (j : Nat) (x : Turn) : (s.setTurn x).task j = s.task j := rfl
@[simp] theorem State.setTurn_fw (s : State) (j : Nat) (x : Turn) : (s.setTurn x).fw j = s.fw j := rfl
@[simp] theorem State.setTurn_core (s : State) (j : Nat) (x : Turn) : (s.setTurn x).core j = s.core j := rfl
@[simp] theorem State.setTurn_pair (s : State) (j : Nat) (x : Turn) : (s.setTurn x).pair j = s.pair j := rfl
@[simp] theorem State.setTurn_mat (s : State) (j : Nat) (x : Turn) : (s.setTurn x).mat j = s.mat j := rfl
@[simp] theorem State.setTurn_die (s : State) (j : Nat) (x : Turn) : (s.setTurn x).die j = s.die j := rfl
@[simp] theorem State.setTurn_ctx (s : State) (j : Nat) (x : Turn) : (s.setTurn x).ctx j = s.ctx j := rfl
@[simp] theorem State.setTurn_queue (s : State) (j : Nat) (x : Turn) : (s.setTurn x).queue j = s.queue j := rfl
@[simp] theorem State.setTurn_adapter (s : State) (j : Nat) (x : Turn) : (s.setTurn x).adapter j = s.adapter j := rfl
@[simp] theorem State.setTurn_model (s : State) (j : Nat) (x : Turn) : (s.setTurn x).model j = s.model j := rfl
@[simp] theorem State.setTurn_wobj (s : State) (j : Nat) (x : Turn) : (s.setTurn x).wobj j = s.wobj j := rfl
@[simp] theorem State.setTurn_bank (s : State) (j : Nat) (x : Turn) : (s.setTurn x).bank j = s.bank j := rfl
@[simp] theorem State.setTurn_fn (s : State) (j : Nat) (x : Turn) : (s.setTurn x).fn j = s.fn j := rfl

/-! ## setMem -/

@[simp] theorem State.setMem_agenda (s : State) (x : Tbl Byte) : (s.setMem x).agenda = s.agenda := rfl
@[simp] theorem State.setMem_focus (s : State) (x : Tbl Byte) : (s.setMem x).focus = s.focus := rfl
@[simp] theorem State.setMem_unready (s : State) (x : Tbl Byte) : (s.setMem x).unready = s.unready := rfl
@[simp] theorem State.setMem_slips (s : State) (x : Tbl Byte) : (s.setMem x).slips = s.slips := rfl
@[simp] theorem State.setMem_queued (s : State) (x : Tbl Byte) : (s.setMem x).queued = s.queued := rfl
@[simp] theorem State.setMem_heldSince (s : State) (x : Tbl Byte) : (s.setMem x).heldSince = s.heldSince := rfl
@[simp] theorem State.setMem_turn (s : State) (x : Tbl Byte) : (s.setMem x).turn = s.turn := rfl
@[simp] theorem State.setMem_freeIdx (s : State) (x : Tbl Byte) : (s.setMem x).freeIdx = s.freeIdx := rfl
@[simp] theorem State.setMem_power (s : State) (x : Tbl Byte) : (s.setMem x).power = s.power := rfl
@[simp] theorem State.setMem_mem (s : State) (x : Tbl Byte) : (s.setMem x).mem = x := rfl
@[simp] theorem State.setMem_poison (s : State) (x : Tbl Byte) : (s.setMem x).poison = s.poison := rfl
@[simp] theorem State.setMem_regPoison (s : State) (x : Tbl Byte) : (s.setMem x).regPoison = s.regPoison := rfl
@[simp] theorem State.setMem_slotRecs (s : State) (x : Tbl Byte) : (s.setMem x).slotRecs = s.slotRecs := rfl
@[simp] theorem State.setMem_tasks (s : State) (x : Tbl Byte) : (s.setMem x).tasks = s.tasks := rfl
@[simp] theorem State.setMem_fws (s : State) (x : Tbl Byte) : (s.setMem x).fws = s.fws := rfl
@[simp] theorem State.setMem_cores (s : State) (x : Tbl Byte) : (s.setMem x).cores = s.cores := rfl
@[simp] theorem State.setMem_pairs (s : State) (x : Tbl Byte) : (s.setMem x).pairs = s.pairs := rfl
@[simp] theorem State.setMem_mats (s : State) (x : Tbl Byte) : (s.setMem x).mats = s.mats := rfl
@[simp] theorem State.setMem_dies (s : State) (x : Tbl Byte) : (s.setMem x).dies = s.dies := rfl
@[simp] theorem State.setMem_ctxs (s : State) (x : Tbl Byte) : (s.setMem x).ctxs = s.ctxs := rfl
@[simp] theorem State.setMem_xfers (s : State) (x : Tbl Byte) : (s.setMem x).xfers = s.xfers := rfl
@[simp] theorem State.setMem_requests (s : State) (x : Tbl Byte) : (s.setMem x).requests = s.requests := rfl
@[simp] theorem State.setMem_arrivals (s : State) (x : Tbl Byte) : (s.setMem x).arrivals = s.arrivals := rfl
@[simp] theorem State.setMem_nextId (s : State) (x : Tbl Byte) : (s.setMem x).nextId = s.nextId := rfl
@[simp] theorem State.setMem_chans (s : State) (x : Tbl Byte) : (s.setMem x).chans = s.chans := rfl
@[simp] theorem State.setMem_bars (s : State) (x : Tbl Byte) : (s.setMem x).bars = s.bars := rfl
@[simp] theorem State.setMem_waiting (s : State) (x : Tbl Byte) : (s.setMem x).waiting = s.waiting := rfl
@[simp] theorem State.setMem_launches (s : State) (x : Tbl Byte) : (s.setMem x).launches = s.launches := rfl
@[simp] theorem State.setMem_statusDue (s : State) (x : Tbl Byte) : (s.setMem x).statusDue = s.statusDue := rfl
@[simp] theorem State.setMem_nextLaunch (s : State) (x : Tbl Byte) : (s.setMem x).nextLaunch = s.nextLaunch := rfl
@[simp] theorem State.setMem_grants (s : State) (x : Tbl Byte) : (s.setMem x).grants = s.grants := rfl
@[simp] theorem State.setMem_queues (s : State) (x : Tbl Byte) : (s.setMem x).queues = s.queues := rfl
@[simp] theorem State.setMem_gangLate (s : State) (x : Tbl Byte) : (s.setMem x).gangLate = s.gangLate := rfl
@[simp] theorem State.setMem_podSent (s : State) (x : Tbl Byte) : (s.setMem x).podSent = s.podSent := rfl
@[simp] theorem State.setMem_adapters (s : State) (x : Tbl Byte) : (s.setMem x).adapters = s.adapters := rfl
@[simp] theorem State.setMem_models (s : State) (x : Tbl Byte) : (s.setMem x).models = s.models := rfl
@[simp] theorem State.setMem_wobjs (s : State) (x : Tbl Byte) : (s.setMem x).wobjs = s.wobjs := rfl
@[simp] theorem State.setMem_banks (s : State) (x : Tbl Byte) : (s.setMem x).banks = s.banks := rfl
@[simp] theorem State.setMem_loads (s : State) (x : Tbl Byte) : (s.setMem x).loads = s.loads := rfl
@[simp] theorem State.setMem_measured (s : State) (x : Tbl Byte) : (s.setMem x).measured = s.measured := rfl
@[simp] theorem State.setMem_codes (s : State) (x : Tbl Byte) : (s.setMem x).codes = s.codes := rfl
@[simp] theorem State.setMem_nextCode (s : State) (x : Tbl Byte) : (s.setMem x).nextCode = s.nextCode := rfl
@[simp] theorem State.setMem_nextGid (s : State) (x : Tbl Byte) : (s.setMem x).nextGid = s.nextGid := rfl
@[simp] theorem State.setMem_cellar (s : State) (x : Tbl Byte) : (s.setMem x).cellar = s.cellar := rfl
@[simp] theorem State.setMem_fns (s : State) (x : Tbl Byte) : (s.setMem x).fns = s.fns := rfl
@[simp] theorem State.setMem_fnOf (s : State) (x : Tbl Byte) : (s.setMem x).fnOf = s.fnOf := rfl
@[simp] theorem State.setMem_flrNext (s : State) (x : Tbl Byte) : (s.setMem x).flrNext = s.flrNext := rfl
@[simp] theorem State.setMem_keys (s : State) (x : Tbl Byte) : (s.setMem x).keys = s.keys := rfl
@[simp] theorem State.setMem_fuses (s : State) (x : Tbl Byte) : (s.setMem x).fuses = s.fuses := rfl
@[simp] theorem State.setMem_units (s : State) (x : Tbl Byte) : (s.setMem x).units = s.units := rfl
@[simp] theorem State.setMem_started (s : State) (x : Tbl Byte) : (s.setMem x).started = s.started := rfl
@[simp] theorem State.setMem_pod (s : State) (x : Tbl Byte) : (s.setMem x).pod = s.pod := rfl
@[simp] theorem State.setMem_cfeA (s : State) (x : Tbl Byte) : (s.setMem x).cfeA = s.cfeA := rfl
@[simp] theorem State.setMem_cfeB (s : State) (x : Tbl Byte) : (s.setMem x).cfeB = s.cfeB := rfl
@[simp] theorem State.setMem_cfeActiveB (s : State) (x : Tbl Byte) : (s.setMem x).cfeActiveB = s.cfeActiveB := rfl
@[simp] theorem State.setMem_cfeSwitching (s : State) (x : Tbl Byte) : (s.setMem x).cfeSwitching = s.cfeSwitching := rfl
@[simp] theorem State.setMem_iodLink (s : State) (x : Tbl Byte) : (s.setMem x).iodLink = s.iodLink := rfl
@[simp] theorem State.setMem_debug (s : State) (x : Tbl Byte) : (s.setMem x).debug = s.debug := rfl
@[simp] theorem State.setMem_secLog (s : State) (x : Tbl Byte) : (s.setMem x).secLog = s.secLog := rfl
@[simp] theorem State.setMem_events (s : State) (x : Tbl Byte) : (s.setMem x).events = s.events := rfl
@[simp] theorem State.setMem_mgmt (s : State) (x : Tbl Byte) : (s.setMem x).mgmt = s.mgmt := rfl
@[simp] theorem State.setMem_task (s : State) (j : Nat) (x : Tbl Byte) : (s.setMem x).task j = s.task j := rfl
@[simp] theorem State.setMem_fw (s : State) (j : Nat) (x : Tbl Byte) : (s.setMem x).fw j = s.fw j := rfl
@[simp] theorem State.setMem_core (s : State) (j : Nat) (x : Tbl Byte) : (s.setMem x).core j = s.core j := rfl
@[simp] theorem State.setMem_pair (s : State) (j : Nat) (x : Tbl Byte) : (s.setMem x).pair j = s.pair j := rfl
@[simp] theorem State.setMem_mat (s : State) (j : Nat) (x : Tbl Byte) : (s.setMem x).mat j = s.mat j := rfl
@[simp] theorem State.setMem_die (s : State) (j : Nat) (x : Tbl Byte) : (s.setMem x).die j = s.die j := rfl
@[simp] theorem State.setMem_ctx (s : State) (j : Nat) (x : Tbl Byte) : (s.setMem x).ctx j = s.ctx j := rfl
@[simp] theorem State.setMem_queue (s : State) (j : Nat) (x : Tbl Byte) : (s.setMem x).queue j = s.queue j := rfl
@[simp] theorem State.setMem_adapter (s : State) (j : Nat) (x : Tbl Byte) : (s.setMem x).adapter j = s.adapter j := rfl
@[simp] theorem State.setMem_model (s : State) (j : Nat) (x : Tbl Byte) : (s.setMem x).model j = s.model j := rfl
@[simp] theorem State.setMem_wobj (s : State) (j : Nat) (x : Tbl Byte) : (s.setMem x).wobj j = s.wobj j := rfl
@[simp] theorem State.setMem_bank (s : State) (j : Nat) (x : Tbl Byte) : (s.setMem x).bank j = s.bank j := rfl
@[simp] theorem State.setMem_fn (s : State) (j : Nat) (x : Tbl Byte) : (s.setMem x).fn j = s.fn j := rfl

end Sys2Proof.Machine
end

