-- ==== Sys2Proof/Laws/Memory.lean ====
section
/-! SUPPORT. The byte operations of memory: each keeps the canonical form, a read after a write gives the value written, and a
write leaves every other byte alone. -/
namespace Sys2Proof.Machine

theorem Memory.wf_iff (m : Tbl Byte) : Memory.wf m = tcanonical 0 m := rfl

/-! ## The canonical form -/

theorem State.putByte_memWf {s : State} (h : s.memWf) (key : Nat) (b : Byte) : (s.putByte key b).memWf :=
  tset_canonical 0 s.mem key b h

theorem State.putBytes_memWf {s : State} (h : s.memWf) (key : Nat) (l : List Byte) : (s.putBytes key l).memWf := by
  induction l generalizing s key with
  | nil => exact h
  | cons b l ih => exact ih (s.putByte_memWf h key b) (key + 1)

theorem State.putNib_memWf {s : State} (h : s.memWf) (key : Nat) (n : BitVec 2) (b : Byte) : (s.putNib key n b).memWf := by
  unfold State.putNib
  split <;> first | exact h | exact s.putByte_memWf h key _

theorem foldl_keeps {α : Type} {P : State → Prop} (f : State → α → State) (hf : ∀ s x, P s → P (f s x)) (l : List α) (s : State)
    (h : P s) : P (l.foldl f s) := by
  induction l generalizing s with
  | nil => exact h
  | cons x l ih => exact ih (f s x) (hf s x h)

theorem State.putNibs_memWf {s : State} (h : s.memWf) (key : Nat) (l : List NibWrite) : (s.putNibs key l).memWf :=
  foldl_keeps _ (fun s b hs => s.putNib_memWf hs (key + b.off) b.nib b.byte) l s h

theorem State.dropBytes_memWf {s : State} (h : s.memWf) (lo hi : Nat) : (s.dropBytes lo hi).memWf :=
  filter_canonical 0 _ s.mem h

theorem State.placeBytes_memWf {s : State} (h : s.memWf) (base : Nat) (t : Tbl Byte) : (s.placeBytes base t).memWf :=
  foldl_keeps _ (fun s e hs => s.putByte_memWf hs (base + e.1) e.2) t _ (s.dropBytes_memWf h base (base + 2 ^ 25))

theorem State.reset_memWf : State.reset.memWf := rfl

/-! ## Reading after writing -/

theorem State.getByte_putByte {s : State} (h : s.memWf) (key k : Nat) (b : Byte) :
    (s.putByte key b).getByte k = if key = k then b else s.getByte k :=
  tget_tset 0 s.mem key k b (Bool.and_eq_true_iff.mp h).1

theorem State.getByte_putBytes_below {s : State} (h : s.memWf) (key k : Nat) (l : List Byte) (hk : k < key) :
    (s.putBytes key l).getByte k = s.getByte k := by
  induction l generalizing s key with
  | nil => rfl
  | cons b l ih =>
    simp only [State.putBytes]
    rw [ih (s.putByte_memWf h key b) (key + 1) (by omega), s.getByte_putByte h]
    simp [Nat.ne_of_gt hk]

/-- A write of several bytes reads back, and leaves every other byte as it was. -/
theorem State.getByte_putBytes {s : State} (h : s.memWf) (key k : Nat) (l : List Byte) :
    (s.putBytes key l).getByte k = if key ≤ k ∧ k < key + l.length then l.getD (k - key) 0 else s.getByte k := by
  induction l generalizing s key with
  | nil =>
    have : ¬ (key ≤ k ∧ k < key + ([] : List Byte).length) := by simp
    rw [if_neg this]; rfl
  | cons b l ih =>
    simp only [State.putBytes]
    by_cases hk : k = key
    · subst hk
      rw [s.putByte_memWf h k b |> State.getByte_putBytes_below (key := k + 1) (k := k) (l := l) (hk := by omega),
        s.getByte_putByte h]
      simp
    · rw [ih (s.putByte_memWf h key b) (key + 1), s.getByte_putByte h, if_neg (Ne.symm hk)]
      by_cases hlt : k < key
      · rw [if_neg (by omega), if_neg (by omega)]
      · have e : k - key = (k - (key + 1)) + 1 := by omega
        have hl : (b :: l).length = l.length + 1 := rfl
        rw [e, hl]
        by_cases hin : k < key + 1 + l.length
        · rw [if_pos ⟨by omega, hin⟩, if_pos ⟨by omega, by omega⟩]
          simp
        · rw [if_neg (by omega), if_neg (by omega)]

end Sys2Proof.Machine
end

