-- ==== Sys2Proof/Laws/Ops.lean ====
section
/-! SUPPORT. What each shared operation of the meanings can do, said once. -/
namespace Sys2Proof.Machine

/-! ## How an instruction ends -/

@[simp] theorem finish_ok (s t : State) (u : Unit) : finish s (.ok u t) = .next t := rfl

theorem finish_trap (s : State) (c : Nat) (v : Word) :
    finish s (.trap c v) = .next { s.takeTrap c v with turn := { s.turn with stop := .trapped c v } } := rfl

theorem finish_hold (s : State) (h : Hold) :
    finish s (.hold h) = .next { s.takeHold h with turn := { s.turn with stop := .held h } } := rfl

theorem finish_next (s : State) (r : Res Unit) : ∃ t, finish s r = .next t := by cases r <;> exact ⟨_, rfl⟩

theorem guarded_true {g : BitVec 4} {s : State} (h : s.guard g = true) (r : Res Unit) : guarded g s r = finish s r := by
  simp [guarded, h]

theorem guarded_false {g : BitVec 4} {s : State} (h : s.guard g = false) (r : Res Unit) : guarded g s r = .next s := by
  simp [guarded, h]

theorem guarded_next (g : BitVec 4) (s : State) (r : Res Unit) : ∃ t, guarded g s r = .next t := by
  unfold guarded
  split
  · exact finish_next s r
  · exact ⟨s, rfl⟩

theorem holdWord_next (s : State) (h : Hold) : ∃ t, holdWord s h = .next t := ⟨_, rfl⟩

@[simp] theorem Res.bind_ok {α β : Type} (a : α) (s : State) (f : α → State → Res β) : (Res.ok a s).bind f = f a s := rfl

@[simp] theorem Res.bind_trap {α β : Type} (c : Nat) (v : Word) (f : α → State → Res β) : (Res.trap c v).bind f = .trap c v :=
  rfl

@[simp] theorem Res.bind_hold {α β : Type} (h : Hold) (f : α → State → Res β) : (Res.hold h).bind f = .hold h := rfl

@[simp] theorem whenOk_true (s t : State) : whenOk true s t = .next t := rfl

@[simp] theorem whenOk_false (s t : State) : whenOk false s t = .next s := rfl

/-- An engine word whose preamble passes and whose generations are complete has its effect, its trap or its wait. -/
theorem engineWord_ready {f : TokenFields} {s t : State} {p : Pre} (hp : s.preamble f = .ok p t) (hu : t.unmet p = none)
    (effect : Pre → State → Res Unit) :
    engineWord f s effect = (match effect p t with
      | .ok _ u => .next (u.endWord p.prod)
      | .trap c v => finish t (.trap c v)
      | .hold h => holdWord t h) := by
  simp only [engineWord, hp, hu] <;> rfl

theorem engineWord_next (f : TokenFields) (s : State) (effect : Pre → State → Res Unit) :
    ∃ t, engineWord f s effect = .next t := by
  unfold engineWord
  repeat' first
    | exact ⟨_, rfl⟩
    | exact finish_next _ _
    | exact holdWord_next _ _
    | split

/-! ## The stream in issue -/

@[simp] theorem State.setHart_turn (s : State) (h : Hart) : (s.setHart h).turn = s.turn := by
  unfold State.setHart; split <;> rfl

@[simp] theorem State.setRf_turn (s : State) (r : RegFile) : (s.setRf r).turn = s.turn := by
  unfold State.setRf; split <;> simp

@[simp] theorem State.setHart_hart (s : State) (h : Hart) : (s.setHart h).hart = h := by
  cases ha : s.turn.agent <;>
    simp [State.setHart, State.hart, ha, State.setFw, State.setTask, State.task, State.fw]

@[simp] theorem State.setRf_rf (s : State) (r : RegFile) : (s.setRf r).rf = r := by
  cases ha : s.turn.agent <;>
    simp [State.setRf, State.rf, State.setHart, State.hart, ha, State.setFw, State.setTask, State.task, State.fw]

theorem State.setTurn_rf (s : State) (t : Turn) (h : t.agent = s.turn.agent) : (s.setTurn t).rf = s.rf := by
  simp only [State.rf, State.hart, State.setTurn, h]
  rfl

end Sys2Proof.Machine
end

