-- ==== Sys2Proof/Laws/Registers.lean ====
section
/-! SUPPORT. What the writes in flight to one register make of it: landing them depends on that register's own entries
alone. -/
namespace Sys2Proof.Machine

theorem tget_terase_other {α : Type} (d : α) (t : Tbl α) {i j : Nat} (h : j ≠ i) : tget d (terase t i) j = tget d t j := by
  induction t with
  | nil => rfl
  | cons e t ih =>
    obtain ⟨k, v⟩ := e
    simp only [terase]
    split
    · rename_i hk
      simp [tget, tfind, hk, Ne.symm h]
    · simp only [tget, tfind] at ih ⊢
      split <;> simp_all

theorem tget_tset_other {α : Type} [DecidableEq α] (d : α) (t : Tbl α) {i j : Nat} (x : α) (h : j ≠ i) :
    tget d (tset d t i x) j = tget d t j := by
  unfold tset
  split
  · exact tget_terase_other d t h
  · exact tget_tput_other d t x h

theorem tset_sorted {α : Type} [DecidableEq α] (d : α) (t : Tbl α) (i : Nat) (x : α) (h : tsorted t = true) :
    tsorted (tset d t i x) = true := by
  unfold tset
  split
  · exact terase_sortedFrom t 0 i h
  · exact tput_sortedFrom t 0 i x h (Nat.zero_le i)

/-- The step of `landPend`. -/
def landStep {w : Nat} (due : Pend w → Bool) (acc : Tbl (BitVec w) × List (Pend w)) (e : Pend w) :
    Tbl (BitVec w) × List (Pend w) :=
  if due e then
    (tset 0 acc.1 e.reg ((tget 0 acc.1 e.reg &&& ~~~e.mask) ||| (e.val &&& e.mask)),
      acc.2.map fun o => if o.reg = e.reg then { o with mask := o.mask &&& ~~~e.mask } else o)
  else (acc.1, acc.2 ++ [e])

theorem landPend_eq {w : Nat} (due : Pend w → Bool) (vals : Tbl (BitVec w)) (pend : List (Pend w)) :
    landPend due vals pend = pend.foldl (landStep due) (vals, []) := rfl

/-- The same for one register: its value, and its writes still in flight. -/
def landOne {w : Nat} (due : Pend w → Bool) (acc : BitVec w × List (Pend w)) (e : Pend w) : BitVec w × List (Pend w) :=
  if due e then
    ((acc.1 &&& ~~~e.mask) ||| (e.val &&& e.mask), acc.2.map fun o => { o with mask := o.mask &&& ~~~e.mask })
  else (acc.1, acc.2 ++ [e])

theorem land_sorted {w : Nat} (due : Pend w → Bool) (pend : List (Pend w)) (acc : Tbl (BitVec w) × List (Pend w))
    (h : tsorted acc.1 = true) : tsorted (pend.foldl (landStep due) acc).1 = true := by
  induction pend generalizing acc with
  | nil => exact h
  | cons e t ih =>
    apply ih
    unfold landStep
    split
    · exact tset_sorted _ _ _ _ h
    · exact h

/-- The entries of register `n`. -/
def pendOf {w : Nat} (n : Nat) (l : List (Pend w)) : List (Pend w) := l.filter fun e => e.reg == n

/-- Landing, seen at one register. -/
theorem land_at {w : Nat} (due : Pend w → Bool) (n : Nat) (pend : List (Pend w)) (acc : Tbl (BitVec w) × List (Pend w))
    (h : tsorted acc.1 = true) :
    (tget 0 (pend.foldl (landStep due) acc).1 n, pendOf n (pend.foldl (landStep due) acc).2)
      = (pendOf n pend).foldl (landOne due) (tget 0 acc.1 n, pendOf n acc.2) := by
  induction pend generalizing acc with
  | nil => rfl
  | cons e t ih =>
    have hs : tsorted (landStep due acc e).1 = true := by
      have := land_sorted due [e] acc h
      exact this
    rw [List.foldl_cons, ih _ hs]
    by_cases he : e.reg = n
    · have : pendOf n (e :: t) = e :: pendOf n t := by simp [pendOf, he]
      rw [this, List.foldl_cons]
      congr 1
      unfold landStep landOne
      split
      · ext1
        · simp [tget_tset, h, he]
        · simp only [pendOf, List.filter_map]
          have : ((fun e => e.reg == n) ∘ fun (o : Pend w) => if o.reg = e.reg then { o with mask := o.mask &&& ~~~e.mask } else o)
              = fun (o : Pend w) => o.reg == n := by
            funext o
            simp only [Function.comp]
            split <;> rfl
          rw [this]
          apply List.map_congr_left
          intro o ho
          have := (List.mem_filter.mp ho).2
          simp only [beq_iff_eq] at this
          simp [this, he]
      · simp [pendOf, he]
    · have : pendOf n (e :: t) = pendOf n t := by simp [pendOf, he]
      rw [this]
      congr 1
      unfold landStep
      split
      · ext1
        · exact tget_tset_other _ _ _ (Ne.symm he)
        · simp only [pendOf, List.filter_map]
          have : ((fun e => e.reg == n) ∘ fun (o : Pend w) => if o.reg = e.reg then { o with mask := o.mask &&& ~~~e.mask } else o)
              = fun (o : Pend w) => o.reg == n := by
            funext o
            simp only [Function.comp]
            split <;> rfl
          rw [this]
          conv => rhs; rw [← List.map_id (List.filter (fun e => e.reg == n) acc.2)]
          apply List.map_congr_left
          intro o ho
          have := (List.mem_filter.mp ho).2
          simp only [beq_iff_eq] at this
          simp [this, Ne.symm he]
      · simp [pendOf, he]

/-- `landPend` at one register. -/
theorem landPend_at {w : Nat} (due : Pend w → Bool) (n : Nat) (vals : Tbl (BitVec w)) (pend : List (Pend w))
    (h : tsorted vals = true) :
    (tget 0 (landPend due vals pend).1 n, pendOf n (landPend due vals pend).2)
      = (pendOf n pend).foldl (landOne due) (tget 0 vals n, []) := by
  rw [landPend_eq]
  exact land_at due n pend (vals, []) h

theorem landPend_sorted {w : Nat} (due : Pend w → Bool) (vals : Tbl (BitVec w)) (pend : List (Pend w))
    (h : tsorted vals = true) : tsorted (landPend due vals pend).1 = true := by
  rw [landPend_eq]
  exact land_sorted due pend (vals, []) h

end Sys2Proof.Machine
end

