-- ==== Sys2Proof/Tests/Slice0.lean ====
section
/-! SUPPORT. Tests on words and values written out from the spec, and for each statement with hypotheses a state and operands
that meet them. -/
open Sys2Proof Sys2Proof.Machine

namespace Sys2Proof.Tests

set_option Elab.async false

/-- The step or instruction answers a next state of which `f` holds. -/
def nextIs (o : Out) (f : State → Bool) : Bool := match o with | .next t => f t | _ => false

/-- An operation answers a value and a state of which `f` holds. -/
def okIs {α : Type} (r : Res α) (f : α → State → Bool) : Bool := match r with | .ok a t => f a t | _ => false

/-- An operation traps with a cause and a value of which `f` holds. -/
def trapIs {α : Type} (r : Res α) (f : Nat → Word → Bool) : Bool := match r with | .trap c v => f c v | _ => false

/-! ## Words with a field that a check refuses -/

theorem test_ill_guard : checkInstr (.add 1 2 3 12) = some .guard := by decide
theorem test_ill_predicate : checkInstr (.cmpEq 12 0 0 15) = some .predicate := by decide
theorem test_ill_range : checkInstr (.ext 1 2 63 1) = some .range := by decide
theorem test_well_range : (Instr.ext 1 2 63 0).wf = true := by decide
theorem test_ill_scope : checkInstr (.fence 9) = some .scope := by decide
theorem test_ill_unused : checkInstr (.cmdCall ⟨1, 0, 0, 0, 0, 0⟩) = some .unused := by decide
theorem test_ill_parameter : checkInstr (.vexec ⟨⟨0, 63, 63, 63⟩, 0, 0, 0⟩) = some .parameter := by decide
theorem test_ill_format : checkInstr (.vadd ⟨0, 15, 15, ⟨63, 63, 63, 63⟩, 0, 0, 0⟩) = some .format := by decide
theorem test_ill_mask : checkInstr (.vadd ⟨0, 0, 12, ⟨63, 63, 63, 63⟩, 0, 0, 0⟩) = some .mask := by decide
theorem test_ill_descriptor : checkInstr (.vadd ⟨0, 0, 15, ⟨63, 63, 63, 63⟩, 0x30000, 0, 0⟩) = some .descriptor := by decide
theorem test_ill_generator :
    checkInstr (.astep ⟨0, ⟨63, 63, 63, 63⟩, 15, 1, 5, 0, 7, 0, 0, 0, 0, 0, 0xFFF, 0, 0, 0, 0, 0, 0, 0⟩) = some .generator := by
  decide
theorem test_ill_rows :
    checkInstr (.aclr ⟨0, ⟨63, 63, 63, 63⟩, 15, 0, 0, 0, 1, 1023, 0, 0, 0, 0, 0, 0, 0, 0, 0, 0, 0, 0⟩) = some .rows := by decide
theorem test_ill_flag :
    checkInstr (.ard ⟨0, ⟨63, 63, 63, 63⟩, 15, 0, 0, 0, 7, 0, 0, 0, 0, 0, 0, 0, 0, 0, 0, 12, 0, 0⟩) = some .flag := by decide
theorem test_ill_words : checkInstr (.invoke ⟨0, 0, 0, 0, 1, 0⟩ []) = some .words := by decide

/-! ## Words written out by field: opcode at [27:22], rd at [21:17], a at [16:12], b at [11:7], function at [6:4], guard at [3:0];
an immediate at [11:0] (03 R80, R90, R91) -/

theorem test_decode_sub : decodeWord (0x01 * 2 ^ 22 + 3 * 2 ^ 17 + 4 * 2 ^ 12 + 5 * 2 ^ 7 + 1 * 2 ^ 4 + 15) = .ok (.sub 3 4 5 15) := rfl
theorem test_decode_mulhu : decodeWord (0x02 * 2 ^ 22 + 3 * 2 ^ 17 + 4 * 2 ^ 12 + 5 * 2 ^ 7 + 2 * 2 ^ 4 + 1) = .ok (.mulhu 3 4 5 1) := rfl
theorem test_decode_sel : decodeWord (0x02 * 2 ^ 22 + 3 * 2 ^ 17 + 4 * 2 ^ 12 + 5 * 2 ^ 7 + 7 * 2 ^ 4 + 11) = .ok (.sel 3 4 5 11) := rfl
theorem test_decode_rem : decodeWord (0x03 * 2 ^ 22 + 31 * 2 ^ 17 + 4 * 2 ^ 12 + 5 * 2 ^ 7 + 2 * 2 ^ 4 + 15) = .ok (.rem 31 4 5 15) := rfl
theorem test_decode_cmp : decodeWord (0x04 * 2 ^ 22 + 11 * 2 ^ 17 + 4 * 2 ^ 12 + 5 * 2 ^ 7 + 4 * 2 ^ 4 + 15) = .ok (.cmpGe 11 4 5 15) := rfl
theorem test_decode_pnot : decodeWord (0x05 * 2 ^ 22 + 2 * 2 ^ 17 + 4 * 2 ^ 12 + 3 * 2 ^ 4 + 15) = .ok (.pnot 2 4 15) := rfl
theorem test_decode_ext : decodeWord (0x14 * 2 ^ 22 + 3 * 2 ^ 17 + 4 * 2 ^ 12 + 40 * 2 ^ 6 + 7) = .ok (.ext 3 4 40 7) := rfl
theorem test_decode_limm : decodeWord (0x1B * 2 ^ 22 + 0x2ABCDE) = .ok (.limm 0x2ABCDE) := rfl
theorem test_decode_call : decodeWord (0x1C * 2 ^ 22 + 2 * 2 ^ 18 + 2 ^ 17 + 0x1FFFF) = .ok (.call 2 0x1FFFF) := rfl
theorem test_decode_jr : decodeWord (0x06 * 2 ^ 22 + 31 * 2 ^ 12 + 15) = .ok (.jr 0 31 15) := rfl
theorem test_decode_brk : decodeWord (0x0A * 2 ^ 22 + 3 * 2 ^ 12 + 9 * 2 ^ 7 + 4 * 2 ^ 4 + 15) = .ok (.brk 0x69 15) := rfl
theorem test_decode_csrr : decodeWord (0x16 * 2 ^ 22 + 6 * 2 ^ 17 + 0x043) = .ok (.csrr 6 0x043) := rfl
theorem test_decode_gaddr : decodeWord (0x07 * 2 ^ 22 + 6 * 2 ^ 17 + 7 * 2 ^ 12 + 2 * 2 ^ 7 + 15) = .ok (.gaddr 6 7 2 15) := rfl
theorem test_decode_gate : decodeWord (0x0A * 2 ^ 22 + 2 * 2 ^ 12 + 3 * 2 ^ 4 + 15) = .ok (.vfcfgGate 15) := rfl
theorem test_decode_load : decodeWord (0x25 * 2 ^ 22 + 6 * 2 ^ 17 + 7 * 2 ^ 12 + 0xFF8) = .ok (.ldWu 6 7 0xFF8) := rfl
theorem test_decode_store : decodeWord (0x2B * 2 ^ 22 + 6 * 2 ^ 17 + 7 * 2 ^ 12 + 16) = .ok (.stD 6 7 16) := rfl
theorem test_decode_reserved_zero : (decodeWord 0).toOption = none := by decide
theorem test_decode_reserved_function : (decodeWord (0x06 * 2 ^ 22 + 1 * 2 ^ 4 + 15)).toOption = none := by decide
theorem test_decode_guard_refused : (decodeWord (0x01 * 2 ^ 22 + 12)).toOption = none := by decide

/-! ## One step -/

/-- 04's counted loop: its first word gives `s7` 5. -/
theorem test_addi :
    nextIs (step (State.reset.withFetchWord 32 0x830E0005)) (fun t => (t.task 0).hart.rf.settle.read 7 == 5) = true := by
  decide +kernel

/-- FIPS 180-4's one-block message. -/
theorem test_sha256 : sha256 [0x61, 0x62, 0x63] = 0xba7816bf8f01cfea414140de5dae2223b00361a396177a9cb410ff61f20015ad := by
  decide +kernel

/-- FIPS 197's example of AES-256. -/
theorem test_aes256 :
    aes256 ((List.range 32).map fun i => BitVec.ofNat 8 i) ((List.range 16).map fun i => BitVec.ofNat 8 (0x11 * i))
      = bytesBig 16 0x8ea2b7ca516745bfeafc49904b496089 := by
  decide +kernel

/-! ## States for the witnesses

The task at slot 0 with a word of code at address 0, and what differs. -/

/-- The control core of slot 0 issues the word at address 0. -/
def base : State :=
  (State.reset.withFetchWord 32 0x830E0005).setTurn { Turn.init with agent := .scalar 0, next := 4 }

/-- The same with the task changed. -/
def withTask (f : Task → Task) : State := base.setTask 0 (f (base.task 0))

/-- The same with scalar registers given. -/
def withRegs (l : List (Nat × Nat)) : State :=
  withTask fun t => { t with hart := { t.hart with rf := ⟨l.map fun e => (e.1, BitVec.ofNat 64 e.2), [], 0⟩ } }

/-- The firmware context of core 0 issues. -/
def fwBase : State := base.setTurn { Turn.init with agent := .firmware 0, next := 4 }

/-- In the handler. -/
def inHandler : State := withTask fun t => { t with hart := { t.hart with inhdl := true } }

/-! ## Encodings and steps -/

theorem wit_round_trip_scalar : ∃ w, (Instr.addi 7 0 5).wf = true ∧ encode (.addi 7 0 5) = .scalar w :=
  ⟨_, by decide, rfl⟩
theorem wit_round_trip_scalar_last : ∃ w, (Instr.ext 31 31 0 63).wf = true ∧ encode (.ext 31 31 0 63) = .scalar w :=
  ⟨_, by decide, rfl⟩
theorem wit_round_trip_pair :
    ∃ a b, (Instr.vexec ⟨⟨1, 63, 63, 63⟩, 5, 0, 24⟩).wf = true ∧ encode (.vexec ⟨⟨1, 63, 63, 63⟩, 5, 0, 24⟩) = .pair a b :=
  ⟨_, _, by decide, rfl⟩
theorem wit_round_trip_vector :
    ∃ w, (Instr.vadd ⟨7, 11, 11, ⟨63, 63, 63, 63⟩, 0x800, 0x7FF, 0xFFFF⟩).wf = true
      ∧ encode (.vadd ⟨7, 11, 11, ⟨63, 63, 63, 63⟩, 0x800, 0x7FF, 0xFFFF⟩) = .vector w :=
  ⟨_, by decide, rfl⟩
theorem wit_round_trip_matrix :
    ∃ w, (Instr.aclr ⟨0, ⟨63, 63, 63, 63⟩, 15, 0, 0, 0, 0, 1023, 0, 0, 0, 0, 0, 0, 0, 0, 0, 0, 0, 0⟩).wf = true
      ∧ encode (.aclr ⟨0, ⟨63, 63, 63, 63⟩, 15, 0, 0, 0, 0, 1023, 0, 0, 0, 0, 0, 0, 0, 0, 0, 0, 0, 0⟩) = .matrix w :=
  ⟨_, by decide, rfl⟩
theorem wit_round_trip_command :
    ∃ w, (Instr.invoke ⟨1, 2, 3, 0, 16, 0xFFFFF⟩ (List.replicate 16 9)).wf = false
      ∧ (Instr.invoke ⟨1, 0, 3, 0, 16, 0xFFFFF⟩ (List.replicate 16 9)).wf = true
      ∧ encode (.invoke ⟨1, 0, 3, 0, 16, 0xFFFFF⟩ (List.replicate 16 9)) = .command w (List.replicate 16 9) :=
  ⟨_, by decide, by decide, rfl⟩

/-- A state in which the control core of slot 0 is chosen, and one in which it is chosen because slot 1's YIELD passes slot 1
over. -/
theorem wit_chosen : Sys2Proof.Claims.Chosen (State.reset.withFetchWord 32 0x830E0005) 0 none :=
  ⟨by decide +kernel, by decide +kernel, by decide +kernel, by decide +kernel⟩
theorem wit_chosen_passed :
    let s := State.reset.withFetchWord 32 0x830E0005
    let s := s.setTask 1 { s.task 0 with skip := true }
    Sys2Proof.Claims.Chosen s 0 (some 1) :=
  ⟨by decide +kernel, by decide +kernel, by decide +kernel, by decide +kernel⟩

/-- A word at the end of its section. -/
theorem wit_step_word :
    let s := State.reset.withFetchWord 32 0x830E0005
    let r := s.settle 0
    let pc := (r.task 0).hart.pc
    let u := r.beginTurn (.scalar 0) pc (pc + 4)
    s.agenda = [] ∧ pc.toNat + 4 = u.sectionSize (r.task 0).code 0
      ∧ u.codeBytes (r.task 0).code 0 pc.toNat 4 = 0x830E0005 ∧ wE 0x830E0005 = true ∧ inControl (.addi 7 0 5) = true
      ∧ isLimm (.addi 7 0 5) = false
      ∧ okIs (u.issueCheck ⟨[⟨pc, .addi 7 0 5⟩], pc + 4, wS 0x830E0005⟩) (fun _ t => t == u) = true
      ∧ nextIs (exec (.addi 7 0 5) u) (fun _ => true) = true := by
  decide +kernel

/-- A bundle of two words, LIMM and ADDI. -/
theorem wit_step_bundle :
    let s := State.reset.withFetchWord 32 0x06C00001
    let r := s.settle 0
    let pc := (r.task 0).hart.pc
    let u := r.beginTurn (.scalar 0) pc pc
    s.agenda = [] ∧ Sys2Proof.Claims.Chosen s 0 none
      ∧ (match u.fetchBundle pc with
        | .ok b =>
          let v := u.setTurn { u.turn with next := b.next }
          b.words.length == 2 && okIs (v.issueCheck b) (fun _ t => t == v) && nextIs (issueWords (asOneStep b.words) v) (fun _ => true)
        | .error _ => false) = true :=
  ⟨rfl, ⟨by decide +kernel, by decide +kernel, by decide +kernel, by decide +kernel⟩, by decide +kernel⟩

/-- A word of firmware: the last of its window's share. -/
theorem wit_step_firmware :
    let s := State.reset.withFetchWord 32 0x830E0005
    let s := s.setFw 0 { s.fw 0 with halted := false }
    let s := { s.setCore 0 { s.core 0 with fwCount := 3 } with focus := .firmware 0 }
    let s := s.putBytes (keyCode (fwCode 0) 0 0) (bytesOf 4 0x830E0005)
    let pc := (s.fw 0).hart.pc
    let u := s.beginTurn (.firmware 0) pc pc
    s.agenda = [] ∧ s.power = true ∧ s.focus = .firmware 0 ∧ s.firmwareUp 0 = true ∧ s.unready.contains (.firmware 0) = false
      ∧ s.choice 0 (.firmware 0) = (some (.firmware 0), none)
      ∧ (match u.fetchBundle pc with
        | .ok b =>
          let v := u.setTurn { u.turn with next := b.next }
          b.words.length == 1 && okIs (v.issueCheck b) (fun _ t => t == v) && nextIs (issueWords (asOneStep b.words) v) (fun _ => true)
        | .error _ => false) = true := by
  decide +kernel

/-- R85: a CSRR beside a VFCFG sees what stood before the bundle, so it runs first. -/
theorem test_as_one_step :
    asOneStep [⟨0, .vfcfgEnable 15⟩, ⟨4, .csrr 6 0x060⟩] = [⟨4, .csrr 6 0x060⟩, ⟨0, .vfcfgEnable 15⟩] := by
  decide

/-- A vector word, 05's compare into p2 of `v2` and `v5`. -/
def vecWord : Nat :=
  0x14 * 2 ^ 89 + 15 * 2 ^ 78 + 63 * (2 ^ 72 + 2 ^ 66 + 2 ^ 60 + 2 ^ 54) + 3 * 2 ^ 52 + 2 * 2 ^ 47 + 4 * 2 ^ 29 + 5 * 2 ^ 11

/-- MNOP with no tokens. -/
def mnopWord : Nat := 9 * 2 ^ 184 + 63 * (2 ^ 175 + 2 ^ 169 + 2 ^ 163 + 2 ^ 157) + 15 * 2 ^ 153

theorem wit_step_vector :
    let s := State.reset.withFetchWord 96 vecWord
    s.agenda = [] ∧ s.power = true ∧ s.focus = .vector 0 ∧ s.mayRun 0 = true ∧ s.unready.contains (.vector 0) = false
      ∧ (s.settle 0).engineTurn 0 1 (fun s k r => s.issueVector k r) = true
      ∧ (match ((s.settle 0).task 0).vec.cur with
        | some r =>
          let u := (s.settle 0).beginTurn (.vector 0) r.pc (r.pc + 12)
          r.hold.kind == .none && decide (r.pc.toNat + 12 ≤ u.sectionSize (u.task 0).code 1)
            && (match decodeVector (u.codeBytes (u.task 0).code 1 r.pc.toNat 12) with
              | .ok i => nextIs (exec i u) (fun _ => true)
              | .error _ => false)
        | none => false) = true := by
  decide +kernel

theorem wit_step_matrix :
    let s := State.reset.withFetchWord 192 mnopWord
    s.agenda = [] ∧ s.power = true ∧ s.focus = .matrix 0 ∧ s.mayRun 0 = true ∧ (s.task 0).stopped = false
      ∧ s.unready.contains (.matrix 0) = false
      ∧ (match ((s.settle 0).task 0).mat.cur with
        | some r =>
          let u := (s.settle 0).beginTurn (.matrix 0) r.pc (r.pc + 24)
          r.hold.kind == .none && !r.blk.nest && u.myMat.act.isSome
            && decide (r.pc.toNat + 24 ≤ u.sectionSize (u.task 0).code 2)
            && (match decodeMatrix (u.codeBytes (u.task 0).code 2 r.pc.toNat 24) with
              | .ok i => nextIs (exec i u) (wordEnded r)
              | .error _ => false)
        | none => false) = true := by
  decide +kernel

theorem wit_step_transfer :
    let s := State.reset.withFetchWord 32 0x0280005F
    s.agenda = [] ∧ s.power = true ∧ s.focus = .transfer 0 ∧ s.mayRun 0 = true ∧ s.unready.contains (.transfer 0) = false
      ∧ (s.settle 0).engineTurn 0 3 (fun s k r => s.issueTransfer k r.pc) = true
      ∧ (match ((s.settle 0).task 0).xfer.cur with
        | some r =>
          let u := (s.settle 0).beginTurn (.transfer 0) r.pc r.pc
          r.hold.kind == .none
            && (match u.fetchTransfer r.pc with
              | .ok b =>
                let v := u.setTurn { u.turn with next := b.next }
                okIs (v.issueCheck b) (fun _ t => t == v) && nextIs (issueWords b.words v) (fun t => t.turn.stop == .none)
              | .error _ => false)
        | none => false) = true := by
  decide +kernel

theorem wit_step_command :
    let s := State.reset.withFetchWord 64 0x0C40000000000000
    let x := s.queue 0
    s.agenda = [] ∧ s.power = true ∧ s.focus = .queue 0 ∧ x.asleep = false ∧ s.cfeSwitching = false
      ∧ s.unitUp unitCfe = true ∧ x.cur = none
      ∧ (match s.fetchCommand 0 x.pc with
        | .ok (.command c) _ => decide (c.instr = .cmdAdd ⟨1, 0, 0, 0, 0, 0⟩)
        | _ => false) = true := by
  decide +kernel

theorem wit_step_held_command :
    let s := State.reset.withFetchWord 64 0x0C40000000000000
    let t := s.setQueue 0 { s.queue 0 with cur := some ⟨0, 8, .cmdAdd ⟨1, 0, 0, 0, 0, 0⟩⟩ }
    t.agenda = [] ∧ t.power = true ∧ t.focus = .queue 0 ∧ (t.queue 0).asleep = false ∧ t.cfeSwitching = false
      ∧ t.unitUp unitCfe = true ∧ (t.queue 0).cur.isSome = true := by
  decide +kernel

/-- A message of the ring of function 3, at the last entry: CTX_DESTROY of context 5. -/
def ringState : State :=
  let s : State := { State.reset with power := true, units := 0xFF, focus := .host 3 }
  let s := s.setFn 3 { s.fn 3 with mrbase := 0x1000, mrsize := 16, mrhead := 0, mrtail := 15 }
  s.putBytes (keyHost 0x13C0) ([2, 0, 0, 0, 9, 0, 0, 0, 5] ++ List.replicate 55 0)

theorem wit_step_message :
    let s := ringState
    let e := s.ringEntry 3
    s.agenda = [] ∧ s.power = true ∧ s.focus = .host 3 ∧ s.unitUp unitHost = true ∧ (s.fn 3).pending = true
      ∧ bitOf (fieldAt e.1 2 1) 0 = false ∧ decodeMessage e.1 e.2 = .ok (.ctxDestroy 5)
      ∧ nextIs (exec (.ctxDestroy 5) s) (fun _ => true) = true :=
  ⟨rfl, rfl, rfl, rfl, by decide +kernel, by decide +kernel, rfl, by decide +kernel⟩

theorem wit_step_event :
    isEvent (.twaitRelease 0) = true ∧ isEvent .coldReset = true
      ∧ nextIs (exec (.twaitRelease 0) base) (fun _ => true) = true
      ∧ nextIs (exec .coldReset { base with power := false }) (fun _ => true) = true := by
  decide +kernel

/-! ## Scalar words -/

/-- A guard that is true and one that is false: 0xF, and a predicate that holds zeros. -/
theorem wit_guards : base.guard 15 = true ∧ base.guard 0 = false ∧ base.guard 11 = false
    ∧ (withTask fun t => { t with hart := { t.hart with p := [(11, 1)] } }).guard 11 = true := by
  decide +kernel

/-- The words a frame names, each with a next state. -/
theorem wit_frames : nextIs (exec (.add 31 1 2 15) base) (fun _ => true) = true
    ∧ nextIs (exec (.remu 31 1 2 15) base) (fun _ => true) = true
    ∧ nextIs (exec (.sptest 11 1 31 15) base) (fun _ => true) = true
    ∧ (3 : BitVec 5) ≠ 31 := by
  decide +kernel

theorem wit_divisor_zero : (withRegs [(1, 5)]).reg 2 = 0 := by decide +kernel
theorem wit_divisor_one : (withRegs [(1, 5), (2, 1)]).reg 2 ≠ 0 := by decide +kernel
theorem wit_divide_overflow :
    let s := withRegs [(1, 2 ^ 63), (2, 2 ^ 64 - 1)]
    s.guard 15 = true ∧ (s.reg 1).toInt = -2 ^ 63 ∧ (s.reg 2).toInt = -1 := by
  decide +kernel
theorem wit_field : (0 : BitVec 6).toNat + (63 : BitVec 6).toNat + 1 ≤ 64 ∧ (63 : BitVec 6).toNat + (0 : BitVec 6).toNat + 1 ≤ 64 := by
  decide
theorem wit_cmpi : (5 : BitVec 3).toNat ≤ 5 := by decide
theorem wit_false_guard : base.guard (guardOf (.add 1 2 3 0)) = false := by decide +kernel
theorem wit_latency : tsorted RegFile.init.vals = true ∧ (∀ e ∈ RegFile.init.pend, e.reg ≠ 31) ∧ 0 < 1 := by decide
theorem wit_later_write :
    ((((RegFile.init.write 7 3 5).advance 1).write 7 1 9).advance 1).read 7 = 9
    ∧ ((((RegFile.init.write 7 3 5).advance 1).write 7 3 9).advance 2).read 7 = 5 := by
  decide

/-! ### Control flow -/

theorem wit_loop : (withRegs [(7, 0)]).reg 7 = 0 ∧ (withRegs [(7, 1)]).reg 7 = 1 ∧ 1 < ((withRegs [(7, 2)]).reg 7).toNat
    ∧ base.turn.limm = none := by
  decide +kernel

/-- 04: LOOP with 2 goes back three words. -/
theorem test_loop :
    nextIs (exec (.loop 7 0xFFD) ((withRegs [(7, 2)]).setTurn { base.turn with wordPc := 0x118 }))
      (fun t => t.turn.next == 0x10C) = true := by
  decide +kernel

/-- The section of `base` has eight bytes: its last word, the address after it, and one that is no word's. -/
theorem wit_jr :
    let s := withRegs [(1, base.codeOf.2.2 - 4), (2, base.codeOf.2.2), (3, 1), (4, 2 ^ 64 - 1)]
    (s.reg 1).toNat % 4 = 0 ∧ (s.reg 1).toNat < s.codeOf.2.2 ∧ (s.reg 2).toNat % 4 = 0 ∧ s.codeOf.2.2 ≤ (s.reg 2).toNat
      ∧ (s.reg 3).toNat % 4 ≠ 0 ∧ (s.reg 4).toNat % 4 ≠ 0 := by
  decide +kernel

/-! ### CSRs -/

theorem wit_csr :
    base.turn.agent = .scalar 0 ∧ (0x052 : BitVec 12).toNat = 0x052 ∧ csrListed 0 = true ∧ csrListed 0x052 = true
      ∧ csrListed 6 = false ∧ csrListed 0x053 = false ∧ csrListed 0xFFF = false ∧ base.hart.pendCsr = []
      ∧ fwBase.turn.agent = .firmware 0 ∧ fwBase.hart.pendCsr = [] ∧ coreLoft 0 = false := by
  decide +kernel

/-- R44: a TVEC write keeps its low bits clear; R51: FWSHARE takes 64 at most. -/
theorem test_csrw :
    ((base.noteCsr 0 0x203).landCsr.task 0).hart.tvec = 0x200 ∧ ((fwBase.noteCsr 0x034 127).landCsr.core 0).fwN = 64 := by
  decide +kernel

/-! ### Addresses -/

theorem wit_gaddr :
    let s := withRegs [(1, 2 ^ 32 - 1), (2, 2 ^ 32), (3, 2 ^ 25 - 1), (4, 2 ^ 25)]
    (2 : BitVec 5).toNat ≤ 2 ∧ (s.reg 1).toNat < 2 ^ 32 ∧ 2 ^ 32 ≤ (s.reg 2).toNat ∧ (s.reg 3).toNat < 2 ^ 25
      ∧ 2 ^ 25 ≤ (s.reg 4).toNat := by
  decide +kernel

/-- Pair 0's quad holds the scratchpads 0 to 3. -/
theorem wit_spcast :
    let s := withRegs [(1, 2 ^ 60 + 3 * 2 ^ 40 + (2 ^ 25 - 1)), (2, 2 ^ 60 + 4 * 2 ^ 40), (3, 2 * 2 ^ 60 + 3 * 2 ^ 40), (4, 2 * 2 ^ 60 + 4 * 2 ^ 40)]
    (s.reg 1).toNat = 2 ^ 60 + 3 * 2 ^ 40 + (2 ^ 25 - 1) ∧ 3 / 4 = s.myPair % 128 / 4
      ∧ (s.reg 2).toNat = 2 ^ 60 + 4 * 2 ^ 40 + 0 ∧ 4 / 4 ≠ s.myPair % 128 / 4
      ∧ (s.reg 3).toNat = 2 * 2 ^ 60 + 3 * 2 ^ 40 + 0 := by
  decide +kernel
theorem wit_spcast_other : ∀ tag off, tag < 128 → off < 2 ^ 25 → ((withRegs [(1, 0)]).reg 1).toNat ≠ 2 ^ 60 + tag * 2 ^ 40 + off := by
  have h : ((withRegs [(1, 0)]).reg 1).toNat = 0 := by decide +kernel
  intro tag off _ _; rw [h]; omega
theorem wit_spcast_no_pad : ∀ tag off, tag < 4 → off < 2 ^ 25 → ((withRegs [(1, 2 * 2 ^ 60 + 4 * 2 ^ 40)]).reg 1).toNat ≠ 2 * 2 ^ 60 + tag * 2 ^ 40 + off := by
  have h : ((withRegs [(1, 2 * 2 ^ 60 + 4 * 2 ^ 40)]).reg 1).toNat = 2 * 2 ^ 60 + 4 * 2 ^ 40 := by decide +kernel
  intro tag off _ _; rw [h]; omega

/-! ### Objects -/

/-- Handle 255 names object 9 of the task's context: protected, mode 2, version `ver`; weight object 65535 is mapped for the
context. `s1` names the handle, `s2` the weight object, `s3` handle 0, `s4` a private address. -/
def objState (ver : Nat) (prot : Bool) : State :=
  let o : ObjDesc := ⟨9, 3, 4096, 1, prot, 0, 2, true, true⟩
  let s := withTask fun t => { t with
    objs := [(255, o)],
    hart := { t.hart with rf := ⟨[(1, BitVec.ofNat 64 (8 * 2 ^ 60 + 255 * 2 ^ 52)), (2, BitVec.ofNat 64 (4 * 2 ^ 60 + 65535 * 2 ^ 44 + 5)),
      (3, BitVec.ofNat 64 (8 * 2 ^ 60))], [], 0⟩ } }
  let c := (s.task 0).ctx
  let s := s.setCtx c { s.ctx c with objs := [(9, ⟨o, ver, 0, 0⟩)] }
  { s with wobjs := [(65535, ⟨1, 0, 0, 0, 0, 4096, 0, BitVec.allOnes 128, 0⟩)] }

theorem wit_objsz :
    let s := objState 7 true
    s.guard 15 = true ∧ windowOf (s.reg 1) = some (.glob 255 0) ∧ (tfind s.view.objs 255).isSome = true
      ∧ windowOf (s.reg 3) = some (.glob 0 0) ∧ tfind s.view.objs 0 = none
      ∧ windowOf (s.reg 2) = some (.weight 65535 5) ∧ s.inFirmware = false ∧ (s.wobj 65535).st = 1
      ∧ (s.wobj 65535).rd.getLsbD s.view.ctx = true ∧ windowOf (s.reg 4) = some (.priv 0) := by
  decide +kernel
theorem wit_objsz_unmapped : ¬(base.inFirmware = false ∧ (base.wobj 65535).st = 1 ∧ (base.wobj 65535).rd.getLsbD base.view.ctx = true) := by
  decide +kernel

theorem wit_objver (v : Nat) (p : Bool) (hv : v = 7 ∨ v = 0xFFFFFFFF) :
    let s := objState v p
    s.guard 15 = true ∧ windowOf (s.reg 1) = some (.glob 255 0) ∧ tfind s.view.objs 255 = some ⟨9, 3, 4096, 1, p, 0, 2, true, true⟩
      ∧ s.objectBusy s.me s.view.objs s.view.ctx 9 = false
      ∧ tfind (s.ctx s.view.ctx).objs 9 = some ⟨⟨9, 3, 4096, 1, p, 0, 2, true, true⟩, v, 0, 0⟩ := by
  rcases hv with rfl | rfl <;> cases p <;> decide +kernel

/-- A write of the task to the object is under way in the side log. -/
theorem wit_objver_busy :
    let s := objState 7 true
    let t := s.setCore 0 { s.core 0 with sidelog := [⟨s.view.ctx, 0, 9, 0, 0, [], ⟨0, none, none, 0, 0⟩, none, none, false, 0, []⟩] }
    t.objectBusy t.me t.view.objs t.view.ctx 9 = true := by
  decide +kernel

/-! ## Tokens, engines, banks, tasks -/

theorem wit_twait :
    let s := base.setTurn { base.turn with toks := [(62, ⟨1, 0⟩)] }
    let t := s.setTask 0 { s.task 0 with toks := [(62, ⟨1, 1⟩)] }
    fwBase.inFirmware = true ∧ s.inFirmware = false ∧ (62 : BitVec 6) ≠ 63
      ∧ tokReached ((s.task s.me).tok 62).c (tget Tok.init s.turn.toks 62).g = false
      ∧ tokReached ((t.task t.me).tok 62).c (tget Tok.init t.turn.toks 62).g = true := by
  decide +kernel

theorem wit_tclr :
    let s := withTask fun t => { t with toks := [(62, ⟨1, 0⟩)], prods := [⟨⟨62, 1⟩, false, none⟩] }
    s.inFirmware = false ∧ (s.task s.me).tokenIdle 62 = false ∧ (s.task s.me).tokenIdle 0 = true
      ∧ tsorted (s.task s.me).toks = true := by
  decide +kernel

/-- Sections of 12, 24 and 8 bytes; the matrix engine is the task's; `s1` is 0, `s2` 12, `s3` a scratchpad line, `s4` 1. -/
def engState (queued : Nat) : State :=
  let q : Eng := ⟨List.replicate queued Block.blank, none, 0⟩
  let s := withTask fun t => { t with
    vec := q, mat := q, xfer := q,
    hart := { t.hart with rf := ⟨[(2, 12), (3, BitVec.ofNat 64 (2 ^ 60 + 256)), (4, 1), (5, BitVec.ofNat 64 (2 * 2 ^ 60)), (6, 0xFFFFFFFF)], [], 0⟩ } }
  let s := s.setMat 0 { s.mat 0 with bound := some 0 }
  { s with codes := [(0, { CodeObj.blank with sizeS := 8, sizeV := 12, sizeM := 24, sizeX := 8 })] }

theorem wit_starts (q : Nat) (hq : q = 3 ∨ q = 4) :
    let s := engState q
    let t := s.task s.me
    s.inFirmware = false ∧ (s.reg 1).toNat % 12 = 0 ∧ (s.reg 1).toNat < s.sectionSize t.code 1
      ∧ (s.reg 1).toNat + 1 * 12 ≤ s.sectionSize t.code 1 ∧ (s.reg 6).toNat < 2 ^ 32
      ∧ Sys2Proof.Claims.matrixHeld s ∧ (s.reg 1).toNat % 24 = 0 ∧ (s.reg 1).toNat + 1 * 24 ≤ s.sectionSize t.code 2
      ∧ (s.reg 1).toNat % 4 = 0 ∧ (s.reg 1).toNat < s.sectionSize t.code 3
      ∧ (s.reg 3).toNat % 256 = 0 ∧ windowOf (s.reg 3) = some (.pad 0 256) ∧ 0 = s.myPair
      ∧ windowOf (s.reg 5) = some (.quad 0 0) ∧ 0 = s.myPair % 4
      ∧ (if q = 3 then t.vec.queue.length < 4 ∧ t.mat.queue.length < 4 ∧ t.xfer.queue.length < 4
          ∧ (t.produce 63 (some t.serial)).isSome = true ∧ (t.produce 62 (some t.serial)).isSome = true
        else 4 ≤ t.vec.queue.length ∧ 4 ≤ t.mat.queue.length ∧ 4 ≤ t.xfer.queue.length) := by
  rcases hq with rfl | rfl <;> exact ⟨by decide +kernel, by decide +kernel, by decide +kernel, by decide +kernel,
    by decide +kernel, ⟨by decide +kernel, by decide +kernel, by decide +kernel⟩, by decide +kernel⟩

theorem wit_start_traps :
    let s := engState 0
    let u := base
    (s.reg 4).toNat % 12 ≠ 0 ∧ (s.reg 4).toNat % 4 ≠ 0 ∧ (s.reg 4).toNat % 24 ≠ 0 ∧ coreLoft u.myCore = false
      ∧ (u.mat u.myPair).bound ≠ some u.me ∧ (u.task u.me).wantsMat = false ∧ fwBase.inFirmware = true := by
  decide +kernel

theorem wit_lend :
    let s := engState 0
    let t := s.task s.me
    let l := { t with lentSrc := some 3 }
    s.guard 15 = true ∧ Sys2Proof.Claims.matrixHeld s
      ∧ (t.bankInFlight 3 || t.lentSrc == some 3 || t.lentTgt == some 3 || t.lentSrc.isSome) = false
      ∧ (l.bankInFlight 3 || l.lentSrc == some 3 || l.lentTgt == some 3 || l.lentTgt.isSome) = true :=
  ⟨by decide +kernel, ⟨by decide +kernel, by decide +kernel, by decide +kernel⟩, by decide +kernel⟩

theorem wit_reclaim :
    let s := withTask fun t => { t with lentTgt := some 3 }
    let b := { Block.blank with lentTgt := some 3 }
    let u := withTask fun t => { t with lentTgt := some 3, mat := ⟨[b], none, 0⟩ }
    s.inFirmware = false ∧ coreLoft s.myCore = false ∧ (s.task s.me).lentSrc ≠ some 0 ∧ (s.task s.me).lentTgt ≠ some 0
      ∧ (s.task s.me).lentTgt = some 3 ∧ (s.task s.me).bankInUse 3 = false ∧ (u.task u.me).bankInUse 3 = true := by
  decide +kernel

/-- Die 0's store holds 24 MiB with its loft. -/
theorem wit_phase :
    let s := withRegs [(1, 24), (2, 25), (3, 2)]
    let l := s.lsBytes s.myPair / 0x100000
    let t := s.setPair 0 { s.pair 0 with mov := true }
    let u := s.setPair 0 { s.pair 0 with cmib := 24 }
    let v := s.setTask 1 { Task.init with ctx := 5 }
    (s.reg 1).toNat = l ∧ (s.pair s.myPair).mov = false ∧ (s.reg 1).toNat ≠ (s.pair s.myPair).cmib ∧ (s.pair s.myPair).sb = []
      ∧ l < (s.reg 2).toNat ∧ s.otherContextOn s.myPair s.view.ctx = false
      ∧ (t.pair t.myPair).mov = true ∧ (u.reg 1).toNat = (u.pair u.myPair).cmib ∧ v.otherContextOn v.myPair v.view.ctx = true := by
  decide +kernel

/-- A launch, for the fields that a witness does not name. -/
def someLaunch : Launch :=
  { num := 0, ctx := 0, record := recordOf (List.replicate 128 0), handles := [], queue := none, round := 0, root := none,
    ownTasks := false, placed := false, dispatched := 0, exited := 0, trigged := 0, producers := [], model := 0xFF, adpt := 0xFFF,
    addr := 0, objs := [], refs := none, under := none, block := none }

theorem wit_task_words :
    let t := base.task base.me
    let s := { base with launches := [(0, { someLaunch with producers := [1] }), (1, { someLaunch with num := 1 })] }
    let u := withTask fun t => { t with trig := true }
    base.guard 15 = true ∧ fwBase.guard 15 = true ∧ fwBase.inFirmware = true ∧ base.inFirmware = false
      ∧ base.producersDone t.lnum = true ∧ s.producersDone t.lnum = false ∧ t.trig = false ∧ t.trigPend = false
      ∧ (u.task u.me).trig = true := by
  decide +kernel

/-- Handle 1 names object 9 of context 0, 2 MiB at 4 MiB of die 0's memory, with its extent list at 2 MiB; `rf` holds its
address in `s1`. -/
def memState : State :=
  let o : ObjDesc := ⟨9, 0, 2 ^ 21, 2 ^ 21, false, 0, 0, true, true⟩
  let s := withTask fun t => { t with
    objs := [(1, o)], hart := { t.hart with rf := ⟨[(1, BitVec.ofNat 64 (8 * 2 ^ 60 + 2 ^ 52)), (2, 0x8182838485868788)], [], 0⟩ } }
  let s := s.setCtx 0 { s.ctx 0 with nobj := 10, objs := [(9, ⟨o, 0, 0, 0⟩)] }
  let s := s.setDie 0 { s.die 0 with lpReady := 0xFFFF, unlk := false }
  s.putBytes (2 ^ 21) (bytesOf 8 (2 ^ 63 + 2 ^ 22))

/-- A launch record of one task of code object 0: version 1, frame of one page. -/
def launchRecord (version : Nat) : List Byte :=
  bytesOf 4 0 ++ [BitVec.ofNat 8 version, 0, 0, 0] ++ bytesOf 8 0 ++ bytesOf 4 0 ++ bytesOf 4 1 ++ List.replicate 104 0

def launchState (version : Nat) : State := memState.putBytes (2 ^ 22) (launchRecord version)

theorem wit_launch (n : Nat) (hn : n = 1 ∨ n = 2) :
    let s := launchState n
    let x := s.reg 1
    s.guard 15 = true ∧ s.inFirmware = false
      ∧ okIs (s.launchPlace s.view x) (fun p u => p.there && u.allDone u.me
        && okIs (u.release 5) (fun _ v => u.me == s.me
          && okIs (v.readRecord (frontView (v.task s.me).ctx (v.task s.me).objs) x) (fun b v' =>
            okIs (v'.checkRecord (frontView (v.task s.me).ctx (v.task s.me).objs) b 1 fun _ => true) (fun c _ =>
              match c with | .ok _ => n == 1 | .error e => n == 2 && e == (8, 4))))) = true := by
  rcases hn with rfl | rfl <;> decide +kernel

/-! ## Traps and the return from them -/

/-- `base` as a bound task has it: a handler, a frame of one page. -/
def trapBase : State := withTask fun t => { t with hart := { t.hart with tvec := 0x200 }, frame := 4096 }

/-- Its matrix engine in a word, which a trap has to stop first. -/
def busyBase : State := withTask fun t => { t with
  mat := { t.mat with cur := some { Block.blank.begun with pre := some ⟨[], none⟩ } } }

theorem wit_trap_entry :
    let s := trapBase
    let t := s.task 0
    s.turn.agent = .scalar 0 ∧ (0x12 : Nat) ≠ 0x0D ∧ t.raised = [] ∧ (s.ctx t.ctx).st ≠ .halted ∧ tsorted s.tasks = true ∧ s.memWf
      ∧ s.quiet t.ctx = true
      ∧ s.ctxSlots t.ctx = [0] ∧ t.hart.inhdl = false ∧ 512 ≤ t.frame :=
  ⟨by decide +kernel, by decide, by decide +kernel, by decide +kernel, by decide +kernel,
    by show Memory.wf trapBase.mem = true; decide +kernel, by decide +kernel⟩

theorem wit_trap_deferred :
    let s := busyBase
    s.turn.agent = .scalar 0 ∧ (s.task 0).raised = [] ∧ (s.ctx (s.task 0).ctx).st ≠ .halted ∧ tsorted s.tasks = true
      ∧ s.quiet (s.task 0).ctx = false := by
  decide +kernel

theorem wit_trap_memory : busyBase.memWf := by show Memory.wf busyBase.mem = true; decide +kernel

theorem wit_fatal :
    let s := inHandler
    let h := s.setCtx (s.task 0).ctx { s.ctx (s.task 0).ctx with st := .halted }
    s.turn.agent = .scalar 0 ∧ (s.task 0).raised = [] ∧ (s.ctx (s.task 0).ctx).st ≠ .halted ∧ tsorted s.tasks = true
      ∧ s.quiet (s.task 0).ctx = true ∧ s.ctxSlots (s.task 0).ctx = [0] ∧ (s.task 0).hart.inhdl = true ∧ s.events.length < 1024
      ∧ h.turn.agent = .scalar 0 ∧ (h.ctx (h.task 0).ctx).st = .halted ∧ h.events.length < 1024
      ∧ fwBase.turn.agent = .firmware 0 := by
  decide +kernel

theorem wit_eret :
    let f := fwBase.setFw 0 { fwBase.fw 0 with hart := { (fwBase.fw 0).hart with inhdl := true } }
    base.guard 15 = true ∧ base.hart.inhdl = false ∧ f.guard 15 = true ∧ f.turn.agent = .firmware 0 ∧ (f.fw 0).hart.inhdl = true
      ∧ base.inFirmware = false := by
  decide +kernel

/-- The state a trap leaves passes the checks of its records; with the frame's records overwritten it does not; and a block
started in the handler is waited for. -/
theorem wit_eret_task :
    let s := (trapBase.takeTrap 0x12 0).setTurn base.turn
    let b := s.putBytes (frameKey (s.task 0) 3584) (List.replicate 512 0xFF)
    let t := s.task 0
    let w := s.setTask 0 { t with vec := ⟨[{ Block.blank with serial := t.serial, handler := true }], none, 0⟩ }
    s.guard 15 = true ∧ s.turn.agent = .scalar 0 ∧ t.hart.inhdl = true ∧ s.handlerBlocksDone 0 = true ∧ s.badRecord 0 = none
      ∧ t.aside.isSome = true ∧ b.handlerBlocksDone 0 = true ∧ (b.badRecord 0).isSome = true ∧ w.handlerBlocksDone 0 = false := by
  decide +kernel

/-- The same with a vector block running when the trap came: its record is active and names its place. -/
theorem wit_eret_block :
    let s := trapBase.setTask 0 { trapBase.task 0 with vec := ⟨[], some { Block.blank with n := 2 }.begun, 0⟩ }
    let s := { s with codes := [(0, { CodeObj.blank with sizeS := 8, sizeV := 24 })] }
    let t := (s.takeTrap 0x12 0).setTurn base.turn
    t.badRecord 0 = none ∧ t.recordActive 0 448 = true
      ∧ ((t.task 0).aside.bind fun a => a.vec.cur.map fun r => decide (BitVec.ofNat 64 (t.recordField 0 448 8 8) = r.pc)) = some true := by
  decide +kernel

theorem wit_stairwell :
    let s := base.setPair 0 { base.pair 0 with stairOwner := some 5 }
    let o := base.setPair 0 { base.pair 0 with up := [0] }
    let p := base.pair base.myPair
    let c := fwBase.setPair 0 { fwBase.pair 0 with stair := .closed }
    let k := base.setCtx base.view.ctx { base.ctx base.view.ctx with stairs := [(0, ([0], [1]))] }
    (p.stair = .opened ∧ (base.die base.myDie).loft = true ∧ (p.stairOwner = none ∨ p.stairOwner = some base.view.ctx))
      ∧ tfind (base.ctx base.view.ctx).stairs base.myPair = none
      ∧ tfind (k.ctx k.view.ctx).stairs k.myPair = some ([0], [1]) ∧ (k.pair k.myPair).stair = .opened
      ∧ (k.die k.myDie).loft = true ∧ (k.pair k.myPair).stairOwner = none
      ∧ ¬((s.pair s.myPair).stair = .opened ∧ (s.die s.myDie).loft = true
        ∧ ((s.pair s.myPair).stairOwner = none ∨ (s.pair s.myPair).stairOwner = some s.view.ctx))
      ∧ p.up = [] ∧ p.down = [] ∧ base.myCore < 256 ∧ (o.pair o.myPair).up ≠ [] ∧ base.inFirmware = false
      ∧ fwBase.inFirmware = true ∧ fwBase.myPair = 0 ∧ (fwBase.pair 0).stair = .opened ∧ (fwBase.pair 0).stair ≠ .closed
      ∧ (c.pair c.myPair).stair = .closed ∧ (c.pair c.myPair).stair ≠ .opened := by
  decide +kernel

/-- R133: BRK's code is the trap's value; R326: the handler runs at TVEC.BASE × 4. -/
theorem test_brk :
    nextIs (exec (.brk 0x3FF 15) trapBase) (fun t =>
      (t.task 0).hart.tval == 0x3FF && (t.task 0).hart.tcause == 0x12 && (t.task 0).hart.pc == 0x200) = true := by
  decide +kernel

/-! ## Memory -/

/-- `memState` with an address in `s1` and the local store of pair 0 owned by context 0. -/
def at_ (a : Nat) : State :=
  let s := memState
  let t := s.task 0
  let s := s.setTask 0 { t with hart := { t.hart with rf := ⟨[(1, BitVec.ofNat 64 a), (2, 0x8182838485868788)], [], 0⟩ } }
  s.setPair 0 { s.pair 0 with owner := some 0 }

/-- Generic addresses: of handle 1 and of pair 0's scratchpad. -/
def globAt (off : Nat) : Nat := 8 * 2 ^ 60 + 2 ^ 52 + off
def padAt (off : Nat) : Nat := 2 ^ 60 + off

theorem at_no_diversion (a p : Nat) (e : BitVec 16) : (at_ a).diversion p e = none := by
  have hp : memState.pairs = [] := by decide +kernel
  have : ((at_ a).pair p).diversions = [] := by
    simp only [at_, State.setPair, State.setTask, State.pair, hp, tget, tput, tfind]
    split <;> rfl
  simp [State.diversion, this]

theorem at_settled (a : Nat) : Sys2Proof.Claims.Settled (at_ a) := by
  have hm : memState.chans = [] := by decide +kernel
  have hq : memState.queued = [] := by decide +kernel
  have hc : (at_ a).chans = [] := by simp only [at_, State.setPair, State.setTask]; exact hm
  exact ⟨fun c h => (by rw [hc] at h; cases h), by simp only [at_, State.setPair, State.setTask]; exact hq,
    fun p => at_no_diversion a p _⟩

/-- A state with the same messages, store queues and pairs as a settled one is settled. -/
theorem settled_of {s t : State} (h1 : t.chans = s.chans) (h2 : t.queued = s.queued) (h3 : t.pairs = s.pairs)
    (h : Sys2Proof.Claims.Settled s) : Sys2Proof.Claims.Settled t := by
  refine ⟨fun c hc => h.sent c (h1 ▸ hc), h2.trans h.queued, fun p => ?_⟩
  have e : t.pair p = s.pair p := by unfold State.pair; rw [h3]
  unfold State.diversion; rw [e]; exact h.here p

theorem wit_windows :
    windowOf (BitVec.ofNat 64 (padAt (2 ^ 25 - 1))) = some (.pad 0 (2 ^ 25 - 1)) ∧ windowOf (BitVec.ofNat 64 (padAt (2 ^ 25))) = none
      ∧ windowOf (BitVec.ofNat 64 (2 ^ 32 - 1)) = some (.priv (2 ^ 32 - 1)) ∧ windowOf (BitVec.ofNat 64 (2 ^ 32)) = none
      ∧ windowOf (BitVec.ofNat 64 (2 ^ 64 - 1)) = none ∧ windowOf (BitVec.ofNat 64 (3 * 2 ^ 60)) = none
      ∧ windowOf (BitVec.ofNat 64 (9 * 2 ^ 60 - 1)) = some (.glob 255 (2 ^ 52 - 1)) := by
  decide +kernel

/-- The frame of one page, the store, another pair's, the quad's. -/
theorem wit_access_store :
    let s := at_ 0
    let v := s.view
    v.firmware = false ∧ v.frameSize = 4096 ∧ windowOf 4088 = some (.priv 4088) ∧ 4088 + 8 ≤ v.frameSize ∧ v.frameSize < 4096 + 8
      ∧ (s.die v.die).st = .online ∧ 0 = v.pair ∧ 1 ≠ v.pair ∧ s.moving 0 0 8 = false ∧ (0x1800000 - 8) + 8 ≤ s.padLimit 0
      ∧ s.padLimit 0 < 0x1800000 + 8 ∧ s.admits 0 v.ctx = true ∧ memState.admits 0 v.ctx = false ∧ (s.die (0 / 16)).st = .online
      ∧ s.diverted 0 = none ∧ windowOf (BitVec.ofNat 64 (2 * 2 ^ 60)) = some (.quad 0 0) := by
  decide +kernel

theorem wit_access_weight :
    let s := objState 7 true
    let v := s.view
    (s.wobj 65535).st = 1 ∧ (s.wobj 65535).rd.getLsbD v.ctx = true ∧ ¬((base.wobj 0).st = 1 ∧ (base.wobj 0).rd.getLsbD v.ctx = true)
      ∧ (s.wobj 65535).size < 4096 + 1 ∧ 4095 + 1 ≤ (s.wobj 65535).size := by
  decide +kernel

/-- The object that handle 1 names in `memState`, its last eight bytes, and the bytes after it; without rights; protected with
no key; in an extent that is not present, is malformed, lies in host memory, or at a die that is not online. -/
theorem wit_access_glob :
    let s := at_ (globAt (2 ^ 21 - 8))
    let v := s.view
    let o : ObjDesc := ⟨9, 0, 2 ^ 21, 2 ^ 21, false, 0, 0, true, true⟩
    windowOf (s.reg 1) = some (.glob 1 (2 ^ 21 - 8)) ∧ tfind v.objs 1 = some o ∧ tfind v.objs 0 = none
      ∧ (2 ^ 21 - 8) + 8 ≤ o.size ∧ o.size < 2 ^ 21 - 7 + 8
      ∧ s.keyOf { o with prot := true } v.ctx = none
      ∧ (let e := extentOf (s.findExtent v o 0).1
         e.present = true ∧ e.ok = true ∧ e.host = false ∧ (s.die e.die).st = .online
           ∧ s.channelBusy e.die (e.base + (2 ^ 21 - 8)) = false ∧ s.channelUp e.die (e.base + (2 ^ 21 - 8)) = true)
      ∧ (extentOf ((s.putBytes (2 ^ 21) (bytesOf 8 0)).findExtent v o 0).1).present = false
      ∧ (let e := extentOf ((s.putBytes (2 ^ 21) (bytesOf 8 (2 ^ 63 + 1))).findExtent v o 0).1
         e.present = true ∧ e.ok = false)
      ∧ (let e := extentOf ((s.putBytes (2 ^ 21) (bytesOf 8 (2 ^ 63 + 2 ^ 60))).findExtent v o 0).1
         e.present = true ∧ e.ok = true ∧ e.host = true)
      ∧ (let e := extentOf ((s.putBytes (2 ^ 21) (bytesOf 8 (2 ^ 63 + 7 * 2 ^ 57))).findExtent v o 0).1
         e.present = true ∧ e.ok = true ∧ e.host = false ∧ (s.die e.die).st ≠ .online) := by
  decide +kernel

/-- Loads, stores and atomics at the last eight bytes of the object and of the local store. -/
theorem wit_load_store (a : Nat) (ha : a = globAt (2 ^ 21 - 8) ∨ a = padAt (0x1800000 - 8) ∨ a = 4088) :
    let s := at_ a
    let v := s.view
    okIs (s.place v (s.reg 1) ⟨8, 8, true, true, false, 31⟩) (fun p t =>
      (t.readWait v p).isNone && !t.poisoned p.key 8 && p.there && (t.writeWait p).isNone
        && (match p.obj with | none => true | some o => !o.prot && !t.extentParked v o (extOf p.off))
        && (p.home != .lpddr 1) && (t.sendNow v.die p.home 0).isSome
        && okIs (s.release 5) (fun _ r => okIs (r.place v (r.reg 1) ⟨8, 8, true, true, false, 31⟩) fun q u => q == p && u == t))
      = true ∧ s.slips.contains s.turn.agent = false ∧ s.inFirmware = false ∧ tsorted (s.pair s.myPair).cache = true := by
  rcases ha with rfl | rfl | rfl <;> decide +kernel

theorem wit_memory_form : (at_ (globAt 0)).memWf := by show Memory.wf (at_ (globAt 0)).mem = true; decide +kernel

theorem settled_slips (s : State) (l : List Agent) (h : Sys2Proof.Claims.Settled s) : Sys2Proof.Claims.Settled { s with slips := l } :=
  ⟨h.sent, h.queued, h.here⟩

/-- A store of an agent whose stores wait in its queue. -/
theorem wit_store_slips :
    let s := { at_ (globAt 0) with slips := [(at_ (globAt 0)).turn.agent] }
    okIs (s.place s.view (s.reg 1) ⟨8, 8, false, true, false, 31⟩) (fun p t => p.there && (t.writeWait p).isNone && p.home == .lpddr 0
        && (p.obj.all fun o => !o.prot && !t.extentParked s.view o (extOf p.off)) && s.view.posts == some 2 && s.view.die == 0) = true
      ∧ s.slips.contains s.turn.agent = true ∧ s.memWf :=
  ⟨by decide +kernel, by decide +kernel, by show Memory.wf (at_ (globAt 0)).mem = true; decide +kernel⟩
theorem wit_store_slips_settled : Sys2Proof.Claims.Settled { at_ (globAt 0) with slips := [(at_ (globAt 0)).turn.agent] } :=
  settled_slips (at_ (globAt 0)) _ (at_settled _)

/-- A load that waits and one of data that cannot be corrected. -/
theorem wit_load_stops :
    let s := (at_ (globAt 0)).putBytes (2 ^ 21) (bytesOf 8 0)
    let t := { at_ (globAt 0) with poison := [(2 ^ 22 / 128, true)] }
    let w : Want := ⟨8, 8, true, false, false, 31⟩
    okIs (s.place s.view (s.reg 1) w) (fun p t => (t.readWait s.view p).isSome) = true
      ∧ okIs (t.place t.view (t.reg 1) w) (fun p u => (u.readWait t.view p).isNone && u.poisoned p.key p.n) = true := by
  decide +kernel

/-- Stores that park: to an extent that is not present, behind a parked one, and with the log full; one that waits for an empty
line of the store. -/
theorem wit_store_parks :
    let s := (at_ (globAt 0)).putBytes (2 ^ 21) (bytesOf 8 0)
    let e : SideEnt := ⟨0, 0, 9, 0, 0, [], ⟨0, none, none, 0, 0⟩, none, none, false, 0, []⟩
    let b := (at_ (globAt 0)).setCore 0 { (at_ (globAt 0)).core 0 with sidelog := List.replicate 256 e }
    let w : Want := ⟨8, 8, false, true, false, 31⟩
    let l := (at_ (padAt 0)).setPair 0 { (at_ (padAt 0)).pair 0 with empty := [(0, true)] }
    okIs (s.place s.view (s.reg 1) w) (fun p t => p.obj.isSome && !p.there
        && decide ((s.core s.view.core).sidelog.length < 256) && (t.writeWait p).isNone) = true
      ∧ okIs (b.place b.view (b.reg 1) w) (fun p t => p.there && t.extentParked b.view ⟨9, 0, 2 ^ 21, 2 ^ 21, false, 0, 0, true, true⟩ 0
        && decide (256 ≤ (b.core b.view.core).sidelog.length)) = true
      ∧ okIs (l.place l.view (l.reg 1) w) (fun p t => p.there && (t.writeWait p).isSome) = true := by
  decide +kernel

/-- A store whose home is die 1, plain and release: its modules are trained and it is online. -/
theorem wit_store_remote :
    let s := (at_ (globAt 0)).putBytes (2 ^ 21) (bytesOf 8 (2 ^ 63 + 2 ^ 57 + 2 ^ 22))
    let s := s.setDie 0 { s.die 0 with modules := 15 }
    let s := s.setDie 1 { s.die 1 with st := .online, modules := 15, lpReady := 0xFFFF }
    let v := s.view
    okIs (s.place v (s.reg 1) ⟨8, 8, false, true, false, 31⟩) (fun p t => p.home == .lpddr 1 && v.die != 1 && v.posts == some 2 && v.cached
      && !t.cacheable v p && decide (t.unackedOn ⟨2, v.die, 1⟩ < 4096) && (t.takePermit v.die 1 2).isSome
      && (p.obj.all fun o => !o.prot && !t.extentParked v o (extOf p.off)) && p.there && (t.writeWait p).isNone
      && decide (t.unackedOn ⟨3, v.die, 1⟩ < 4096) && ((t.flushLine v p).takePermit v.die 1 3).isSome
      && ((t.flushLine v p).pair v.pair).cache.all (fun e => e.1 != p.key / 128)
      && okIs (s.release 5) (fun _ r => okIs (r.place v (r.reg 1) ⟨8, 8, false, true, false, 31⟩) fun q u => q == p && u == t)) = true := by
  decide +kernel

/-- The channel to die 1 with 4,096 messages that are not acknowledged. -/
theorem wit_store_full :
    let s := (at_ (globAt 0)).putBytes (2 ^ 21) (bytesOf 8 (2 ^ 63 + 2 ^ 57 + 2 ^ 22))
    let s := s.setDie 1 { s.die 1 with st := .online, modules := 15, lpReady := 0xFFFF }
    let s := { s with chans := [⟨⟨2, 0, 1⟩, 4096, 4096, List.replicate 4096 ⟨0, 0, [], ⟨0, none, none, 0, 0⟩⟩, 4096⟩] }
    okIs (s.place s.view (s.reg 1) ⟨8, 8, false, true, false, 31⟩) (fun p t => p.home == .lpddr 1
        && decide (4096 ≤ t.unackedOn ⟨2, s.view.die, 1⟩)) = true
      ∧ (s.chans.all fun c => (c.unacked.drop c.applied).isEmpty) = true ∧ s.queued = [] := by
  decide +kernel

/-- R232: bytes lie least significant first. -/
theorem test_store_order :
    nextIs (exec (.stD 2 1 0) (at_ (padAt 0))) (fun t => t.getByte (keyLs 0 0) == 0x88 && t.getByte (keyLs 0 7) == 0x81) = true := by
  decide +kernel

/-- R237: LD.B extends by sign and LD.BU by zero. -/
theorem test_load_sign :
    let s := (at_ 0).putBytes (frameKey ((at_ 0).task 0) 0) [0x80]
    nextIs (exec (.ldB 3 1 0) s) (fun t => (t.task 0).hart.rf.settle.read 3 == 0xFFFFFFFFFFFFFF80)
      && nextIs (exec (.ldBu 3 1 0) s) (fun t => (t.task 0).hart.rf.settle.read 3 == 0x80) = true := by
  decide +kernel

/-- R238: AMO.ADD.W wraps at 32 bits and gives the old value by sign. -/
theorem test_atomic_wrap :
    let s := (at_ (padAt 0)).putBytes (keyLs 0 0) (List.replicate 5 0xFF)
    nextIs (exec (.amoAddW 3 1 2 2) s) (fun t =>
      t.getNat (keyLs 0 0) 5 == 0xFF85868787 && (t.task 0).hart.rf.settle.read 3 == 0xFFFFFFFFFFFFFFFF) = true := by
  decide +kernel

/-! ### Fences and barriers -/

theorem wit_fences :
    let s := base.setTask 0 { base.task 0 with wbusy := 1 }
    let b := { base with chans := [⟨⟨2, 0, 1⟩, 1, 0, [⟨0, 0, [], ⟨0, none, none, 0, 0⟩⟩], 0⟩] }
    let q := fun (s : State) => s.performWhere fun x => x.owed.slot == s.me && x.eng == agentEng s.turn.agent
    base.inFirmware = false ∧ tsorted (base.pair base.myPair).cache = true
      ∧ (q base).releasePending base.me (agentEng base.turn.agent) 8 = false ∧ 0 < (s.task s.me).wbusy
      ∧ (q b).releasePending b.me (agentEng b.turn.agent) 8 = true := by
  decide +kernel

/-- Operands of BAR: N = 1 and N = 2 of channel 0 and 15, none with N = 0 or bit 36 or bit 24 set, and an episode of another N. -/
theorem wit_bar :
    let s := withRegs [(1, 1), (2, 2 + 15 * 2 ^ 32), (3, 0), (4, 2 ^ 36 + 1), (5, 2 ^ 24 + 1)]
    let b := s.barChan 4 (barInstance 4 s.myPair) s.view.ctx 0
    let t := s.setBar { b with n := 3, arrived := 1 }
    (s.reg 1).toNat % 2 ^ 24 = 1 ∧ (s.reg 2).toNat % 2 ^ 24 = 2 ∧ (s.reg 2).toNat < 2 ^ 36 ∧ (s.reg 3).toNat % 2 ^ 24 = 0
      ∧ 2 ^ 36 ≤ (s.reg 4).toNat ∧ (s.reg 5).toNat / 2 ^ 24 % 2 ^ 8 ≠ 0 ∧ b.arrived = 0 ∧ fwBase.inFirmware = true
      ∧ 0 < (t.barChan 4 (barInstance 4 s.myPair) s.view.ctx 0).arrived ∧ (t.barChan 4 (barInstance 4 s.myPair) s.view.ctx 0).n ≠ 1
      ∧ okIs (s.release 4) (fun _ _ => true) = true := by
  decide +kernel

/-- Transaction barriers in pair 0's store: with nothing expected, complete at this arrival, with its byte count at the limit. -/
def txState (x n : Nat) : State :=
  let s := at_ (padAt 0x100 + 1)
  let t := s.task 0
  (s.setTask 0 { t with hart := { t.hart with rf := ⟨[(1, BitVec.ofNat 64 (padAt 0x100 + 1)), (2, BitVec.ofNat 64 n)], [], 0⟩ } }).putBytes
    (keyLs 0 0x100) (bytesOf 16 x)

theorem wit_tx (x n : Nat) (h : (x = 0 ∧ n = 0) ∨ (x = 1 ∧ n = 2 ^ 24 - 1) ∨ (x = 2 ^ 127 + 2 ^ 16 + 1 ∧ n = 2 ^ 24)) :
    let s := txState x n
    let a := s.reg 1 &&& ~~~1
    s.guard 15 = true ∧ s.inFirmware = false
      ∧ okIs (s.place s.view a ⟨16, 16, true, true, false, 6⟩) (fun p t => (t.readWait s.view p).isNone && !t.poisoned p.key 16
        && p.obj.isNone && !t.releasePending s.me (agentEng s.turn.agent) 3
        && ((txBarOf (t.getNat p.key 16)).expa == 0) == (x == 0)) = true
      ∧ tsorted (s.pair s.view.pair).cache = true ∧ (s.pair s.view.pair).cache = [] := by
  rcases h with ⟨rfl, rfl⟩ | ⟨rfl, rfl⟩ | ⟨rfl, rfl⟩ <;> decide +kernel

/-- The same with a store of the task's to another die applied and not acknowledged: the arrival comes later. -/
theorem wit_tx_later :
    let s := { txState 1 0 with chans := [⟨⟨2, 0, 1⟩, 1, 1, [⟨0, 0, [], ⟨0, none, none, 0, 0⟩⟩], 1⟩] }
    okIs (s.place s.view (s.reg 1 &&& ~~~1) ⟨16, 16, true, true, false, 6⟩) (fun p t => (t.readWait s.view p).isNone
        && !t.poisoned p.key 16 && (txBarOf (t.getNat p.key 16)).expa != 0
        && t.chans.any fun c => c.unacked.any fun m => m.owed.slot == s.me) = true
      ∧ (s.chans.all fun c => (c.unacked.drop c.applied).isEmpty) = true ∧ s.queued = [] := by
  decide +kernel

/-- TXWAIT: the phase named has passed, it has not, and nothing is expected yet. -/
theorem wit_txwait (x : Nat) (h : x = 2 ^ 16 + 1 ∨ x = 2 ^ 127 + 1 ∨ x = 0) :
    let s := txState x 0
    okIs (s.place s.view (s.reg 1 &&& ~~~1) ⟨16, 16, true, false, false, 6⟩) (fun p t => (t.readWait s.view p).isNone
        && !t.poisoned p.key 16 && p.obj.isNone) = true
      ∧ ((txBarOf x).ph ≠ (s.reg 1).getLsbD 0 ∧ (txBarOf x).expa ≠ 0 ↔ x = 2 ^ 16 + 1) := by
  rcases h with rfl | rfl | rfl <;> exact ⟨by decide +kernel, by decide +kernel⟩

/-- R250: the one arrival expected completes its phase. -/
theorem test_tx_phase :
    nextIs (exec (.txarr 1 2 15) (txState 1 0)) (fun t => t.getNat (keyLs 0 0x100) 16 == 2 ^ 127 + 1) = true := by
  decide +kernel

/-! ## Transfers -/

/-- The transfer stream of slot 0 in a block, with `x` registers: `x1` a scratchpad line, `x2` the object, and as given. -/
def xferState (l : List (Nat × Nat)) : State :=
  let s := at_ 0
  let t := s.task 0
  let regs : Tbl Word := ([(1, padAt 0x1000), (2, globAt 0)] ++ l).map fun (e : Nat × Nat) => (e.1, BitVec.ofNat 64 e.2)
  let s := s.setTask 0 { t with xfer := ⟨[], some Block.blank.begun, 0⟩, xrf := ⟨regs, [], 0⟩ }
  s.setTurn { Turn.init with agent := .transfer 0, next := 4 }

/-- The word: `a` = `x1`, `b` = `x2`, parameter as given. -/
def xferWord (par : Nat) : TWord := ⟨⟨63, 63, 63, 63⟩, 1, 2, BitVec.ofNat 16 par⟩

/-- A tensor map: elements of two bytes, 64 in dimension 0 and 2 in dimension 1, strides of 128 and 256, not a ring; or a
destination ring of 256 bytes. -/
def tensorBytes (ring : Bool) : List Byte :=
  [1, 1, 2, 0] ++ bytesOf 4 (if ring then 256 else 0) ++ bytesOf 4 64 ++ bytesOf 4 2 ++ bytesOf 4 1 ++ bytesOf 4 1 ++ bytesOf 4 128
    ++ List.replicate 8 0 ++ bytesOf 4 (if ring then 0 else 256) ++ List.replicate 24 0

/-- Every premise of a transfer that goes in flight. -/
def flies (u : State) (kind : XferKind) (dst src : Word) (len : Nat) (bar : Option Word) : Bool :=
  let runs := (runsOf kind dst src len).filter fun r => r.n != 0
  let v := u.view
  runs != [] && !overlapping runs && okIs (u.barrierRef bar) fun _ t1 =>
    okIs (Res.collect runs t1 (fun r s => s.checkRange v r.src r.n ⟨1, 1, true, false, true, 31⟩)) fun sp t2 =>
      okIs (Res.collect runs t2 (fun r s => s.checkRange v r.dst r.n ⟨1, 1, false, true, true, 31⟩)) fun dp t3 =>
        sp.flatten.all (·.there) && (t3.busyDest dp.flatten).isNone && !t3.scoreboardFull sp.flatten dp.flatten
          && (dp.flatten.all fun q => match q.obj with | none => true | some o => !o.prot)

/-- A transfer word is ready in a state, and `f` holds of where it stands. -/
def readyIs (s : State) (w : TWord) (f : State → Bool) : Bool :=
  okIs (s.preamble w.tok) fun p t => (t.unmet p).isNone && f t

theorem wit_copy :
    let w := xferWord (3 * 2 ^ 11)
    let x := fun (t : State) => t.reg 3
    readyIs (xferState [(3, 128)]) w (fun t => decide ((x t).toNat < 2 ^ 32) && flies t .copy (t.reg 1) (t.reg 2) 128 none) = true
      ∧ readyIs (xferState [(3, 2 ^ 32)]) w (fun t => decide (2 ^ 32 ≤ (x t).toNat)) = true
      ∧ readyIs (xferState [(3, 512)]) w (fun t => flies t .copy (t.reg 1) (t.reg 2) 512 none) = true
      ∧ readyIs (xferState [(3, 0)]) w (fun t => runsOf .copy (t.reg 1) (t.reg 2) 0 == []) = true := by
  decide +kernel

theorem wit_copy_overlap :
    readyIs (xferState [(3, 128), (4, padAt 0x1040)]) ⟨⟨63, 63, 63, 63⟩, 1, 4, 3 * 2 ^ 11⟩ (fun t =>
      overlapping (runsOf .copy (t.reg 1) (t.reg 4) 128)) = true := by
  decide +kernel

theorem wit_copy_absent :
    let s := (xferState [(3, 128)]).putBytes (2 ^ 21) (bytesOf 8 0)
    readyIs s (xferWord (3 * 2 ^ 11)) (fun t =>
      okIs (Res.collect [⟨t.reg 1, t.reg 2, 128⟩] t (fun (r : XRun) s => s.checkRange t.view r.src r.n ⟨1, 1, true, false, true, 31⟩))
        fun sp _ => (sp.flatten.find? fun q => !q.there).isSome) = true := by
  decide +kernel

/-- An earlier transfer over the destination's last byte. -/
theorem wit_copy_waits :
    let s := xferState [(3, 128)]
    let s := s.setPair 0 { s.pair 0 with sb := [⟨9, 0x107F, 0x1080⟩] }
    readyIs s (xferWord (3 * 2 ^ 11)) (fun t =>
      okIs (t.checkRange t.view (t.reg 2) 128 ⟨1, 1, true, false, true, 31⟩) fun sp t2 =>
        okIs (t2.checkRange t.view (t.reg 1) 128 ⟨1, 1, false, true, true, 31⟩) fun dp t3 =>
          sp.all (·.there) && (t3.busyDest dp).isSome) = true := by
  decide +kernel

/-- A scoreboard with an entry in every place has no room for a destination in its pair's store. -/
theorem wit_scoreboard_full (off : Nat) :
    let s := xferState [(3, 128)]
    let u := s.setPair 0 { s.pair 0 with sb := List.replicate scoreboardSize ⟨9, 0x8000, 0x8080⟩ }
    u.scoreboardFull [] [⟨0, 128, keyLs 0 off, .store 0 off, none, 0, off, true⟩] = true := by
  have hd : ∀ (s : State) (l : List SbEnt), (s.pair 0).diversions = [] →
      (s.setPair 0 { s.pair 0 with sb := l }).diverted 0 = none ∧ ((s.setPair 0 { s.pair 0 with sb := l }).pair 0).sb = l := by
    intro s l h
    have e : (s.setPair 0 { s.pair 0 with sb := l }).pair 0 = { s.pair 0 with sb := l } := by simp
    exact ⟨by simp [State.diverted, State.diversion, h], by rw [e]⟩
  have hp : ((xferState [(3, 128)]).pair 0).diversions = [] := by decide +kernel
  have k := hd (xferState [(3, 128)]) (List.replicate scoreboardSize ⟨9, 0x8000, 0x8080⟩) hp
  simp [State.scoreboardFull, storeRanges, k.1]

/-- REDC in 16 bits and 32 bits, aligned and not. -/
theorem wit_redc :
    let s := xferState [(3, 128), (4, padAt 0x1001)]
    readyIs s (xferWord (3 * 2 ^ 11 + 1 * 4 + 2)) (fun t => (t.reg 1).toNat % 2 == 0 && (t.reg 2).toNat % 2 == 0
      && flies t (.reduce 2 1) (t.reg 1) (t.reg 2) 128 none) = true
      ∧ (xferWord (3 * 2 ^ 11 + 11 * 4)).bits 5 2 = 0xB ∧ (s.reg 4).toNat % 4 ≠ 0 := by
  decide +kernel

theorem wit_copyt :
    let s := (xferState [(3, padAt 0x2000)]).putBytes (keyLs 0 0x2000) (tensorBytes false)
    let r := (xferState [(3, padAt 0x2000), (4, 255)]).putBytes (keyLs 0 0x2000) (tensorBytes true)
    readyIs s (xferWord (3 * 2 ^ 11)) (fun t => okIs (t.readMap false (t.reg 3)) fun m u =>
        flies u (.tensor m.esz m.box m.ss m.ds) (t.reg 1) (t.reg 2) (m.esz * m.box.foldl (· * ·) 1) none) = true
      ∧ readyIs r (xferWord (3 * 2 ^ 11 + 4 * 2)) (fun t => okIs (t.readMap true (t.reg 3)) fun m u =>
        let base := if m.srcRing then t.reg 2 else t.reg 1
        base.toNat % 128 == 0 && decide ((t.reg 4).toNat < m.rsize)
          && flies u (.ring m.esz m.box m.ss m.ds m.srcRing m.rsize (t.reg 4).toNat) (t.reg 1) (t.reg 2)
            (m.esz * m.box.foldl (· * ·) 1) none) = true
      ∧ readyIs (r.setTask 0 { r.task 0 with xrf := ⟨tput (r.task 0).xrf.vals 4 256, [], 0⟩ }) (xferWord (3 * 2 ^ 11 + 4 * 2)) (fun t =>
        okIs (t.readMap true (t.reg 3)) fun m _ => decide (m.rsize ≤ (t.reg 4).toNat)) = true
      ∧ (r.reg 4).toNat % 128 ≠ 0 := by
  decide +kernel

/-- Rows of 128 bytes at indices 3 and −0; and shapes that trap: no bytes, too many rows, too many bytes. -/
theorem wit_gath :
    let s := (xferState [(3, 128 + 2 * 2 ^ 32), (4, padAt 0x2000), (5, 2 ^ 32), (6, 1 + (2 ^ 24 + 1) * 2 ^ 32), (7, 256 + 2 ^ 24 * 2 ^ 32)]).putBytes
      (keyLs 0 0x2000) (bytesOf 4 3)
    readyIs s (xferWord (3 * 2 ^ 11 + 4 * 2)) (fun t => okIs (t.readIndices (t.reg 4) 2) fun idx u =>
        idx == [3, 0] && flies u (.gather 128 idx) (t.reg 1) (t.reg 2) 256 none
          && flies u (.scatter 128 idx) (t.reg 1) (t.reg 2) 256 none) = true
      ∧ (s.reg 5).toNat % 2 ^ 32 = 0 ∧ 2 ^ 24 < (s.reg 6).toNat / 2 ^ 32
      ∧ 2 ^ 32 ≤ (s.reg 7).toNat / 2 ^ 32 * ((s.reg 7).toNat % 2 ^ 32) := by
  decide +kernel

theorem wit_ratom :
    let s := xferState [(3, 7)]
    let w : TWord := ⟨⟨63, 63, 63, 63⟩, 1, 3, 4 * 2 ^ 11 + 64 + 5 * 4⟩
    readyIs s w (fun t => okIs (t.place t.view (t.reg 1) ⟨8, 8, true, true, true, 31⟩) fun q u =>
      (u.readWait u.view q).isNone && !u.poisoned q.key 8 && q.obj.isNone && (u.busyDest [q]).isNone && !u.scoreboardFull [] [q]
        && okIs (u.afterStream.release (w.bits 5 2)) fun _ _ => true) = true := by
  decide +kernel

theorem wit_bpref :
    let s := xferState [(3, 128)]
    let w : TWord := ⟨⟨63, 63, 63, 63⟩, 2, 3, 0⟩
    readyIs s w (fun t => windowOf (t.reg 2) == some (.glob 1 0) && decide ((t.reg 3).toNat < 2 ^ 32) && t.reg 3 != 0 && t.reg 4 == 0
      && okIs (t.checkRange t.view (t.reg 2) 128 ⟨1, 1, true, false, true, 16⟩) fun _ _ => true) = true
      ∧ windowOf (s.reg 1) = some (.pad 0 0x1000) := by
  decide +kernel

/-- Weight object 0 on die 0, writable for the context, and 64 bytes of source. -/
theorem wit_wprog :
    let s := xferState [(3, 4 * 2 ^ 60 + 64)]
    let s := { s with wobjs := [(0, ⟨1, 0, 0, 0, 0, 4096, 0, BitVec.allOnes 128, BitVec.allOnes 128⟩)] }
    let w : TWord := ⟨⟨63, 63, 63, 63⟩, 3, 1, 0⟩
    readyIs s w (fun t => windowOf (t.reg 3) == some (.weight 0 64) && (t.reg 3).toNat % 64 == 0 && okIs (t.place t.view (t.reg 1) ⟨64, 64, true, false, true, 23⟩) fun q u =>
      okIs (u.place u.view (t.reg 3) ⟨64, 64, true, false, true, 8⟩) fun _ z => okIs (z.readPlace z.view q) fun _ _ => true) = true := by
  decide +kernel

theorem wit_xend :
    let s := xferState []
    s.turn.agent = .transfer 0 ∧ ((s.task 0).xfer.cur.map fun r => r.blk.prod.isNone) = some true ∧ (s.task 0).prods = []
      ∧ base.inTransferStream = false := by
  decide +kernel

/-- A transfer of 128 bytes from the object to the store, and the same with every piece landed. -/
def flying (done : Bool) : State :=
  let x : Xfer := ⟨4, 0, 0, 0, .copy, BitVec.ofNat 64 (padAt 0x1000), BitVec.ofNat 64 (globAt 0), 128, 0, ⟨0, none, none, 0, 0⟩, [(0, 0)],
    if done then [(0, true)] else [], false, 3⟩
  { at_ 0 with xfers := [x] }

theorem settled_xfers (s : State) (l : List Xfer) (h : Sys2Proof.Claims.Settled s) : Sys2Proof.Claims.Settled { s with xfers := l } :=
  ⟨h.sent, h.queued, h.here⟩

theorem flying_settled (d : Bool) : Sys2Proof.Claims.Settled (flying d) := by
  unfold flying; exact settled_xfers (at_ 0) _ (at_settled 0)

theorem wit_landing :
    let s := flying false
    let v := s.issuerView 0 0 0
    (match s.xfers.find? (fun x => x.id == 4) with
    | none => false
    | some x => (match x.pieces[0]? with
      | none => false
      | some r => !x.failed && !tget false x.landed 0 && !x.overtaken 0 r && !x.kind.isReduce && x.kind != .prefetch && x.bar == 0 && decide (0 < r.n)
        && decide (r.src.toNat % 128 + r.n ≤ 128)
        && okIs (s.place v r.src ⟨r.n, 1, true, false, true, 31⟩) (fun sp t => (t.readWait v sp).isNone && !t.poisoned sp.key r.n
          && (sp.obj.map (·.prot)) == some false
          && okIs ((t.flushLine v sp).place v r.dst ⟨r.n, 1, false, true, true, 31⟩) fun dp _ => dp.there && dp.obj.isNone))) = true := by
  decide +kernel

theorem wit_landing_form : (flying false).memWf := by show Memory.wf (flying false).mem = true; decide +kernel

theorem wit_landing_here (d : Bool) (x : Xfer) (mine : Nat) (a : Word) : (flying d).divertedAt x mine a = none := by
  have g : ∀ (s : State) (l : List Xfer) p e, State.diversion { s with xfers := l } p e = s.diversion p e := fun _ _ _ _ => rfl
  have h : ∀ p e, (flying d).diversion p e = none := fun p e => by unfold flying; rw [g]; exact at_no_diversion 0 p e
  unfold State.divertedAt
  split
  · rfl
  · split
    · rfl
    · simp [h]

/-- The store's owner is absent: its section takes the piece. -/
theorem wit_diverted :
    let s := flying false
    let s := s.setPair 0 { s.pair 0 with diversions := [⟨0, 5, 2 ^ 30⟩] }
    let s := s.setCtx 5 { Ctx.init with saved := [⟨0, 2 ^ 30, true, 0, [], [], [], [], [], [], []⟩] }
    let v := s.issuerView 0 0 0
    (match s.xfers.find? (fun x => x.id == 4) with
    | none => false
    | some x => (s.divertedAt x v.pair (BitVec.ofNat 64 (padAt 0x1000))) == some (5, 0, 0x1000)
      && okIs (s.landRead x v (BitVec.ofNat 64 (globAt 0)) 128) (fun d t => !d.2
        && t.divertedAt x v.pair (BitVec.ofNat 64 (padAt 0x1000)) == some (5, 0, 0x1000)
        && ((t.section 5 0).any fun c => decide (c.log.length < 26214)))) = true := by
  decide +kernel

theorem wit_retire :
    let s := flying true
    (match s.xfers.find? (fun x => x.id == 4) with
    | none => false
    | some x => x.done && x.kind != .prefetch && s.bound x.slot && (s.task x.slot).ctx == x.ctx && (s.task x.slot).lnum == x.lnum) = true := by
  decide +kernel

/-- A remote AMO.ADD of 8 to the last doubleword of the store. -/
theorem wit_response :
    let r : Request := ⟨6, 0, 0, 1, true, BitVec.ofNat 64 (padAt (0x1800000 - 8)), 8, 31, 0, ⟨0, none, none, 0, 0⟩⟩
    let s := { at_ 0 with requests := [r] }
    let v := s.issuerView 0 0 r.owed.lnum
    s.bound 0 = true ∧ (s.task 0).ctx = 0 ∧ (s.task 0).lnum = r.owed.lnum ∧ r.op ≤ 8 ∧ tsorted (s.task 0).xrf.vals = true
      ∧ (s.requests.find? (fun r => r.id == 6)) = some r
      ∧ okIs (s.place v r.addr ⟨8, 8, true, true, true, 31⟩) (fun q t => (t.readWait v q).isNone && (t.writeWait q).isNone
        && !t.poisoned q.key 8 && q.obj.isNone) = true := by
  decide +kernel
theorem wit_response_here (p : Nat) (l : List Request) : ({ at_ 0 with requests := l } : State).diversion p 0 = none := by
  have g : ∀ (s : State), State.diversion { s with requests := l } p 0 = s.diversion p 0 := fun _ => rfl
  rw [g]; exact at_no_diversion 0 p 0

/-- R260: COPY's first piece lands its bytes. -/
theorem test_copy_lands :
    let s := (flying false).putBytes (2 ^ 22) [1, 2, 3]
    nextIs (exec (.transferLanding 4 0) s) (fun t => t.getNat (keyLs 0 0x1000) 4 == 0x030201) = true := by
  decide +kernel

/-! ## Vector words -/

/-- The vector engine of slot 0 in a block whose registers are `s1` = a scratchpad line and `s2` = 7; the stairwell of pair 0 is
enabled at both ends, with `v` waiting for its floor core. -/
def vecState (inbound : List VecReg) : State :=
  let s := at_ 0
  let t := s.task 0
  let b : Block := { Block.blank with n := 1, sregs := [(1, BitVec.ofNat 64 (padAt 0x4000)), (2, 7)] }
  let s := s.setTask 0 { t with banks := 4, vec := ⟨[], some b.begun, 0⟩, v := [(3, 9 + 5 * 2 ^ 32)] }
  let s := (s.setCore 0 { s.core 0 with en := true }).setCore 1 { s.core 1 with en := true }
  let s := s.setPair 0 { s.pair 0 with down := inbound, stairOwner := some 0 }
  s.setTurn { Turn.init with agent := .vector 0, next := 12 }

/-- A descriptor: of kind `k` with a register and a low field. -/
def desc (k r low : Nat) : BitVec 18 := BitVec.ofNat 18 (k * 2 ^ 16 + r * 2 ^ 11 + low)

def vword (f : Nat) (d a b : BitVec 18) : VWord := ⟨0, BitVec.ofNat 4 f, 15, ⟨63, 63, 63, 63⟩, d, a, b⟩

/-- The premises of `VecOpen`, and what else holds of the state the word goes on from. -/
def vecIs (s : State) (w : VWord) (regs : List Nat) (f : Pre → State → Bool) : Bool :=
  okIs (s.preamble w.tok) fun p t => (t.unmet p).isNone && !t.blk.scb && t.regPoison == [] && t.blk.bad == [] && f p t
    && regs.all fun n => (t.task t.me).lentSrc != some (n / 8) && (t.task t.me).lentTgt != some (n / 8) && decide (n / 8 < (t.task t.me).banks)

theorem wit_vector_registers :
    vecIs (vecState []) (vword 11 (desc 0 31 0) (desc 0 3 1) (desc 3 2 0)) [31, 3] (fun _ _ => true) = true
      ∧ dKind (desc 0 31 0) = 0 ∧ dKind (desc 3 2 0) = 3 := by
  decide +kernel

/-- A and D in memory: 128 lanes of 32 bits at stride 4, and at stride 0. -/
theorem wit_vector_memory :
    let w := vword 11 (desc 0 1 0) (desc 1 1 1) (desc 0 3 0)
    let v := vword 11 (desc 1 1 1) (desc 0 3 0) (desc 0 3 0)
    vecIs (vecState []) w [1, 3] (fun _ t => okIs (t.placeElems w.a w.f (lanesOf w.f) (t.lanesOn w (lanesOf w.f)) none true false) fun l u =>
      l.length == 128 && okIs (u.readElems w.f l) fun _ _ => true) = true
      ∧ vecIs (vecState []) v [3] (fun p t => okIs (t.placeElems v.d v.f (lanesOf v.f) (t.lanesOn v (lanesOf v.f)) none false true) fun l u =>
        l.length == 128 && (l.all fun x => x.2.2.obj.isNone)
          && okIs (u.storeAll u.view (u.owedWord p) (elemStores v.f ⟨BitVec.allOnes 4096, 7, 0⟩ l)) fun _ _ => true) = true
      ∧ dKind w.a = 1 ∧ dKind v.d = 1 := by
  decide +kernel

theorem wit_vector_stairwell :
    let w := vword 11 (desc 0 1 0) (desc 2 0 0) (desc 0 3 0)
    let v := vword 11 (desc 2 0 0) (desc 0 3 0) (desc 0 3 0)
    vecIs (vecState [5]) w [1, 3] (fun _ t => okIs (t.stairCheck true) (fun _ u => u == t) && t.inbound t.myCore == [5]) = true
      ∧ vecIs (vecState []) v [3] (fun _ t => okIs (t.stairCheck false) (fun _ u => u == t)) = true
      ∧ dKind w.a = 2 ∧ dKind v.d = 2 := by
  decide +kernel

/-- VCVT from 32 to 16 bits and back, and VQUANT, each at its last part. -/
theorem wit_vector_convert :
    let c := vword 1 (desc 0 1 0) (desc 0 3 0) (desc 3 0 (1 * 32))
    let d := vword 0 (desc 0 1 0) (desc 0 3 0) (desc 3 0 (1 * 32 + 1))
    let q := vword 12 (desc 0 1 0) (desc 0 3 0) (desc 0 4 (3 * 16))
    lanesOf (vcvtSrc c) < lanesOf c.f ∧ vcvtPart c * Min.min (lanesOf (vcvtSrc c)) (lanesOf c.f) + Min.min (lanesOf (vcvtSrc c)) (lanesOf c.f) ≤ lanesOf c.f
      ∧ ¬lanesOf (vcvtSrc d) < lanesOf d.f
      ∧ vcvtPart d * Min.min (lanesOf (vcvtSrc d)) (lanesOf d.f) + Min.min (lanesOf (vcvtSrc d)) (lanesOf d.f) ≤ lanesOf (vcvtSrc d)
      ∧ vqPart q * lanesOf (vqPlain q) + lanesOf (vqPlain q) ≤ lanesOf q.f
      ∧ vecIs (vecState []) c [3, 1] (fun _ _ => true) = true ∧ vecIs (vecState []) q [3, 4, 1] (fun _ _ => true) = true := by
  decide +kernel

/-- VGATH and VSCAT of 128 elements at the indices of `v3`. -/
theorem wit_vector_gather :
    let w := vword 11 (desc 0 1 0) (desc 1 1 1) (desc 0 3 0)
    let v := vword 11 (desc 1 1 1) (desc 0 4 0) (desc 0 3 0)
    vecIs (vecState []) w [3, 1] (fun _ t => okIs (t.placeElems w.a w.f 128 (t.lanesOn w 128) (some (t.regLanes w.b 11)) true false) fun l u =>
      l.length == 128 && okIs (u.readElems w.f l) fun _ _ => true) = true
      ∧ vecIs (vecState []) v [4, 3] (fun p t => okIs (t.placeElems v.d v.f 128 (t.lanesOn v 128) (some (t.regLanes v.b 11)) false true) fun l u =>
        okIs (u.storeAll u.view (u.owedWord p) (elemStores v.f ⟨BitVec.allOnes 4096, 7, 0⟩ l)) fun _ _ => true) = true := by
  decide +kernel

/-- VSYNC with no store parked and with one of its engine's. -/
theorem wit_vsync :
    let s := vecState []
    let b := s.setCore 0 { s.core 0 with sidelog := [⟨0, 1, 9, 0, 0, [], ⟨0, none, none, 0, 0⟩, none, none, false, 0, []⟩] }
    okIs (s.preamble ⟨63, 63, 63, 63⟩) (fun p t => (t.unmet p).isNone) = true
      ∧ okIs (b.preamble ⟨63, 63, 63, 63⟩) (fun p t => (t.unmet p).isNone) = true := by
  decide +kernel

/-- VCMP, VSEL, VPERM, VBCAST, VSCAN, VIOTA, VINS, VEXT, VMASKW and VFCNT: registers, and scalars where the word takes them. -/
theorem wit_vector_others :
    let r := vword 11 (desc 0 1 0) (desc 0 3 1) (desc 0 4 0)
    let k := vword 11 (desc 0 1 0) (desc 3 2 0) (desc 3 2 1)
    vecIs (vecState []) r [1, 3, 4] (fun _ _ => true) = true ∧ vecIs (vecState []) k [1] (fun _ _ => true) = true
      ∧ vecIs (vecState []) { k with mask := 15 } [] (fun _ _ => true) = true
      ∧ (dKind r.a = 0 ∧ dKind r.b = 0 ∧ dKind r.d = 0 ∧ dKind k.a = 3 ∧ dKind k.b = 3) ∧ dLow r.b = 0 ∧ dLow r.a = 1 := by
  decide +kernel

theorem wit_lane_sign : (11 : Nat) ≠ 7 ∧ 2 ^ 32 - 1 < 2 ^ fmtWidth 11 ∧ fltOf 11 = none := by decide
theorem wit_reduce : dLow (desc 0 0 1) = 1 ∧ dKind (desc 3 5 0) = 3 ∧ dKind (desc 0 5 0) = 0 := by decide

/-- 03 R95: with a rotation of 1, lane 0 is lane 1 of the register: 5 + 7. -/
theorem test_vadd :
    let s := vecState []
    let w := vword 11 (desc 0 1 0) (desc 0 3 1) (desc 3 2 0)
    nextIs (exec (.vadd w) s) (fun t => ((t.task 0).pendV.map fun e => laneAt 32 0 e.val) == [12]) = true := by
  decide +kernel

/-! ## Matrix words -/

/-- The matrix engine of slot 0 in a nest of one point whose generators stand at a scratchpad line; `f` changes the engine. -/
def matState (f : Matrix → Matrix) (hres : Bool) (handler : Bool) : State :=
  let s := at_ 0
  let t := s.task 0
  let b : Block := { Block.blank with n := 4, handler := handler }
  let s := s.setTask 0 { t with
    accr := 1024, mat := ⟨[], some b.begun, 0⟩, hart := { t.hart with hres := hres, inhdl := handler } }
  let g : NestRec := ⟨List.replicate 4 (BitVec.ofNat 64 (padAt 0x8000)), List.replicate 6 1, List.replicate 6 (List.replicate 4 0), 7, 7, false⟩
  let s := s.setMat 0 (f { s.mat 0 with bound := some 0, act := some g })
  { s with
    turn := { Turn.init with agent := .matrix 0, next := 24 }, codes := [(0, { CodeObj.blank with sizeM := 96 })] }

/-- Weights of format 7 that were latched from nothing, for column 3. -/
def latched (m : Matrix) : Matrix := { m with latched := some ⟨7, zeroMarker, 0, 3, false, 1⟩ }

/-- A word with no tokens: formats, generators, rows and flags as given. -/
def mword (afmt agen start rows wgen wfmt kb adp flags ogen ofmt : Nat) : MWord :=
  ⟨0, ⟨63, 63, 63, 63⟩, 15, BitVec.ofNat 4 afmt, BitVec.ofNat 3 agen, 0, BitVec.ofNat 10 rows, BitVec.ofNat 10 start, BitVec.ofNat 3 wgen,
    0, BitVec.ofNat 4 wfmt, BitVec.ofNat 8 kb, BitVec.ofNat 12 adp, 0, BitVec.ofNat 8 flags, BitVec.ofNat 3 ogen, 0, BitVec.ofNat 4 ofmt, 0, 0⟩

/-- The premises of `MatOpen`, and what else holds of the state the word goes on from. -/
def matIs (s : State) (w : MWord) (f : Pre → State → Bool) : Bool :=
  okIs (s.preamble w.tok) fun p t => (t.unmet p).isNone && t.regPoison == [] && t.guard w.guard
    && (!(t.task t.me).hart.inhdl || (t.task t.me).hart.hres) && (!t.myMat.reload || t.myMat.latched.isNone) && t.firstRow == 0
    && (t.running.all fun r => r.kb.isNone) && f p t

/-- `RowsOpen`, as a test. -/
def rowsIs (t : State) (w : MWord) : Bool :=
  (t.blk.handler && decide (960 ≤ w.start.toNat))
    || (!t.blk.handler && decide (w.start.toNat + w.rows.toNat + 1 ≤ (t.task t.me).accr)
      && (!(t.task t.me).hart.hres || decide (w.start.toNat + w.rows.toNat + 1 ≤ 960)))

theorem rows_open (t : State) (w : MWord) (h : rowsIs t w = true) : Sys2Proof.Claims.RowsOpen t w := by
  simp only [rowsIs, Bool.or_eq_true, Bool.and_eq_true, decide_eq_true_eq, Bool.not_eq_true'] at h
  rcases h with ⟨a, b⟩ | ⟨⟨a, b⟩, c⟩
  · exact .inl ⟨a, b⟩
  · refine .inr ⟨a, b, fun e => ?_⟩
    rcases c with c | c
    · rw [e] at c; cases c
    · exact c

/-- The rows at the bounds: to 1023 without the reserve, to 959 and from 960 with it. -/
theorem wit_rows :
    matIs (matState id false false) (mword 0 0 1022 1 0 0 0 0 0 0 0) (fun _ t => rowsIs t (mword 0 0 1022 1 0 0 0 0 0 0 0)
        && tsorted t.myMat.acc) = true
      ∧ matIs (matState id true false) (mword 0 0 959 0 0 0 0 0 0 0 0) (fun _ t => rowsIs t (mword 0 0 959 0 0 0 0 0 0 0 0)) = true
      ∧ matIs (matState id true true) (mword 0 0 960 63 0 0 0 0 0 0 0) (fun _ t => rowsIs t (mword 0 0 960 63 0 0 0 0 0 0 0)) = true := by
  decide +kernel

theorem wit_matrix_guard :
    okIs ((matState id false false).preamble ⟨63, 63, 63, 63⟩) (fun p t => (t.unmet p).isNone && t.regPoison == [] && !t.guard 0) = true := by
  decide +kernel

/-- WLD of a tile of zeros and of one in the store. -/
theorem wit_wld (g : Nat) (hg : g = 7 ∨ g = 0) :
    let w := mword 0 0 0 0 g 7 255 0 0 0 0
    matIs (matState id false false) w (fun _ t => decide (w.kb.toNat + t.idxN ≤ 255)
      && okIs (t.operand w.wgen w.woff t.blk.lentSrc (if w.woff.toNat * 64 < 4096 then 0 else 1)) fun src u => okIs (u.readTile w.wfmt.toNat src) fun _ _ => true) = true := by
  rcases hg with rfl | rfl <;> decide +kernel
theorem wit_wld_column :
    let s := matState (fun m => { m with act := m.act.map fun a => { a with nlev := 0 } }) false false
    let s := s.setTask 0 { s.task 0 with mat := { (s.task 0).mat with cur := (s.task 0).mat.cur.map fun r => { r with idx := [1, 0, 0, 0, 0, 0] } } }
    matIs s (mword 0 0 0 0 7 7 255 0 0 0 0) (fun _ t => decide (255 < 255 + t.idxN)) = true := by
  decide +kernel

/-- ASTEP and ASTEPA of one row: UINT8 by UINT8, from the store. -/
def stepWord (adp : Nat) : MWord := mword 7 0 1022 0 0 0 255 adp 0x80 0 0

/-- The row goes on from what it holds. -/
def goesOn (t : State) (w : MWord) : Bool :=
  let r := t.myMat.row w.start.toNat
  !r.closed && !r.poison && (r.kind == 0 || r.kind == kindInt)

theorem wit_astep :
    let w := stepWord 0xFFF
    matIs (matState latched false false) w (fun _ t => w.bscale == (fmtIsScaled 7 || fmtIsScaled 7) && decide (w.kb.toNat + t.idxK ≤ 255)
      && rowsIs t w && goesOn t w
      && okIs (t.operand w.agen w.aoff t.blk.lentSrc (operandBytes 7 1)) fun src u => okIs (u.aligned src winRows 64) fun _ v =>
        okIs (v.checkPieces src winRows true false ((rangeFrom 0 1).flatMap fun m => actPieces 7 1 m w.trans)) fun _ y =>
          okIs (readRows 0 1 y (fun m s => s.actRow src 7 1 m w.trans)) fun xs _ => xs.all fun x => x.2.bad.isNone) = true := by
  decide +kernel

/-- The adapter of slot 5 is installed for context 0, with its factors in object 9. -/
def adapterState : State :=
  let s := matState latched false false
  { s with adapters := [(5, ⟨2, 0, 0, 0xFF, 0, 0, 9, 0xFFF, 9, 9, 9, 0, 0, none⟩)] }

theorem wit_astepa :
    let w := mword 7 0 1022 0 0 0 0 5 0x80 0 0
    matIs adapterState w (fun _ t => okIs (t.adapterGate w.adp) fun a t' => t' == t
      && okIs (t.operand w.agen w.aoff t.blk.lentSrc (operandBytes 7 1)) fun src u => okIs (u.aligned src winRows 64) fun _ v =>
        okIs (v.checkPieces src winRows true false ((rangeFrom 0 1).flatMap fun m => actPieces 7 1 m w.trans)) fun _ y =>
          okIs (y.rankData w a (w.kb.toNat + t.idxK) 3) fun d k => d.bad.isNone
            && okIs (readRows 0 1 k (fun m s => s.actRow src 7 1 m w.trans)) fun xs _ => xs.all fun x => x.2.bad.isNone) = true := by
  decide +kernel

theorem wit_astep_none : matIs (matState id false false) (stepWord 0xFFF) (fun _ t => t.myMat.latched.isNone) = true
    ∧ (stepWord 0xFFF).bscale ≠ (fmtIsScaled 12 || fmtIsScaled 7) := by
  decide +kernel

/-- AADD and ASCL of rows from the store, and ARD to the store. -/
theorem wit_row_words :
    let w := mword 0 0 1022 1 0 0 0 0 0x80 0 0
    matIs (matState id false false) w (fun _ t => rowsIs t w
        && okIs (t.rowOperand w 0 2) (fun xs _ => xs.length == 2 && xs.all fun x => x.2.bad.isNone)
        && okIs (t.rowOperand w 0 1) (fun xs _ => xs.length == 1 && xs.all fun x => x.2.bad.isNone)
        && !(t.myMat.row 1022).poison && !(t.myMat.row 1023).poison && (t.myMat.row 1022).kind == 0 && (t.myMat.row 1023).kind == 0
        && tsorted t.myMat.acc) = true := by
  decide +kernel

theorem wit_ard :
    let w := mword 0 0 1023 0 0 0 0 0xFFF 0 0 11
    matIs (matState id false false) w (fun p t => rowsIs t w && w.adp == 0xFFF
      && okIs (t.operand w.ogen w.ooff t.blk.lentTgt (outBytes 11 1)) fun dst u => okIs (u.aligned dst winOut 64) fun _ v =>
        okIs (v.putPieces p dst (some (outPieces 11 0)) ((outPieces 11 0).map fun y => (false, y, List.replicate y.2 0))) fun _ _ => true)
      = true := by
  decide +kernel

theorem wit_mnop :
    let s := matState id false false
    let b := s.setCore 0 { s.core 0 with sidelog := [⟨0, 2, 9, 0, 0, [], ⟨0, none, none, 0, 0⟩, none, none, false, 0, []⟩] }
    matIs s (mword 0 0 0 0 0 0 0 0 0 0 0) (fun _ _ => true) = true ∧ matIs b (mword 0 0 0 0 0 0 0 0 0 0 0) (fun _ _ => true) = true := by
  decide +kernel

/-- A continuation that a stop left in the store. -/
def contState : State :=
  let s := matState id false false
  let r := { Block.blank with n := 4 }.begun
  s.putBytes (keyLs 0 0x8000) (continuation (s.task 0) (s.mat 0) r 1 0 0)

theorem wit_mcont :
    let w := mword 0 0 0 0 0 0 0 0 0 0 0
    matIs contState w (fun _ t => okIs (t.aligned (.mem (t.agen 0)) winCont 128) fun _ v =>
      okIs (v.checkPieces (.mem (t.agen 0)) winCont true false (piecesOf 0 128)) fun _ y =>
        okIs (y.pieces (.mem (t.agen 0)) winCont 0 128) fun d z => d.2.isNone && z.running.isSome
          && (match contOf (z.task z.me).ctx (z.sectionSize (z.task z.me).code 2) d.1 with
            | none => false
            | some c => !c.flg.testBit 1)) = true
      ∧ matIs contState (mword 0 4 0 0 0 0 0 0 0 0 0) (fun _ _ => true) = true := by
  decide +kernel

/-- 06 R216: a weight of 3 and an activation of 5, both UINT8, at k = 0 add 15 to column 0. -/
theorem test_astep :
    (stepRow true false false false ((List.range 192).map (weightColumn 7 3 false)) AccRow.init ⟨[numOfInt 5], []⟩ none).1.getD 0 0 = 15 := by
  decide +kernel

/-! ## Commands -/

/-- Queue 0 of context 0, with handle 1 as `memState` has it, a ring of 64 bytes at 0 whose head is at 56, and `c1` the object's
address; `f` changes the queue, and the command in issue stands at 0. -/
def cmdState (f : Queue → Queue) : State :=
  let s := at_ 0
  let x := s.queue 0
  let s := s.setQueue 0 (f { x with
    live := true, st := .running, attr := { x.attr with rsize := 64, ibase := 0x400000 }, head := 56, objs := (s.task 0).objs,
    c := [(1, BitVec.ofNat 64 (globAt 0)), (2, 7)] })
  let s := s.setDie 8 { s.die 8 with st := .online, unlk := false, ptime := 1000 }
  { s with units := 0xFF, power := true, turn := { Turn.init with agent := .queue 0, next := 8 } }

/-- A command word: D, A, B, COND, AUX, IMM. -/
def cword (d a b cond aux imm : Nat) : CWord :=
  ⟨BitVec.ofNat 4 d, BitVec.ofNat 4 a, BitVec.ofNat 4 b, BitVec.ofNat 3 cond, BitVec.ofNat 8 aux, BitVec.ofNat 32 imm⟩

theorem cmd_settled (f : Queue → Queue) : Sys2Proof.Claims.Settled (cmdState f) :=
  settled_of (s := at_ 0) (by simp only [cmdState, State.setDie, State.setQueue])
    (by simp only [cmdState, State.setDie, State.setQueue]) (by simp only [cmdState, State.setDie, State.setQueue]) (at_settled 0)

/-- Conditions met and not, of equal and unequal words. -/
theorem wit_conditions : Sys2Proof.Claims.cond 0 7 7 ∧ ¬Sys2Proof.Claims.cond 1 7 7 ∧ Sys2Proof.Claims.cond 2 (BitVec.allOnes 64) 0
    ∧ ¬Sys2Proof.Claims.cond 3 (BitVec.allOnes 64) 0 ∧ Sys2Proof.Claims.cond 5 7 7 :=
  ⟨rfl, fun h => h rfl, by show (BitVec.allOnes 64).toInt < (0 : BitVec 64).toInt; decide,
    by show ¬((BitVec.allOnes 64).toNat < (0 : BitVec 64).toNat); decide, by show (7 : BitVec 64).toNat ≤ (7 : BitVec 64).toNat; decide⟩

/-- Branches in the ring: back, forward within what is written and beyond it, and past the ring; in a called block. -/
theorem wit_branches :
    let s := cmdState id
    let x := s.queue 0
    let y := cmdState fun x => { x with calls := [8] }
    s.turn.agent = .queue 0 ∧ x.calls = [] ∧ (cword 0 0 0 0 0 (2 ^ 32 - 1)).imm.toInt < 1 ∧ (cword 0 0 0 0 0 7).imm.toInt = 7
      ∧ x.attr.rsize / 8 - 1 = 7 ∧ 8 * 7 ≤ x.written 0 ∧ (cmdState fun x => { x with head := 48 }).turn.agent = .queue 0
      ∧ ((cmdState fun x => { x with head := 48 }).queue 0).written 0 < 8 * 7 ∧ 7 < (cword 0 0 0 0 0 8).imm.toInt.toNat
      ∧ (y.queue 0).calls ≠ [] := by
  decide +kernel

theorem wit_calls :
    let a := cmdState fun x => { x with calls := List.replicate 15 8 }
    let b := cmdState fun x => { x with calls := List.replicate 16 8 }
    (a.queue 0).calls.length < 16 ∧ 16 ≤ (b.queue 0).calls.length ∧ (tget 0 (a.queue 0).c 1).toNat % 8 = 0
      ∧ (tget 0 (a.queue 0).c 1).toNat / 2 ^ 60 = 8 ∧ (tget 0 (a.queue 0).c 2).toNat % 8 ≠ 0 ∧ (tget 0 (a.queue 0).c 0).toNat / 2 ^ 60 ≠ 8 := by
  decide +kernel

theorem wit_loops :
    let e : LoopEnt := ⟨8, 0, 1, 1⟩
    let a := cmdState fun x => { x with calls := [8], loops := List.replicate 7 e }
    let b := cmdState fun x => { x with calls := [8], loops := List.replicate 8 { e with count := 2 } }
    let c := cmdState fun x => { x with calls := [8], loops := [{ e with stop := 16 }] }
    (a.queue 0).calls ≠ [] ∧ tget 0 (a.queue 0).c 2 ≠ 0 ∧ tget 0 (a.queue 0).c 0 = 0 ∧ (a.queue 0).loops.length < 8
      ∧ 8 ≤ (b.queue 0).loops.length ∧ (a.queue 0).loops.head? = some e ∧ e.stop = a.turn.pc ∧ e.count = 1
      ∧ ((b.queue 0).loops.head?.map (·.count)) = some 2 ∧ ((c.queue 0).loops.head?.map (·.stop)) = some 16 ∧ c.turn.pc ≠ 16
      ∧ (cmdState fun x => { x with calls := [8] }).turn.pc = 0 := by
  decide +kernel

/-- Loads, stores and signals at the object's address; at one whose extent is not present. -/
theorem wit_command_memory :
    let s := cmdState id
    let s := s.setDie 0 { s.die 0 with modules := 15 }
    let v := s.queueView 0
    let a := tget 0 (s.queue 0).c 1
    let w : Want := ⟨8, 8, true, true, false, 16⟩
    let z := s.putBytes (2 ^ 21) (bytesOf 8 (2 ^ 63 + 7 * 2 ^ 57))
    okIs (s.place v a w) (fun p t => p.there && okIs (t.place v a w) fun q u => q == p && (u.readWait v p).isNone && (u.writeWait p).isNone
      && !u.poisoned p.key 8 && (u.sendNow v.die p.home 0).isSome
      && (match p.obj with | none => false | some o => !o.prot && !u.extentParked v o (extOf p.off))) = true
      ∧ okIs ((s.putBytes (2 ^ 21) (bytesOf 8 0)).place v a w) (fun p _ => !p.there) = true
      ∧ trapIs (s.place v (tget 0 (s.queue 0).c 2) w) (fun k _ => k != 0x0D) = true
      ∧ trapIs (z.place v a w) (fun k y => k == 0x0D && decide (2 ^ 39 ≤ y.toNat) && z.homeDie v y == some 7) = true
      ∧ okIs (s.cmdRead v a 8) (fun _ t => decide (t.queue 0 = s.queue 0) && decide (t.turn = s.turn)) = true := by
  decide +kernel

theorem wit_timeat :
    let s := cmdState fun x => { x with c := [(1, 1000), (2, 1001)] }
    (s.die 8).unlk = false ∧ (tget 0 (s.queue 0).c 1).toNat ≤ (s.die 8).ptime.toNat
      ∧ (s.die 8).ptime.toNat < (tget 0 (s.queue 0).c 2).toNat := by
  decide +kernel

theorem wit_graph :
    let e : Launch := { someLaunch with record := { someLaunch.record with early := true }, dispatched := 1 }
    let s := { cmdState fun x => { x with since := [0, 1] } with launches := [(0, e)] }
    let t := { cmdState fun x => { x with carried := [0] } with launches := [(0, e)] }
    let u := { cmdState fun x => { x with since := [0] } with launches := [(0, { e with dispatched := 0 })] }
    let b := u.setCtx 0 { u.ctx 0 with coop := true }
    (s.queue 0).carried.filter s.pending = [] ∧ (∀ n ∈ (s.queue 0).since.filter s.pending, s.mayCarry n = true)
      ∧ (s.queue 0).slice.stop = false ∧ (∃ n ∈ (t.queue 0).carried.filter t.pending, t.barred n = false)
      ∧ (∃ n ∈ (u.queue 0).since.filter u.pending, u.mayCarry n = false ∧ u.barred n = false)
      ∧ (b.queue 0).since.filter b.pending = [0] ∧ b.mayCarry 0 = false ∧ b.barred 0 = true := by
  decide +kernel

theorem wit_bind_evict :
    let s := cmdState id
    let k := fun (n : Nat) (o : Nat) => { s with adapters := [(4095, { Adapter.init with st := n, owner := o, refs := 1 })] }
    (s.adapter 4095).st = 0 ∧ ((k 1 0).adapter 4095).st = 1 ∧ ((k 1 0).adapter 4095).owner = (s.queue 0).attr.ctx
      ∧ ((k 1 5).adapter 4095).owner ≠ (s.queue 0).attr.ctx ∧ ((k 2 0).adapter 4095).st = 2 ∧ 0 < ((k 2 0).adapter 4095).refs
      ∧ (((k 2 0).experts 4095).filter fun e => ((k 2 0).adapter e).st == 2) = [] ∧ 2 < ((k 3 0).adapter 4095).st := by
  decide +kernel

/-- A summary's first 128 bytes; the rest go after them in the same way. -/
theorem wit_summary :
    let s := cmdState id
    let x := s.queue 0
    okIs (s.writeSummary (s.queueView 0) (tget 0 x.c 1) (List.replicate 128 1))
      (fun _ t => decide (t.queue 0 = x) && decide (t.turn = s.turn)) = true := by
  decide +kernel

/-- R386: LDI extends its immediate by sign. -/
theorem test_ldi : nextIs (exec (.cmdLdi (cword 3 0 0 0 0 (2 ^ 32 - 1)) []) (cmdState id)) (fun t =>
    tget 0 (t.queue 0).c 3 == BitVec.allOnes 64 && (t.queue 0).pc == 8) = true := by
  decide +kernel

/-! ## Waits, launches, dispatchers -/

/-- Queue 0 waiting in `i` for the reason `k`, at the time `now`. -/
def waitState (i : Instr) (k now : Nat) (f : Queue → Queue) : State :=
  let s := cmdState fun x => f { x with st := .waiting, waitk := k, cur := some ⟨0, 8, i⟩ }
  s.setDie 8 { s.die 8 with ptime := BitVec.ofNat 64 now }

def goAgain (s : State) : State :=
  s.setTurn { Turn.init with agent := .queue 0, pc := 0, wordPc := 0, next := 8 }

theorem over_by {s : State} {q : Nat} {w : CWord} {ps : Nat}
    (h : (w.imm != 0 && decide (((s.queue q).waitStart.toNat + 1000 * w.imm.toNat) * 1000 + ps < (s.die 8).ptime.toNat * 1000)) = true) :
    Sys2Proof.Claims.overBy s q w ps := by
  simp only [Bool.and_eq_true, bne_iff_ne, decide_eq_true_eq] at h; exact h

theorem not_over_by {s : State} {q : Nat} {w : CWord} {ps : Nat}
    (h : (w.imm != 0 && decide (((s.queue q).waitStart.toNat + 1000 * w.imm.toNat) * 1000 + ps < (s.die 8).ptime.toNat * 1000)) = false) :
    ¬Sys2Proof.Claims.overBy s q w ps := by
  intro k
  have : (w.imm != 0 && decide (((s.queue q).waitStart.toNat + 1000 * w.imm.toNat) * 1000 + ps < (s.die 8).ptime.toNat * 1000)) = true := by
    simp only [Bool.and_eq_true, bne_iff_ne, decide_eq_true_eq]; exact k
  rw [h] at this; cases this

/-- A WAIT of one microsecond at its last nanosecond, just past it but within the bound of time, and past both. -/
theorem wit_wait_ends :
    let i := Instr.cmdWait (cword 3 1 2 0 0 1)
    let at_ := fun (n : Nat) =>
      let s := waitState i 1 n id
      s.setDie 8 { s.die 8 with unlk := false, bound := 5000 }
    let s := at_ 1005
    let u := goAgain s
    let l := at_ 1006
    Sys2Proof.Claims.WaitsIn s u 0 i 1
      ∧ okIs (u.cmdRead (u.queueView 0) (tget 0 (s.queue 0).c 1) 8) (fun _ t =>
        decide (t.queue 0 = s.queue 0) && decide (t.turn = u.turn)) = true
      ∧ ¬Sys2Proof.Claims.overBy (at_ 1000) 0 (cword 3 1 2 0 0 1) 0
      ∧ Sys2Proof.Claims.overBy s 0 (cword 3 1 2 0 0 1) 0
      ∧ ¬Sys2Proof.Claims.overBy s 0 (cword 3 1 2 0 0 1) (s.die 8).csrTerr
      ∧ Sys2Proof.Claims.WaitsIn l (goAgain l) 0 i 1 ∧ Sys2Proof.Claims.overBy l 0 (cword 3 1 2 0 0 1) (l.die 8).csrTerr :=
  ⟨⟨by decide +kernel, by decide +kernel, 0, 8, rfl, rfl⟩, by decide +kernel, not_over_by (by decide +kernel),
    over_by (by decide +kernel), not_over_by (by decide +kernel), ⟨by decide +kernel, by decide +kernel, 0, 8, rfl, rfl⟩,
    over_by (by decide +kernel)⟩

theorem wit_timeat_wait :
    let i := Instr.timeat (cword 3 2 0 0 0 0)
    let s := waitState i 2 7 id
    Sys2Proof.Claims.WaitsIn s (goAgain s) 0 i 2 ∧ (s.die 8).unlk = false
      ∧ (tget 0 (s.queue 0).c 2).toNat ≤ (s.die 8).ptime.toNat :=
  ⟨⟨by decide +kernel, by decide +kernel, 0, 8, rfl, rfl⟩, by decide +kernel⟩

/-- An INVOKE that waited for its block, with the block in use still, and free. -/
theorem wit_invoke_wait :
    let i := Instr.invoke (cword 3 0 0 0 0 0) []
    let tk : Taken := ⟨0xFFF, 0xFF, 0, false, none⟩
    let s := waitState i 5 0 fun x => { x with taken := some tk, blocks := [(0, 4)] }
    let t := waitState i 5 0 fun x => { x with taken := some tk }
    Sys2Proof.Claims.WaitsIn s (goAgain s) 0 i 5 ∧ (s.queue 0).taken = some tk
      ∧ (tfind (s.queue 0).blocks (s.queue 0).nextBlk).isSome = true
      ∧ Sys2Proof.Claims.WaitsIn t (goAgain t) 0 i 5 ∧ tfind (t.queue 0).blocks (t.queue 0).nextBlk = none :=
  ⟨⟨by decide +kernel, by decide +kernel, 0, 8, rfl, rfl⟩, by decide +kernel, by decide +kernel,
    ⟨by decide +kernel, by decide +kernel, 0, 8, rfl, rfl⟩, by decide +kernel⟩

/-- A queue at its GANG: T0 passed at its very nanosecond; the guard just passed, with a context of the gang not yet ready; the
limit reached at its very nanosecond; the slice's limit just passed, and that of a slice before the one it waits for. -/
theorem wit_gang_wait :
    let i := Instr.gang (cword 3 0 0 0 0 0)
    let g : GangSlice := ⟨1000, 7, 200, 0, false, false, false, 1⟩
    let a := waitState i 3 1000 fun x => { x with slice := g }
    let b := waitState i 3 3000 fun x => { x with slice := g }
    let b := b.setCtx 0 { b.ctx 0 with gang := 7, stage := .halting }
    let c := waitState i 3 3000 fun x => { x with slice := { g with late := true } }
    let d := waitState i 3 201000 fun x => { x with slice := g }
    let d := d.setCtx 0 { d.ctx 0 with gang := 7, stage := .armed }
    let e := waitState i 3 201001 fun x => { x with slice := { g with opened := true } }
    let f := waitState i 3 201001 fun x => { x with slice := { g with t0 := 2000 }, slices := [g] }
    Sys2Proof.Claims.WaitsIn a (goAgain a) 0 i 3 ∧ 1000 * 1000 + 0 ≤ (a.die 8).ptime.toNat * 1000 ∧ a.gangReady 7 = true
      ∧ Sys2Proof.Claims.WaitsIn b (goAgain b) 0 i 3 ∧ 1000 * 1000 + (2 * g.bound + 2000000) ≤ (b.die 8).ptime.toNat * 1000
      ∧ b.gangReady 7 = false
      ∧ Sys2Proof.Claims.WaitsIn c (goAgain c) 0 i 3 ∧ (c.queue 0).slice.late = true ∧ c.gangReady 7 = true
      ∧ Sys2Proof.Claims.WaitsIn d (goAgain d) 0 i 3 ∧ (d.queue 0).slice.opened = false
      ∧ (d.queue 0).slices = [] ∧ g.t0.toNat * 1000 + 1000000 * g.limit ≤ (d.die 8).ptime.toNat * 1000 ∧ d.gangReady 7 = false
      ∧ (e.queue 0).slice.opened = true ∧ g.t0.toNat + 1000 * g.limit < (e.die 8).ptime.toNat
      ∧ (f.queue 0).slice.opened = false ∧ (f.queue 0).slices = [g] ∧ g.t0.toNat + 1000 * g.limit < (f.die 8).ptime.toNat :=
  ⟨⟨by decide +kernel, by decide +kernel, 0, 8, rfl, rfl⟩, by decide +kernel, by decide +kernel,
    ⟨by decide +kernel, by decide +kernel, 0, 8, rfl, rfl⟩, by decide +kernel, by decide +kernel,
    ⟨by decide +kernel, by decide +kernel, 0, 8, rfl, rfl⟩, by decide +kernel, by decide +kernel,
    ⟨by decide +kernel, by decide +kernel, 0, 8, rfl, rfl⟩, by decide +kernel⟩

/-- LAUNCH of a record in order, and of one of another version; of an address that is not a record's. -/
theorem wit_queue_launch (n : Nat) (hn : n = 1 ∨ n = 2) :
    let s := (cmdState id).putBytes (2 ^ 22) (launchRecord n)
    let v := s.queueView 0
    let x := s.queue 0
    let a := tget 0 x.c 1
    s.turn.agent = .queue 0 ∧ a.toNat % 128 = 0 ∧ (tget 0 x.c 2).toNat % 128 ≠ 0
      ∧ okIs (s.cmdPlace v a ⟨128, 128, true, false, false, 16⟩) (fun _ z => okIs (z.readRecord v a) fun b y =>
        okIs (y.checkRecord v b x.since.length fun _ => true) fun c t => decide (t.queue 0 = x) && decide (t.turn = s.turn)
          && match c with | .ok _ => n == 1 | .error e => n == 2 && e == (8, 4)) = true := by
  rcases hn with rfl | rfl <;> decide +kernel

/-- A launch record whose handle list, one handle, is at the object's second block and names object 9. -/
def entryRecord : List Byte :=
  bytesOf 4 0 ++ [1, 0, 0, 0] ++ bytesOf 8 0 ++ bytesOf 4 0 ++ bytesOf 4 1 ++ List.replicate 24 0
    ++ bytesOf 8 (globAt 128) ++ bytesOf 2 1 ++ List.replicate 70 0

/-- An INVOKE with its references taken, whose block lies in the object that its handle list names. -/
def invokeState : State :=
  let s := (cmdState fun x => { x with attr := { x.attr with ibase := 0x400100 }, taken := some ⟨0xFFF, 0, 1, false, none⟩ }).putBytes
    (2 ^ 22) (entryRecord ++ bytesOf 2 9)
  let m := s.model 0
  s.setModel 0 { m with v0 := { m.v0 with vid := 1, st := 2, entry := BitVec.ofNat 64 (globAt 0) } }

theorem wit_invoke :
    let s := invokeState
    let x := s.queue 0
    let v := s.queueView 0
    let entry := BitVec.ofNat 64 (globAt 0)
    let key := (x.attr.ibase + 128 * x.nextBlk) % 2 ^ 39
    let f := (s.touch x.attr.ctx (key / 2 ^ 36)).putBytes key
      ((List.range 16).flatMap fun i => bytesOf 8 (([] : List Word).getD i 0).toNat)
    s.turn.agent = .queue 0 ∧ x.taken = some ⟨0xFFF, 0, 1, false, none⟩
      ∧ (((s.model 0).findVer 1 [2, 3]).map fun e => ((s.model 0).entry e).entry).getD 0 = entry
      ∧ tfind x.blocks x.nextBlk = none ∧ s.devUp key = true
      ∧ okIs (f.cmdPlace v entry ⟨128, 128, true, false, false, 16⟩) (fun _ z => okIs (z.readRecord v entry) fun b z2 =>
        okIs (z2.checkRecord v b x.since.length fun h => (z2.blockOffset x.attr.ctx key h).isSome) fun c y =>
          decide (y.queue 0 = x) && decide (y.turn = s.turn) && match c with | .ok (_, hs) => hs == [9] | .error _ => false) = true := by
  decide +kernel

theorem wit_invoke_refused :
    let s := cmdState id
    (s.queue 0).taken = none ∧ (s.model ((cword 3 0 0 0 0 0).imm.toNat % 2 ^ 8)).resident = false := by
  decide +kernel

/-- A gang descriptor with package 0, itself, for a member. -/
def gangBytes : List Byte := 1 :: List.replicate 31 0 ++ 1 :: List.replicate 31 0

theorem wit_gang :
    let s := (cmdState fun x => { x with c := [(1, 1000), (2, BitVec.ofNat 64 (globAt 0)), (3, 1001)] }).putBytes (2 ^ 22) gangBytes
    let v := s.queueView 0
    let w := cword 3 1 2 0 0 (7 * 2 ^ 16)
    let x := s.queue 0
    (s.die 8).unlk = false ∧ s.turn.agent = .queue 0
      ∧ okIs (s.cmdPlace v (tget 0 x.c w.b.toNat) ⟨64, 64, true, false, false, 16⟩) (fun p z => okIs (z.readPlace v p) fun b y =>
        decide (y.queue 0 = x) && decide (y.turn = s.turn) && (gangError b).isNone
          && (BitVec.ofNat 256 (fieldAt b 0 32)).getLsbD s.pod.self && decide (y.pod = s.pod)
          && y.pastT0 ⟨1000, 7, 200, 0, false, false, false, 1⟩ 0 && !y.pastT0 ⟨1001, 7, 200, 0, false, false, false, 1⟩ 0
          && y.gangReady 7) = true := by
  decide +kernel

theorem wit_gang_unlocked :
    let s := cmdState id
    ((s.setDie 8 { s.die 8 with unlk := true }).die 8).unlk = true := by
  decide +kernel

theorem wit_admission :
    let l := { someLaunch with queue := some (0, 3) }
    let s := { waitState (.cmdLaunch (cword 3 1 0 0 0 0)) 6 0 id with waiting := [l] }
    s.nextAdmission = some (l, []) ∧ (s.queue 0).cur ≠ none := by
  decide +kernel

/-- A launch of two tasks, placed on die 0 and not, and its record at a slot. -/
def placeState (placed : Bool) : State :=
  let s := cmdState id
  let l := { someLaunch with record := { someLaunch.record with n := 2, early := true }, placed := placed }
  let d := s.die 0
  let s := s.setDie 0 { d with st := .online, ready := true, ranges := if placed then [⟨0, 0, 2⟩] else [] }
  let s := s.setCtx 0 { s.ctx 0 with st := .running }
  { s with launches := [(0, l)], tasks := [], slotRecs := [(3, ⟨1, 0, 0, true, false, false⟩)] }

/-- Ranges that divide a launch of two tasks between two dies, at their meeting point; a record where no firmware is switched. -/
theorem wit_placement :
    let s := placeState false
    let d := s.die 1
    let s := s.setDie 1 { d with st := .online, ready := true }
    let l := { someLaunch with record := { someLaunch.record with n := 2, early := true } }
    tfind s.launches 0 = some l ∧ l.placed = false ∧ l.num = 0 ∧ s.rangesOk l 0 [⟨0, 0, 1⟩, ⟨1, 1, 2⟩] = true ∧ 0 < l.record.n
      ∧ (∀ d < 2, (s.die d).ranges = [])
      ∧ (s.die (slotDie 3)).fwSwitching = false := by
  decide +kernel

theorem wit_bind :
    let s := placeState true
    let l := { someLaunch with record := { someLaunch.record with n := 2, early := true }, placed := true }
    let r : BindRecord := ⟨1, 0, 0, true, false, false⟩
    tfind s.slotRecs 3 = some r ∧ r.valid = true ∧ r.resume = false ∧ s.bound 3 = false ∧ tfind s.launches r.lnum = some l
      ∧ l.num = r.lnum ∧ l.ctx = r.ctx ∧ r.task < l.record.n ∧ l.record.cls = 0 ∧ s.recordRefused l 3 r.task 0 = false
      ∧ s.mayBind l = true ∧ s.recordWaits l 3 = false ∧ l.record.early = true ∧ l.record.lsb = 0 ∧ Memory.wf s.mem = true := by
  decide +kernel

theorem wit_steal :
    let s := placeState true
    let d := s.die 1
    let s := s.setDie 1 { d with st := .online, ready := true, ranges := [], asked := [2, 3, 4, 5, 6, 7] }
    s.dieOpen 1 = true ∧ s.idleFor 1 false = true ∧ nextVictim 1 (s.die 1).asked = some 0 ∧ s.dieUp 0 = true
      ∧ largestRange (s.stealable 0 1 false) = some (⟨0, 0, 2⟩, 2, 1) := by
  decide +kernel

theorem wit_complete :
    let l := { someLaunch with exited := 1 }
    let s := { base with launches := [(0, l)] }
    tfind s.launches 0 = some l ∧ l.num = 0 ∧ l.record.n ≤ l.exited ∧ s.hasAttached 0 = false ∧ l.record.done = 0
      ∧ tsorted s.launches = true := by
  decide +kernel

/-! ## Messages -/

/-- A secured message of function 0, which owns context 0, with every unit ready; `f` changes the state. -/
def msgState (f : State → State) : State :=
  f { cmdState id with fnOf := [(0, 0)], turn := { Turn.init with msg := ⟨0, 5, true, 0⟩ } }

theorem passes_of {s : State} {ctx : Option Nat} {sec : Bool} {unit : Nat}
    (h : (s.units.getLsbD 1 && s.units.getLsbD unit && (s.fn s.turn.msg.fn).flr == 0 && s.turn.msg.sec
      && (match ctx with | none => true | some c => tfind s.fnOf c == some s.turn.msg.fn)) = true) :
    Sys2Proof.Claims.Passes s ctx sec unit := by
  simp only [Bool.and_eq_true, beq_iff_eq] at h
  refine ⟨h.1.1.1.1, h.1.1.1.2, h.1.1.2, fun _ => h.1.2, fun c hc => ?_⟩
  subst hc
  exact ⟨by simpa using h.2, fun _ => h.1.2⟩

/-- Each check fails alone; the loader's and the home's units are the last of the eight. -/
theorem wit_message_checks :
    let s := msgState id
    let down := msgState fun s => { s with units := 0x1D }
    let home := msgState fun s => { s with units := 0xEF }
    let flr := msgState fun s => s.setFn 0 { s.fn 0 with flr := 1 }
    let open_ := msgState fun s => { s with turn := { s.turn with msg := ⟨0, 5, false, 0⟩ } }
    let other := msgState fun s => { s with fnOf := [(0, 3)] }
    Sys2Proof.Claims.Heard down (.ctxDestroy 0) (some 0) false 1 ∧ ¬(down.units.getLsbD 1 = true)
      ∧ Sys2Proof.Claims.Heard home (.adpRead 4095) none false 4 ∧ home.units.getLsbD 1 = true ∧ ¬(home.units.getLsbD 4 = true)
      ∧ Sys2Proof.Claims.Heard flr .timeQuery none false 0 ∧ (s.fn 0).flr = 0 ∧ ¬((flr.fn flr.turn.msg.fn).flr = 0)
      ∧ Sys2Proof.Claims.Heard open_ (.keyErase 7) none true 1 ∧ open_.turn.msg.sec = false ∧ s.turn.msg.sec = true
      ∧ Sys2Proof.Claims.Heard other (.resume 0) (some 0) false 1 ∧ tfind other.fnOf 0 ≠ some other.turn.msg.fn :=
  ⟨.ctxDestroy 0, by decide +kernel, .adpRead 4095, by decide +kernel, by decide +kernel, .timeQuery, by decide +kernel,
    by decide +kernel, .keyErase 7, by decide +kernel, by decide +kernel, .resume 0, by decide +kernel⟩

/-- A table entry of 2 MiB at its bounds of permission and mode. -/
def entBytes : List Byte := bytesOf 8 (2 ^ 52) ++ bytesOf 8 0x200000 ++ bytesOf 2 (2 ^ 15) ++ [2, 3] ++ List.replicate 20 0

theorem wit_contexts :
    let a := msgState fun s => { (s.setCtx 0 Ctx.init) with fns := tput s.fns 0 { s.fn 0 with tdi := 2 } }
    let b := msgState fun s => { s with tasks := [] }
    Sys2Proof.Claims.Passes a (some 0) true 1 ∧ (a.ctx 0).st = .absent ∧ (a.fn 0).tdi = 2 ∧ a.debug ≠ 2
      ∧ Sys2Proof.Claims.Passes a none false 1 ∧ a.turn.msg.fn = 0
      ∧ Sys2Proof.Claims.Passes b (some 0) false 1 ∧ (b.ctx 0).st ≠ .absent ∧ b.ctxSlots 0 = [] :=
  ⟨passes_of (by decide +kernel), by decide +kernel, by decide +kernel, by decide +kernel, passes_of (by decide +kernel),
    by decide +kernel, passes_of (by decide +kernel), by decide +kernel⟩

theorem wit_entry_allowed : Sys2Proof.Claims.entryAllowed entBytes := by
  unfold Sys2Proof.Claims.entryAllowed; decide +kernel

theorem wit_extents :
    let s := msgState id
    let t := msgState fun s => s.setTask 0 { s.task 0 with hold := ⟨.extent, 0, BitVec.ofNat 64 (globAt 0)⟩ }
    let e : SideEnt := ⟨0, 1, 9, 0, BitVec.ofNat 64 (globAt 0), [⟨0, 3, 9⟩], ⟨0, none, none, 0, 0⟩, none, none, false, 0, []⟩
    let u := t.setCore 0 { t.core 0 with sidelog := [e] }
    Sys2Proof.Claims.Passes s (some 0) false 1 ∧ (s.ctx 0).st ≠ .absent ∧ s.entryLoaded 0 5 = false ∧ 5 < (s.ctx 0).nobj
      ∧ (tfind (s.ctx 0).objs 9).isSome = true ∧ s.doomed 0 9 0 = []
      ∧ Sys2Proof.Claims.Passes t (some 0) false 1 ∧ t.doomed 0 9 0 = (t.nextId, 0, 0, 1) :: [] ∧ t.isAbsent 0 = false ∧ t.bound 0 = true
      ∧ (t.ctx 0).st = .running ∧ t.xfersAwaiting 0 9 0 = [] ∧ t.requestsAwaiting 0 9 0 = []
      ∧ u.doomed 0 9 0 = (0, 0, 1, 1) :: [(u.nextId, 0, 0, 1)] :=
  ⟨passes_of (by decide +kernel), by decide +kernel, by decide +kernel, by decide +kernel, by decide +kernel, by decide +kernel,
    passes_of (by decide +kernel), by decide +kernel⟩

/-- Queue attributes at both ends of the ring's size. -/
theorem wit_queues :
    let a : QueueAttr := ⟨0, 7, 64, 64, 256, 0, 0x80⟩
    let b : QueueAttr := ⟨0, 0, 0, 2 ^ 24, 1, 0, 0⟩
    let s := msgState fun s => { s with queues := [] }
    let t := msgState fun s => s.setQueue 0 { s.queue 0 with st := .created, attr := b, live := true }
    let u := msgState fun s => s.setQueue 0 { s.queue 0 with st := .stopped, attr := a, live := true }
    (a.prio ≤ 7 ∧ a.rbase % 64 = 0 ∧ 64 ≤ a.rsize ∧ a.rsize % 64 = 0 ∧ 1 ≤ a.nh ∧ a.nh ≤ 256 ∧ a.ibase % 128 = 0
      ∧ s.devUp (a.hlist % 2 ^ 39) = true)
      ∧ (b.prio ≤ 7 ∧ b.rbase % 64 = 0 ∧ b.rsize ≤ 2 ^ 24 ∧ b.rsize % 64 = 0 ∧ 1 ≤ b.nh ∧ b.ibase % 128 = 0)
      ∧ Sys2Proof.Claims.Passes s (some a.ctx) false 2 ∧ (s.queue 0).live = false ∧ (s.ctx a.ctx).st ≠ .absent
      ∧ Sys2Proof.Claims.Passes t (some b.ctx) false 2 ∧ (t.queue 0).live = true ∧ (t.queue 0).st = .created
      ∧ Sys2Proof.Claims.Passes u (some a.ctx) false 2 ∧ (u.queue 0).live = true ∧ (u.queue 0).st = .stopped
      ∧ (56 % 8 = 0 ∧ 56 < (u.queue 0).attr.rsize) ∧ (u.queue 0).attr.rsize ≤ 64 ∧ (56 : Word).toNat % 8 = 0
      ∧ ((u.queue 0).calls = [] ∧ (56 : Word).toNat < (u.queue 0).attr.rsize) ∧ u.turn.msg.buf.toNat % 64 = 0
      ∧ (msgState fun s => { s with turn := { s.turn with msg := ⟨0, 5, true, 1⟩ } }).turn.msg.buf.toNat % 64 ≠ 0 :=
  ⟨by decide +kernel, by decide +kernel, passes_of (by decide +kernel), by decide +kernel, by decide +kernel,
    passes_of (by decide +kernel), by decide +kernel, by decide +kernel, passes_of (by decide +kernel), by decide +kernel⟩

/-- A code object of one section of kind 1 and four bytes; of image class 1 where `cls` is 1. -/
def objBytes (cls : Nat) : List Byte :=
  [0x44, 0x4D, 0x4F, 0x37, 1, 0, 7, 0] ++ bytesOf 4 1 ++ bytesOf 4 0 ++ bytesOf 8 64 ++ bytesOf 8 0 ++ bytesOf 4 0
    ++ [0, BitVec.ofNat 8 cls] ++ List.replicate 26 0
    ++ ([1, 0, 0, 0, 0, 0, 0, 0] ++ bytesOf 8 128 ++ bytesOf 8 4 ++ List.replicate 40 0) ++ bytesOf 4 0x830E0005

def loadState (b : List Byte) : State := msgState fun s => { (s.putBytes (2 ^ 64) b) with fuses := [(3, 1)] }

theorem wit_code_load :
    let a := loadState (objBytes 0)
    let b := loadState (objBytes 1)
    let c := loadState []
    let n := (objBytes 0).length
    Sys2Proof.Claims.Passes a (some 0) false 3 ∧ (a.ctx 0).st ≠ .absent
      ∧ (match loadObject (a.getBytes (2 ^ 64 + 0) n) with | .ok (_, l) => (kindBytes l 1).length == 4 | .error _ => false) = true
      ∧ (headerOf (a.getBytes (2 ^ 64 + 0) n)).imgcls ≠ 1
      ∧ (match loadObject (b.getBytes (2 ^ 64 + 0) n) with | .ok (h, _) => h.svn == 0 | .error _ => false) = true
      ∧ (headerOf (b.getBytes (2 ^ 64 + 0) n)).imgcls = 1 ∧ 0 < tget 0 b.fuses 3
      ∧ (match loadObject (c.getBytes (2 ^ 64 + 0) n) with | .ok _ => false | .error e => e == (1, 0)) = true :=
  ⟨passes_of (by decide +kernel), by decide +kernel⟩

theorem wit_code_unload :
    let s := msgState fun s => { s with codes := [(0, CodeObj.blank)] }
    (tfind s.codes 0).isSome = true ∧ Sys2Proof.Claims.Passes s (some CodeObj.blank.ctx) false 3 ∧ tsorted s.codes = true :=
  ⟨by decide +kernel, passes_of (by decide +kernel), by decide +kernel⟩

/-- A pool of one section, which pair 0 would take, and of none. -/
theorem wit_preemption :
    let s := msgState fun s => { s with cellar := [(0, 2 ^ 30)] }
    let none_ := msgState id
    let p := msgState fun s => s.setCtx 0 { s.ctx 0 with st := .preempted }
    let v := msgState fun s => (s.setCtx 0 { s.ctx 0 with st := .saved, coop := true }).setQueue 0 { s.queue 0 with st := .saved }
    Sys2Proof.Claims.Passes s (some 0) false 1 ∧ (s.ctx 0).st = .running ∧ (s.ctx 0).stage = .none
      ∧ (∀ e ∈ s.pairs, e.2.owner = some 0 → (s.pair e.1).diversions.length < 8)
      ∧ s.sectionsFor (s.contextPairs 0) s.sectionsInUse = some [(0, 2 ^ 30)]
      ∧ none_.sectionsFor (none_.contextPairs 0) none_.sectionsInUse = none
      ∧ Sys2Proof.Claims.Passes p (some 0) false 1 ∧ (p.ctx 0).st = .preempted ∧ (p.ctx 0).stage = .none ∧ p.sectionsLost 0 = false
      ∧ Sys2Proof.Claims.Passes v (some 0) false 1 ∧ (v.ctx 0).st = .saved ∧ (v.queue 0).live = true ∧ (v.queue 0).attr.ctx = 0
      ∧ (v.queue 0).st = .saved :=
  ⟨passes_of (by decide +kernel), by decide +kernel, by decide +kernel, by decide +kernel, by decide +kernel, by decide +kernel,
    passes_of (by decide +kernel), by decide +kernel, by decide +kernel, by decide +kernel, passes_of (by decide +kernel),
    by decide +kernel⟩

/-- Adapter slots: 0 claimed, 1 live with a reference, 2 draining, 3 free; model 0's version 7 is present. -/
def adpState (f : State → State) : State :=
  msgState fun s =>
    let a := Adapter.init
    let m := s.model 0
    f ({ s with adapters := [(0, { a with st := 1, model := 0, owner := 0 }),
                             (1, { a with st := 2, model := 0, owner := 0, bver := 7, refs := 1 }),
                             (2, { a with st := 4, model := 0, owner := 0, refs := 1 })] }.setModel 0
      { m with v0 := { m.v0 with vid := 7, st := 2, meas := true }, v1 := { m.v1 with vid := 8, st := 2, meas := true } })

theorem wit_adapters :
    let s := adpState id
    let i : AdpInstall := ⟨1, 63, 7, 0, 1, 9, 9, 0xFFFF⟩
    let j : AdpInstall := ⟨0, 64, 7, 0, 0xFFF, 9, 9, 0xFFFF⟩
    let z := adpState fun s => s.setAdapter 1 { s.adapter 1 with st := 3 }
    Sys2Proof.Claims.Passes s none (s.ctx (s.adapter 0).owner).prot 4 ∧ s.installOk 0 s.turn.msg.fn i = true
      ∧ (s.model (s.adapter 0).model).findVer i.bver [2, 3] = some 0 ∧ (i.kind = 1 ∧ i.parent < 0xFFF)
      ∧ s.installOk 0 s.turn.msg.fn j = false
      ∧ Sys2Proof.Claims.Passes s none false 4 ∧ (s.adapter 0).st = 1 ∧ (s.ctx (s.adapter 0).owner).fn = s.turn.msg.fn
      ∧ s.checkCores ≠ 0 ∧ (s.adapter 1).st = 2 ∧ 0 < (s.adapter 1).refs
      ∧ ((s.experts 1).filter fun e => [2, 3].contains (s.adapter e).st) = []
      ∧ (z.adapter 1).st = 3 ∧ ((z.experts 1).filter fun e => [2, 3].contains (z.adapter e).st) = []
      ∧ (s.adapter 2).st = 4 ∧ (s.adapter 3).st = 0 ∧ s.turn.msg.buf.toNat % 64 = 0 :=
  ⟨passes_of (by decide +kernel), by decide +kernel, by decide +kernel, by decide +kernel, by decide +kernel,
    passes_of (by decide +kernel), by decide +kernel⟩

theorem wit_adapter_of_another :
    let s := adpState fun s => s.setCtx 0 { s.ctx 0 with fn := 3 }
    Sys2Proof.Claims.Passes s none false 4 ∧ (s.adapter 0).st = 1 ∧ (s.ctx (s.adapter 0).owner).fn ≠ s.turn.msg.fn :=
  ⟨passes_of (by decide +kernel), by decide +kernel⟩

/-- Model 0 has both versions present; model 1 none, with weight object 65535 written, of 64 bytes. -/
theorem wit_models :
    let s := adpState fun s => { s with fuses := [(3, 1)], wobjs := [(65535, { WObj.init with size := 64 })] }
    let r := adpState fun s => let m := s.model 0; s.setModel 0 { m with v1 := { m.v1 with refs := 1 } }
    let i : ModelImage := ⟨9, 1, 0, 0, 0, 65535, 1⟩
    Sys2Proof.Claims.Passes s none false 4 ∧ (0 : Nat) < tget 0 s.fuses 3 ∧ tget 0 s.fuses 3 ≤ i.svn ∧ ((s.model 1).entry 0).st = 0
      ∧ (s.model 1).resident = false ∧ i.wobj + i.nwobj ≤ 65536 ∧ (s.wobj 65535).st = 0 ∧ 64 ≤ (s.wobj 65535).size
      ∧ (∀ n, i.wobj ≤ n → n < i.wobj + i.nwobj → n = 65535)
      ∧ 1 = 1 - (s.model 0).cur ∧ ((s.model 0).entry 1).st = 2 ∧ ((s.model 0).entry 1).meas = true ∧ 1 ≠ (s.model 0).cur
      ∧ ((s.model 0).entry 1).refs = 0 ∧ Sys2Proof.Claims.Passes r none false 4 ∧ ((r.model 0).entry 1).st = 2
      ∧ 0 < ((r.model 0).entry 1).refs :=
  ⟨passes_of (by decide +kernel), by decide +kernel, by decide +kernel, by decide +kernel, by decide +kernel, by decide +kernel,
    by decide +kernel, by decide +kernel, fun n h1 h2 => by simp only at h1 h2; omega, by decide +kernel, by decide +kernel,
    by decide +kernel, by decide +kernel, by decide +kernel, passes_of (by decide +kernel), by decide +kernel⟩

/-- A weight object at the last row it may take. -/
theorem wit_weight_object :
    let f := fieldAt ([2, 255, 1, 127] ++ bytesOf 4 0x1FFFFC0 ++ bytesOf 8 4096 : List Byte)
    Sys2Proof.Claims.Passes (msgState id) none true 1 ∧ f 0 1 < 3 ∧ f 2 1 < 2 ∧ f 3 1 < 128 ∧ f 4 4 % 64 = 0 ∧ f 8 8 % 64 = 0
      ∧ 64 ≤ f 8 8 ∧ f 8 8 ≤ 2 ^ 31 ∧ f 4 4 + f 8 8 / 64 = 2 ^ 25 :=
  ⟨passes_of (by decide +kernel), by decide +kernel⟩

theorem wit_dies :
    let s := msgState fun s => s.setDie 7 { s.die 7 with st := .online, ready := false, lpReady := 0x8000 }
    let busy := msgState fun s => s.setDie 7 { s.die 7 with st := .online, ready := true }
    let off := msgState fun s => s.setDie 7 { s.die 7 with st := .offline }
    Sys2Proof.Claims.Passes s none false 0 ∧ (s.die 7).st = .online ∧ (busy.die 7).st = .online ∧ busy.busyReason 7 = some 1
      ∧ (off.die 7).st ≠ .online ∧ (s.die 7).retraining.getLsbD 3 = false ∧ (s.die 7).lpReady.getLsbD 15 = true
      ∧ (s.die 7).lpRetrain.getLsbD 15 = false ∧ s.turn.msg.buf.toNat % 64 = 0
      ∧ Sys2Proof.Claims.Passes busy none false 0 ∧ busy.dieOpen (pairDie 127) = true ∧ (busy.bank (128 * 127 + 127)).rcal = 0 :=
  ⟨passes_of (by decide +kernel), by decide +kernel, by decide +kernel, by decide +kernel, by decide +kernel, by decide +kernel,
    by decide +kernel, by decide +kernel, by decide +kernel, passes_of (by decide +kernel), by decide +kernel⟩

theorem wit_firmware :
    let i : FwImage := ⟨1, 0, true⟩
    let s := msgState fun s => { (s.setDie 0 { s.die 0 with fwActiveB := false, fwB := some i }) with
      cfeActiveB := false, cfeB := some { i with ok := false } }
    Sys2Proof.Claims.Passes s none false 1 ∧ s.firmwareIdle 0 0 = true ∧ s.firmwareIdle 1 0 = true ∧ s.spareImage 0 0 = some i
      ∧ s.spareImage 1 0 = some { i with ok := false } ∧ i.ok = true ∧ s.partsBusy 0 = false
      ∧ (s.setDie 0 { s.die 0 with lpRetrain := 0 }).spareImage 0 0 = some i :=
  ⟨passes_of (by decide +kernel), by decide +kernel, by decide +kernel, by decide +kernel, by decide +kernel, by decide +kernel,
    by decide +kernel⟩

/-- The last section below the end of a die's memory, one beyond it, and one in use. -/
theorem wit_cellar :
    let s := msgState fun s => (s.setCtx 0 { s.ctx 0 with sections := [(0, 2 ^ 30)] }).setDie 0 { s.die 0 with ready := true }
    let t := { s with cellar := [(0, 0)] }
    let ok : List (Nat × Nat) := [(0, 2 ^ 36 - 2 ^ 25)]
    let bad : List (Nat × Nat) := [(0, 2 ^ 36 - 2 ^ 25), (0, 2 ^ 36)]
    Sys2Proof.Claims.Passes s none s.ownsProtected 1 ∧ s.sectionOk ok 0 = true ∧ s.sectionOk bad 1 = false ∧ s.sectionOk bad 0 = true
      ∧ s.sectionsInUse.contains (keyLpddr 0 (2 ^ 30)) = true ∧ t.sectionsInUse.contains (keyLpddr 0 0) = false
      ∧ t.cellar.contains (0, 0) = true :=
  ⟨passes_of (by decide +kernel), by decide +kernel⟩

theorem wit_trust :
    let s := msgState fun s => { s with keys := [(1, ⟨5, none⟩)], fuses := [(0, 1)] }
    let fn := fun (n : Nat) => msgState fun s => s.setFn 0 { s.fn 0 with tdi := n, sess := true }
    Sys2Proof.Claims.Passes s none true 1 ∧ tfind s.keys 0 = none ∧ tfind s.keys 1 = some ⟨5, none⟩ ∧ tget 0 s.fuses 0 ≤ 1
      ∧ 0 < tget 0 s.fuses 0 ∧ s.turn.msg.buf.toNat % 64 = 0
      ∧ Sys2Proof.Claims.Passes (fn 0) none true 1 ∧ ((fn 0).fn 0).tdi = 0 ∧ Sys2Proof.Claims.Passes (fn 1) none true 1
      ∧ ((fn 1).fn 0).tdi = 1 ∧ Sys2Proof.Claims.Passes (fn 3) none true 1 ∧ ((fn 3).fn 0).tdi = 3 ∧ ((fn 3).fn 0).sess = true
      ∧ Sys2Proof.Claims.Passes s (some 0) true 1 ∧ (s.ctx 0).st ≠ .absent ∧ Sys2Proof.Claims.Passes s none false 1 :=
  ⟨passes_of (by decide +kernel), by decide +kernel, by decide +kernel, by decide +kernel, by decide +kernel, by decide +kernel,
    passes_of (by decide +kernel), by decide +kernel, passes_of (by decide +kernel), by decide +kernel, passes_of (by decide +kernel),
    by decide +kernel, by decide +kernel, passes_of (by decide +kernel), by decide +kernel, passes_of (by decide +kernel)⟩

/-! ## Events -/

/-- `cmdState` with the task at slot 0 changed. -/
def evState (f : Task → Task) : State :=
  let s := cmdState id
  s.setTask 0 (f (s.task 0))

/-- Blocks that wait for a generation complete and not; the transfer engine's and the matrix engine's. -/
theorem wit_block_begin :
    let b : Block := { Block.blank with n := 1, runs := 1, waits := [⟨62, 1⟩] }
    let e : Eng := ⟨[b], none, 0⟩
    let s := evState fun t => { t with vec := e, mat := e, xfer := e, toks := [(62, ⟨1, 1⟩)] }
    let u := evState fun t => { t with vec := e, mat := e, xfer := e, toks := [(62, ⟨1, 0⟩)] }
    let t := s.task 0
    tfind s.tasks 0 = some t ∧ s.mayRun 0 = true ∧ (t.eng 1).cur = none ∧ (t.eng 2).cur = none ∧ (t.eng 3).cur = none
      ∧ (t.eng 1).queue = [b] ∧ (t.eng 2).queue = [b] ∧ (t.eng 3).queue = [b] ∧ s.chans = [] ∧ s.queued = [] ∧ (∀ g ∈ b.waits, t.genDone g = true)
      ∧ b.runs ≠ 0 ∧ b.nest = false ∧ (∃ g ∈ b.waits, (u.task 0).genDone g = false) := by
  decide +kernel

theorem wit_token_complete :
    let p : Prod := ⟨⟨62, 1⟩, true, none⟩
    let q : Prod := ⟨⟨61, 1⟩, false, none⟩
    let s := evState fun t => { t with prods := [q, p], toks := [(62, ⟨1, 0⟩)] }
    tfind s.tasks 0 = some (s.task 0) ∧ (s.task 0).prods = [q] ++ p :: [] ∧ p.gen.tok = (62 : BitVec 6).toNat
      ∧ (∀ r ∈ [q] ++ [], r.gen.tok ≠ (62 : BitVec 6).toNat) ∧ tsorted (s.task 0).toks = true
      ∧ prodQuiet s.owedList 0 p = true ∧ prodQuiet s.owedList 0 { p with ended := false } = false := by
  decide +kernel

/-- Waits of the control core, ended and not, and of the engines. -/
theorem wit_releases :
    let a := evState fun t => { t with hold := ⟨.twait, 62, 1⟩, waits := [⟨61, 0⟩], toks := [(62, ⟨1, 1⟩)] }
    let b := evState fun t => { t with hold := ⟨.twait, 62, 1⟩, toks := [(62, ⟨1, 0⟩)] }
    let c := evState fun t => { t with hold := ⟨.waitdep, 0, 0⟩ }
    let d := { c with launches := [(0, { someLaunch with producers := [1] }), (1, { someLaunch with num := 1 })] }
    let put := fun (s : State) => s.putBytes (keyLs 0 64) (bytesOf 16 (2 ^ 16 + 1))
    let e := put (evState fun t => { t with hold := ⟨.txwait, 0, BitVec.ofNat 64 (padAt 64 + 1)⟩ })
    let f := put (evState fun t => { t with hold := ⟨.txwait, 0, BitVec.ofNat 64 (padAt 64)⟩ })
    let r : Running := { Block.blank.begun with hold := ⟨.txwait, 0, BitVec.ofNat 64 (padAt 64 + 1)⟩ }
    let g := put (evState fun t => { t with xfer := ⟨[], some r, 0⟩, vec := ⟨[], some { r with hold := ⟨.extent, 0, 0⟩ }, 0⟩ })
    let h := evState fun t => { t with hold := ⟨.queue, 1, 0⟩ }
    ((a.task 0).genDone ⟨62, 1⟩ = true ∧ (∀ x ∈ (a.task 0).waits, (a.task 0).genDone x = true) ∧ (b.task 0).genDone ⟨62, 1⟩ = false)
      ∧ ((c.task 0).hold.kind = .waitdep ∧ c.producersDone (c.task 0).lnum = true ∧ d.producersDone (d.task 0).lnum = false)
      ∧ (e.phaseLeft 0 (e.task 0).hold.v = true ∧ f.phaseLeft 0 (f.task 0).hold.v = false)
      ∧ ((g.task 0).xfer.cur = some r ∧ g.phaseLeft 0 r.hold.v = true)
      ∧ (h.task 0).hold.kind ∉ [WaitK.none, .twait, .bar, .exit]
      ∧ ((g.task 0).vec.cur.map (·.hold.kind)) = some .extent := by
  decide +kernel

theorem wit_trig_exit :
    let s := { evState fun t => { t with trigPend := true, trigAt := 4 } with launches := [(0, someLaunch)] }
    let u := evState fun t => { t with trigPend := true, trigAt := 4, vec := ⟨[{ Block.blank with serial := 1 }], none, 0⟩ }
    let e := { evState fun t => { t with hold := ⟨.exit, 0, 0⟩ } with launches := [(0, someLaunch)] }
    let w := evState fun t => { t with hold := ⟨.exit, 0, 0⟩, wbusy := 1 }
    (s.task 0).trigPend = true ∧ s.trigReady 0 = true ∧ tfind s.launches (s.task 0).lnum = some someLaunch ∧ u.trigReady 0 = false
      ∧ e.mayRun 0 = true ∧ (e.task 0).hold.kind = .exit ∧ e.exitReady 0 = true ∧ tfind e.launches (e.task 0).lnum = some someLaunch
      ∧ tsorted e.tasks = true ∧ w.mayRun 0 = true ∧ w.exitReady 0 = false := by
  decide +kernel

theorem wit_engine_stop :
    let s := evState fun t => { t with frame := 512 }
    let s := s.setCtx 0 { s.ctx 0 with halt := true }
    (s.ctx (s.task 0).ctx).halt = true ∧ 512 ≤ (s.task 0).frame := by
  decide +kernel

/-- A binding that ends; clearing, with a task that waits for the engine and with none; a move at its last cycle; the governor at
a whole window. -/
theorem wit_pair_events :
    let s := cmdState id
    let a := s.setMat 0 { s.mat 0 with ending := true }
    let b := s.setMat 0 { s.mat 0 with clearing := true, beats := 0, stalls := 2 ^ 64 - 1 }
    let x := s.pair 0
    let c := s.setPair 0 { x with mov := true, cmib := 24, tgt := 25, movStart := 0, cache := [] }
    let c := c.setDie 0 { c.die 0 with cycle := 2048 }
    (a.mat 0).ending = true ∧ (b.mat 0).clearing = true ∧ b.matrixReserved 0 = none ∧ (b.mat 0).beats = 0 ∧ (b.mat 0).stalls < 2 ^ 64
      ∧ (c.pair 0).mov = true ∧ (c.pair 0).cache = []
      ∧ 2048 * (max 24 25 - min 24 25) ≤ ((c.die (pairDie 0)).cycle - (c.pair 0).movStart).toNat
      ∧ s.skidding 0 = none := by
  decide +kernel

/-- The matrix word of an instruction. -/
def matBytes (i : Instr) : List Byte := match encode i with | .matrix x => bytesOf 24 x | _ => []

/-- A halt that stops an AADD of two rows after its first, and one that stops an ASTEP with no weights latched. -/
def skidState (i : Instr) : State :=
  let s := (matState id false false).putBytes (keyCode 0 2 0) (matBytes i)
  s.setCtx 0 { s.ctx 0 with halt := true }

theorem wit_skid_none :
    let s := matState id false false
    let s := s.setCtx 0 { s.ctx 0 with halt := true }
    s.skidding 0 = some 0 ∧ s.matrixInstr 0 = none := by
  decide +kernel

theorem wit_skid_split :
    let i := Instr.aadd (mword 0 0 1022 1 0 0 0 0 0x80 0 0)
    let s := skidState i
    s.skidding 0 = some 0 ∧ (match s.matrixInstr 0 with | some (.aadd _) => true | _ => false) = true
      ∧ (match (s.task 0).mat.cur with
        | some r => nextIs (partialWord i 1 (s.beginTurn (.matrix 0) r.pc r.pc)) fun t =>
          t.turn.stop == .none && (t.task 0).mat.cur.any fun q => q.split
        | none => false) = true := by
  decide +kernel

theorem wit_skid_trap :
    let i := Instr.astep (stepWord 0xFFF)
    let s := skidState i
    s.skidding 0 = some 0 ∧ (match s.matrixInstr 0 with | some (.astep _) => true | _ => false) = true
      ∧ (match (s.task 0).mat.cur with
        | some r => nextIs (partialWord i 0 (s.beginTurn (.matrix 0) r.pc r.pc)) fun t =>
          match t.turn.stop with | .trapped _ _ => true | _ => false
        | none => false) = true := by
  decide +kernel

theorem wit_trap_delivery :
    let r : Raised := ⟨1, 0x02, 0, 8, 4⟩
    let s := evState fun t => { t with raised := [r], frame := 512 }
    let u := evState fun t => { t with mat := ⟨[], some Block.blank.begun, 0⟩ }
    let h := cmdState id
    let h := h.setFw 0 { h.fw 0 with halted := true }
    s.quiet 0 = true ∧ (s.ctx 0).st = .running ∧ s.ctxSlots 0 = [0] ∧ (s.task 0).raised = [r] ∧ (s.task 0).hart.inhdl = false
      ∧ r.cause ∉ [0x08, 0x0D, 0x10] ∧ tsorted s.tasks = true ∧ 512 ≤ (s.task 0).frame ∧ u.quiet 0 = false ∧ (h.fw 0).halted = true := by
  decide +kernel

/-- A section of pair 0 at the start of die 1's memory. -/
def savedPair : Saved := ⟨0, 2 ^ 36, true, 1, [], [], [], [], [], [], []⟩

theorem wit_preempt_arm :
    let s := cmdState id
    let a := s.setCtx 0 { s.ctx 0 with stage := .halting, halt := true, sections := [(0, 2 ^ 39 - 2 ^ 25)] }
    let m := evState fun t => { t with mat := ⟨[], some Block.blank.begun, 0⟩ }
    let b := s.setCtx 0 { s.ctx 0 with stage := .armed, halt := true, saved := [savedPair] }
    (a.ctx 0).stage = .halting ∧ a.quiet 0 = true ∧ (∀ k ∈ a.ctxSlots 0, (a.task k).raised = []) ∧ a.queued = []
      ∧ (∀ e ∈ (a.ctx 0).sections, (a.pair e.1).mov = false)
      ∧ (a.ctx 0).sections = [(0, 2 ^ 39 - 2 ^ 25)] ∧ (a.pair 0).owner = some 0 ∧ (a.pair 0).cache = [] ∧ Memory.wf a.mem = true ∧ m.quiet 0 = false
      ∧ (b.ctx 0).stage = .armed ∧ tsorted b.tasks = true ∧ (b.pair 0).diversions.length ≤ 8 := by
  decide +kernel

theorem wit_fold_resume :
    let s := cmdState id
    let e : LogEnt := ⟨2 ^ 25 - 128, [⟨127, 3, 9⟩], 5⟩
    let a := s.setCtx 0 { s.ctx 0 with stage := .armed, halt := true, saved := [{ savedPair with log := [e] }] }
    let t : SavedTask := ⟨0, s.task 0, none, []⟩
    let b := { s.setPair 0 { s.pair 0 with owner := none } with
      tasks := [], slotRecs := [(0, ⟨(s.task 0).idx, (s.task 0).lnum, 0, true, false, true⟩)] }
    let b := b.setCtx 0 { b.ctx 0 with st := .preempted, stage := .resuming, halt := true, saved := [savedPair], tasks := [t] }
    let c := b.setPair 0 { b.pair 0 with owner := some 5 }
    a.section 0 0 = some { savedPair with log := [e] }
      ∧ (b.ctx 0).stage = .resuming ∧ (b.ctx 0).saved = [savedPair] ∧ (b.ctx 0).tasks = [t] ∧ savedPair.owned = true
      ∧ t.task.deferred = [] ∧ t.task.later = [] ∧ t.mat = none ∧ (b.pair savedPair.pair).cache = []
      ∧ ((tfind b.slotRecs t.slot).any fun r => r.valid && r.resume && r.ctx == 0 && r.lnum == t.task.lnum && r.task == t.task.idx) = true
      ∧ b.ctxSlots 0 = [] ∧ b.resumeFree 0 savedPair.pair = true ∧ Memory.wf b.mem = true
      ∧ savedPair.section_ + 2 ^ 25 ≤ 2 ^ 39 ∧ savedPair.pair < 128
      ∧ (c.ctx 0).stage = .resuming ∧ c.resumeFree 0 savedPair.pair = false := by
  decide +kernel

/-- A task that waits at a cooperative safe point. -/
theorem wit_coop :
    let m : LiveMask := { s := 0, p := 0, v := 0, x := 0, accLo := 0, accN := 0, ls := [] }
    let s := evState fun t => { t with hold := ⟨.waitdep, 0, 0⟩ }
    let s := { s with codes := [(0, { CodeObj.blank with safe := [⟨0, 4, 0, true, true⟩], masks := [m] })] }
    let s := (s.setCtx 0 { s.ctx 0 with coop := true }).setQueue 0 { s.queue 0 with st := .saved }
    (s.ctx 0).coop = true ∧ (∀ e ∈ s.queues, e.2.live = true → e.2.attr.ctx = 0 → e.2.st ≠ .running ∧ e.2.st ≠ .waiting)
      ∧ s.ctxSlots 0 = [0] ∧ (∀ k ∈ s.ctxSlots 0, (s.coopMask (s.task k)).isSome = true) ∧ tsorted s.tasks = true := by
  decide +kernel

theorem wit_stairwell_events :
    let s := { cmdState id with tasks := [] }
    let c := s.setPair 0 { s.pair 0 with stair := .closing, up := [], down := [] }
    let x := s.pair 0
    let d := s.setPair 0 { x with stair := .closing, up := [0], gateAt := 0, gateAsked := false, stairOwner := some 0 }
    let d := d.setDie 0 { d.die 0 with ptime := 10000 }
    let e := { d with cellar := [(0, 0)] }
    (c.pair 0).stair = .closing ∧ (c.pair 0).up = [] ∧ (c.pair 0).down = []
      ∧ (∀ k ∈ pairSlots 0, slotLoft k = true → c.bound k = false)
      ∧ (d.pair 0).stair = .closing ∧ (d.pair 0).up ≠ [] ∧ 10000 ≤ ((d.die (0 / 16)).ptime - (d.pair 0).gateAt).toNat
      ∧ (d.pair 0).gateAsked = false ∧ (d.pair 0).stairOwner = some 0
      ∧ (d.setPair 0 { d.pair 0 with gateAsked := true }).forceSections 0 = none
      ∧ ((e.setPair 0 { e.pair 0 with gateAsked := true }).forceSections 0).isSome = true := by
  decide +kernel

/-- A line with its first byte written. -/
theorem wit_cache_line :
    let s := cmdState id
    let t := s.setPair 0 { s.pair 0 with cache := [(5, ⟨7, 3, [0]⟩)] }
    tfind (t.pair 0).cache 5 = some ⟨7, 3, [0]⟩ ∧ tsorted (t.pair 0).cache = true ∧ t.chans = [] ∧ tfind (t.pair 0).cache 6 = none
      ∧ (3 : BitVec 256).extractLsb' (2 * 0) 2 = 3 ∧ (3 : BitVec 256).extractLsb' (2 * 127) 2 = 0 := by
  decide +kernel

/-- Object 9's extent 0 is present; object 8's is not. -/
theorem wit_walk :
    let s := cmdState id
    let o : ObjDesc := ⟨8, 1, 2 ^ 21, 2 ^ 20, false, 0, 0, true, true⟩
    let s := s.setCtx 0 { s.ctx 0 with objs := (8, ⟨o, 0, 0, 0⟩) :: (s.ctx 0).objs }
    (match tfind (s.ctx 0).objs 9 with
      | some r => (extentOf (s.walkedExtent r.desc 0)).present && (extentOf (s.walkedExtent r.desc 0)).ok
        && (s.cachedExtent 0 0 9 0).isNone
      | none => false) = true
      ∧ (match tfind (s.ctx 0).objs 8 with | some r => !(extentOf (s.walkedExtent r.desc 0)).present | none => false) = true := by
  decide +kernel

/-- The last byte of a line of object 9, parked by slot 0; its extent present, and not. -/
theorem wit_side_log :
    let e : SideEnt := ⟨0, 0, 9, 0, BitVec.ofNat 64 (globAt 0), [⟨127, 3, 9⟩], ⟨0, none, none, 0, 0⟩, none, none, false, 0, []⟩
    let s := cmdState id
    let t := s.setCore 0 { s.core 0 with sidelog := [e] }
    let z := t.setCore 0 { t.core 0 with sidelog := [] }
    let y := z.putBytes (2 ^ 21) (bytesOf 8 0)
    (t.core 0).sidelog = [e] ∧ e.bytes = [⟨127, 3, 9⟩] ∧ e.bar = none ∧ e.red = none ∧ (∀ x ∈ t.ctxs, x.2.moved = [])
      ∧ okIs (z.place (z.parkView e) (e.addr + BitVec.ofNat 64 127) { wantDest with n := 1 }) (fun q u => q.there && decide (127 ≤ q.key)
        && decide (127 ≤ q.off) && (q.obj.all fun o => !o.prot) && (u.core 0).sidelog.isEmpty && u.ctxs.all fun x => x.2.moved.isEmpty) = true
      ∧ okIs (y.place (y.parkView e) (e.addr + BitVec.ofNat 64 127) { wantDest with n := 1 }) (fun q _ => !q.there) = true := by
  decide +kernel

/-- A channel with a message not applied, and one applied and not acknowledged; permits above and at what is needed. -/
theorem wit_channels :
    let ch : Channel := ⟨0, 1, 0⟩
    let m : Message := ⟨0, 5, [⟨0, 3, 9⟩], ⟨0, none, none, 0, 0⟩⟩
    let c : Chan := ⟨ch, 1, 0, [m], 0⟩
    let d : Chan := ⟨ch, 1, 1, [m], 1⟩
    let s := { cmdState id with chans := [c] }
    let t := { cmdState id with chans := [d] }
    let t := t.setDie 0 { t.die 0 with permits := [(2, 1)] }
    c ∈ s.chans ∧ c.ch = ch ∧ (∀ x ∈ s.chans, x.ch = ch → x = c) ∧ c.unacked.drop c.applied = m :: []
      ∧ d ∈ t.chans ∧ d.unacked.drop d.applied = [] ∧ 0 < d.applied
      ∧ (t.unapplied 0 0 2 < t.permitsHeld 0 0 2) ∧ t.permitsHeld 0 1 0 ≤ t.unapplied 0 1 0 ∧ tsorted (t.die 0).permits = true := by
  decide +kernel

/-- A request of slot 0 for row 64 of weight object 0, which context 0 may write, with 63 iterations used of 64. -/
def wpReq (load : Bool) : WpReq := ⟨0, 0, 0, List.replicate 64 1, ⟨0, none, none, 0, 0⟩, load, 5⟩

def wpState (f : Die → Die) (g : Bank → Bank) (pg : BitVec 128) : State :=
  let s := cmdState id
  let s := { s with wobjs := [(0, { WObj.init with st := 2, size := 4096, pg := pg })] }
  let s := s.setDie 0 (f (s.die 0))
  let k := (s.rowOf 0 0).1
  s.setBank k (g (s.bank k))

theorem wit_request_begin :
    let q := fun (load : Bool) (d : Die) => { d with wq := [wpReq load], wcur := none }
    let a := wpState (q false) id 1
    let b := wpState (q false) id 0
    let c := wpState (q false) (fun x => { x with taken := 4096, tail := [] }) 1
    let d := wpState (q true) id 0
    let e := wpState (q false) (fun x => { x with rcal := 2 }) 1
    let f := a.setDie 1 { a.die 1 with wq := [{ wpReq false with seq := 4 }] }
    let k := (a.rowOf 0 0).1
    ((a.die 0).wcur = none ∧ (a.die 0).wq = wpReq false :: [] ∧ (a.die 0).st = .online ∧ (a.bank k).rcal ≠ 2
        ∧ (a.wobj 0).pg.getLsbD 0 = true ∧ (a.bank k).head.isSome = true ∧ (a.bank k).wearOf ((a.bank k).head.getD 0) < (a.die 0).wlim
        ∧ a.bound 0 = true ∧ (a.task 0).ctx = 0 ∧ (a.task 0).lnum = 0 ∧ a.arrived (wpReq false) = true)
      ∧ b.arrived (wpReq false) = true ∧ c.arrived (wpReq false) = true ∧ d.arrived (wpReq true) = true ∧ e.arrived (wpReq false) = true
      ∧ (f.die 0).wq = [wpReq false] ∧ f.arrived (wpReq false) = false
      ∧ (b.wobj 0).pg.getLsbD 0 = false ∧ (b.bank k).rcal ≠ 2
      ∧ ((c.wobj 0).pg.getLsbD 0 = true ∧ (c.bank k).head = none)
      ∧ ((wpReq true).load = true ∧ (d.die 0).wq = wpReq true :: [])
      ∧ ((e.bank k).rcal = 2 ∧ (e.wobj 0).pg.getLsbD 0 = true) := by
  decide +kernel

/-- Pulses with the last iteration and the last of wear before their limits; the flip and the tree. -/
theorem wit_request_runs :
    let run : WpRun := ⟨wpReq false, .taken, 2048, 6, 0, false, 0xF4240, 8⟩
    let at_ := fun (r : WpRun) => wpState (fun d => { d with wcur := some r }) (fun b => { b with wear := [(2048, 0xF4240 - 2)] }) 1
    let a := at_ run
    let b := at_ { run with iter := 7 }
    let c := at_ { run with phase := .flipping }
    let t := at_ { run with phase := .tree }
    let m := t.model 0
    let t := t.setModel 0 { m with v0 := { m.v0 with st := 2, wobj := 0, nwobj := 1 } }
    let k := (a.rowOf 0 0).1
    (a.die 0).wcur = some run ∧ run.phase = .taken ∧ tsorted (a.bank k).wear = true ∧ run.iter + 1 < run.itmax
      ∧ min 16777215 ((a.bank k).wearOf 2048 + 1) < run.wlim
      ∧ (b.die 0).wcur = some { run with iter := 7 } ∧ run.itmax ≤ 7 + 1
      ∧ (c.die 0).wcur = some { run with phase := .flipping } ∧ run.req.data.length = 64 ∧ tsorted (c.bank k).map = true
      ∧ Memory.wf c.mem = true ∧ run.req.load = false ∧ c.bound 0 = true ∧ (c.task 0).ctx = 0 ∧ (c.task 0).lnum = 0
      ∧ (t.die 0).wcur = some { run with phase := .tree }
      ∧ (let v := (t.model (t.wobj 0).model).entry (t.wobj 0).vent; v.st ≠ 0 ∧ v.wobj ≤ 0 ∧ 0 < v.wobj + v.nwobj) := by
  decide +kernel

theorem wit_bank_events :
    let at_ := fun (f : Bank → Bank) => wpState id f 1
    let k := ((cmdState id).rowOf 0 0).1
    let a := at_ fun b => { b with draining := [5], wear := [(5, 0xF4240)] }
    let b := at_ fun b => { b with draining := [5], wear := [(5, 0xF4240 - 1)] }
    let c := at_ fun b => { b with rcal := 1 }
    let d := c.setDie 0 { c.die 0 with wcur := some ⟨wpReq false, .taken, 0, 0, 0, false, 1, 1⟩ }
    let e := at_ fun b => { b with rcal := 2 }
    5 ∈ (a.bank k).draining ∧ (a.die (bankDie k)).wlim ≤ (a.bank k).wearOf 5 ∧ 5 ∈ (b.bank k).draining
      ∧ (b.bank k).wearOf 5 < (b.die (bankDie k)).wlim ∧ (c.bank k).rcal = 1 ∧ (c.die (bankDie k)).wcur = none
      ∧ (d.bank k).rcal = 1 ∧ (d.die (bankDie k)).wcur ≠ none ∧ (e.bank k).rcal = 2 := by
  decide +kernel

/-- A retiring version and one to measure, of one object on die 0; slots with no references, and with one. -/
theorem wit_versions_adapters :
    let s := { cmdState id with wobjs := [(0, { WObj.init with st := 2 })], fuses := [(3, 5)] }
    let m := s.model 0
    let s := s.setModel 0 { m with v0 := { m.v0 with st := 3, nwobj := 1, svn := 4 }, v1 := { m.v1 with st := 2, nwobj := 1, svn := 5 } }
    let l := s.setModel 0 { m with v1 := { m.v1 with st := 2, nwobj := 1, svn := 4 } }
    let a := { s with adapters := [(0, { Adapter.init with st := 3, bver := 0 }), (1, { Adapter.init with st := 4, refs := 1, acks := 3 }),
                                   (2, { Adapter.init with acks := 1, evictFn := some 0 })] }
    let v := (s.model 0).entry 0
    let w := (s.model 0).entry 1
    v.st = 3 ∧ v.refs = 0 ∧ w.st = 2 ∧ w.meas = false ∧ (0, 1) ∉ s.measured ∧ (0, 1) ∉ l.measured
      ∧ (0, 1) ∈ { s with measured := [(0, 1)] }.measured ∧ tget 0 s.fuses 3 ≤ w.svn ∧ s.dieUp (pairDie (s.wobj 0).home) = true
      ∧ ((l.model 0).entry 1).svn < tget 0 l.fuses 3
      ∧ (a.adapter 0).st = 3 ∧ (a.adapter 0).refs = 0 ∧ (a.adapter 0).kind = 0 ∧ 0 < (a.adapter 1).refs
      ∧ ((a.adapter 1).acks &&& ~~~(BitVec.ofNat 256 (2 ^ 0)) ≠ 0 ∧ (a.adapter 1).evictFn = none)
      ∧ (a.adapter 2).acks &&& ~~~(BitVec.ofNat 256 (2 ^ 0)) = 0 ∧ (a.adapter 2).evictFn = some 0 := by
  decide +kernel

theorem wit_version_references :
    let s := cmdState id
    let m := s.model 0
    let s := s.setModel 0 { m with v0 := { m.v0 with st := 3, refs := 2 } }
    (s.model 0).findVer 0 [2, 3] = some 0 ∧ 1 < ((s.model 0).entry 0).refs := by
  decide +kernel

theorem wit_load_complete :
    let c := CodeObj.blank
    let s := { cmdState id with codes := [(0, { c with usable := true }), (1, { c with usable := false }), (2, { c with usable := false })] }
    (tfind s.codes 0).any (·.usable) = true ∧ (tfind s.codes 1).any (fun c => !c.usable && !c.withdrawn && c.ctx == 0) = true
      ∧ (∀ e ∈ s.codes, e.2.ctx = 0 → e.2.usable = false → 1 ≤ e.1)
      ∧ (∃ e ∈ s.codes, e.2.ctx = 0 ∧ e.2.usable = false ∧ e.1 < 2) := by
  decide +kernel

theorem wit_no_power :
    let s := { State.reset with power := false, agenda := [.run (.scalar 0)] }
    s.power = false ∧ s.events = [] ∧ (s.fns.all fun e => e.2.waiting.isEmpty) = true
      ∧ s.agenda.head? ≠ some (.event .coldReset) := by
  decide +kernel

theorem wit_startup :
    let s := State.reset
    let t := { s with started := [.security] }
    let w := { t with fuses := [(0, 1)] }
    let w := w.setDie 8 { w.die 8 with fwA := some ⟨0, 0, true⟩ }
    (w.mayStart (.managementIod 0) = true ∧ StartUnit.managementIod 0 ∉ w.started ∧ w.imageCheck (.managementIod 0) = some (0, 1))
      ∧ s.mayStart .security = true ∧ StartUnit.security ∉ s.started ∧ s.mayStart .loader = false ∧ StartUnit.security ∈ t.started
      ∧ t.mayStart (.managementIod 1) = true ∧ StartUnit.managementIod 1 ∉ t.started := by
  decide +kernel

/-- A channel of die 3 with a message that waits, at step 8 and its neighbours; an I/O die's time. -/
theorem wit_warm_steps :
    let s := State.reset
    let at_ := fun (n : Nat) => s.setDie 3 { s.die 3 with warm := n }
    let c : Chan := ⟨⟨0, 3, 0⟩, 1, 0, [⟨0, 5, [], ⟨0, none, none, 0, 0⟩⟩], 0⟩
    let h := { at_ 8 with chans := [c] }
    ((at_ 1).die 3).warm = 1 ∧ ((at_ 9).die 3).warm = 9 ∧ ((at_ 8).die 3).warm = 8 ∧ (at_ 8).chans = [] ∧ (h.die 3).warm = 8
      ∧ c ∈ h.chans ∧ c.ch.src = 3 ∧ c.unacked ≠ [] := by
  decide +kernel

theorem wit_time :
    let s := State.reset
    let p := { s with pod := { s.pod with member := true, self := 1, master := 0 } }
    let h := s.setDie 0 { s.die 0 with holdover := false, sinceEx := 4000 }
    let u := s.setDie 0 { s.die 0 with holdover := true, unlk := false, bound := s.boundLimit + 1 }
    let a := s.setDie 0 { s.die 0 with unlk := true, holdover := false, offset := 1 }
    let b := s.setDie 0 { s.die 0 with unlk := true, holdover := false, offset := 0 }
    let c := s.setDie 8 { s.die 8 with unlk := false, bound := 4000, ptime := 5 }
    let d := c.setDie 0 { c.die 0 with ptime := 1, offset := -4 }
    let l := d.setDie 0 { d.die 0 with unlk := false, acquiring := false, bound := 4000, ptime := 5 }
    ((c.mayLock 0 (c.die 0) = false ∧ (c.die 0).unlk = true ∧ (c.die 0).holdover = false ∧ (c.die 0).offset ≤ 0)
      ∧ (d.mayLock 0 (d.die 0).stepped = true ∧ (d.die 0).unlk = true ∧ (d.die 0).holdover = false ∧ (d.die 0).offset ≤ 0)
      ∧ ((l.die 0).unlk = false ∧ (l.die 0).acquiring = false ∧ l.inStep = true)) ∧
    s.timeMaster 8 = true ∧ s.timeMaster 0 = false ∧ p.timeMaster 8 = false ∧ (h.die 0).holdover = false ∧ 4000 ≤ (h.die 0).sinceEx
      ∧ (u.die 0).holdover = true ∧ (u.die 0).unlk = false ∧ u.boundLimit < (u.die 0).bound
      ∧ ((a.die 0).unlk = true ∧ (a.die 0).holdover = false ∧ 0 < (a.die 0).offset) ∧ (b.die 0).offset ≤ 0 := by
  decide +kernel

/-- Module 3 goes down with the others up; one is retrained; channel 15. -/
theorem wit_modules :
    let s := cmdState id
    let s := (s.setDie 0 { s.die 0 with modules := 15, retraining := 8, lpRetrain := 0x8000, fwSwitching := true })
    let t := { s with cfeSwitching := true }
    (∀ e < 8, (s.setModule 0 3 false).cutOff e = false) ∧ (s.die 0).retraining.getLsbD 3 = true
      ∧ (s.die 0).lpRetrain.getLsbD 15 = true ∧ (s.die 0).fwSwitching = true ∧ t.cfeSwitching = true
      ∧ (15 < 16 ∧ 15 < (List.replicate 16 0).length) := by
  decide +kernel

/-- Die 7 is lost, with context 0's bit set in its mask alone. -/
theorem wit_die_lost :
    let s := cmdState id
    let s := s.setCtx 0 { s.ctx 0 with diemask := 0x80 }
    let s := (List.range 8).foldl (fun s d => s.setDie d { s.die d with modules := 15 }) s
    let l := s.setDie 7 { s.die 7 with st := .lost }
    (∀ e < 8, (s.loseDie 7).cutOff e = false) ∧ (s.die 7).st ≠ .lost ∧ (s.ctx 0).diemask.getLsbD 7 = true ∧ s.ctxs.map (·.1) = [0] ∧ Ctx.init.diemask = 0
      ∧ (s.ctx 0).st = .running ∧ s.ctxSlots 0 = [0]
      ∧ (s.die (slotDie 0)).st ≠ .lost ∧ slotDie 0 ≠ 7 ∧ s.quiet 0 = true ∧ (s.task 0).raised = [] ∧ (s.task 0).hart.inhdl = false
      ∧ tsorted s.tasks = true ∧ (s.ctx 0).tasks = [] ∧ (l.die 7).st = .lost ∧ (s.die (8 + 1)).st ≠ .lost := by
  decide +kernel

/-- Interface states and resets of a function. -/
theorem wit_functions :
    let s := cmdState id
    let fn := fun (n k : Nat) => s.setFn 3 { s.fn 3 with tdi := n, flr := k }
    let busy := (evState fun t => { t with mat := ⟨[], some Block.blank.begun, 0⟩ })
    let busy := (busy.setFn 3 { s.fn 3 with flr := 1 }).setCtx 0 { busy.ctx 0 with fn := 3 }
    (((fn 0 0).fn 3).tdi ≠ 1 ∧ ((fn 0 0).fn 3).tdi ≠ 2 ∧ ((fn 1 0).fn 3).tdi = 1 ∧ ((fn 2 0).fn 3).tdi = 2)
      ∧ (3 ≠ 0 ∧ ((fn 0 0).fn 3).flr = 0 ∧ s.flrNext = [] ∧ (s.fn 1).flr = 0)
      ∧ ((busy.fn 3).flr = 1 ∧ (∃ c ∈ busy.fnCtxs 3, busy.quiet c = false))
      ∧ (((fn 0 1).fn 3).flr = 1 ∧ (∀ c ∈ (fn 0 1).fnCtxs 3, (fn 0 1).quiet c = true))
      ∧ (((fn 0 7).fn 3).flr = 7 ∧ (fn 0 7).flrNext = []) ∧ ((fn 0 8).fn 3).flr = 8 ∧ tsorted s.tasks = true := by
  decide +kernel

theorem wit_memory_stays :
    (cmdState id).memWf ∧ nextIs (exec (.cmdLdi (cword 3 0 0 0 0 1) []) (cmdState id)) (fun _ => true) = true
      ∧ State.reset.memWf ∧ nextIs (step State.reset) (fun _ => true) = true :=
  ⟨by show Memory.wf (cmdState id).mem = true; decide +kernel, by decide +kernel,
    by show Memory.wf State.reset.mem = true; decide +kernel, by decide +kernel⟩
end Sys2Proof.Tests
end

section
/-! SUPPORT. What a fold over a list of contexts, slots or stores leaves alone, and what it brings about for each element. -/
namespace Sys2Proof.Machine

/-- What every round of a fold leaves alone, the fold leaves alone. -/
theorem foldl_frame {α β : Type} {g : State → β} (f : State → α → State) (hf : ∀ s x, g (f s x) = g s) (l : List α)
    (s : State) : g (l.foldl f s) = g s :=
  foldl_keeps (P := fun t => g t = g s) f (fun t x h => (hf t x).trans h) l s rfl

/-- What a round brings about for its element, and no later round undoes, holds of every element at the end. -/
theorem foldl_establishes {α : Type} {I : State → Prop} {Q : α → State → Prop} (f : State → α → State)
    (hI : ∀ s x, I s → I (f s x)) (hmake : ∀ s x, I s → Q x (f s x)) (hkeep : ∀ s x y, Q x s → Q x (f s y))
    (l : List α) (s : State) (h : I s) : ∀ x ∈ l, Q x (l.foldl f s) := by
  induction l generalizing s with
  | nil => exact fun x hx => absurd hx List.not_mem_nil
  | cons y l ih =>
    intro x hx
    rw [List.foldl_cons]
    rcases List.mem_cons.mp hx with rfl | hx
    · exact foldl_keeps (P := Q x) f (fun t z => hkeep t x z) l _ (hmake s x h)
    · exact ih (f s y) (hI s y h) x hx

/-- What a map over the entries of a table leaves alone of each value, it leaves alone of every value read. -/
theorem tget_map_frame {α β : Type} (g : α → β) (d : α) (m : Nat × α → Nat × α) (hk : ∀ e, (m e).1 = e.1)
    (hg : ∀ e, g (m e).2 = g e.2) (t : Tbl α) (i : Nat) : g (tget d (t.map m) i) = g (tget d t i) := by
  induction t with
  | nil => rfl
  | cons e t ih =>
    simp only [tget, List.map_cons, tfind, hk] at ih ⊢
    split
    · exact hg e
    · exact ih

/-! ## Removing entries of a table -/

theorem mem_of_mem_terase {α : Type} {t : Tbl α} {i : Nat} {e : Nat × α} (h : e ∈ terase t i) : e ∈ t := by
  induction t with
  | nil => exact h
  | cons d t ih =>
    simp only [terase] at h
    split at h
    · exact List.mem_cons_of_mem d h
    · rcases List.mem_cons.mp h with rfl | h
      · exact List.mem_cons_self
      · exact List.mem_cons_of_mem d (ih h)

theorem le_key_of_mem {α : Type} {t : Tbl α} {lo : Nat} {e : Nat × α} (ht : tsortedFrom lo t = true) (h : e ∈ t) :
    lo ≤ e.1 := by
  induction t generalizing lo with
  | nil => exact absurd h List.not_mem_nil
  | cons d t ih =>
    simp only [tsortedFrom, Bool.and_eq_true, decide_eq_true_eq] at ht
    rcases List.mem_cons.mp h with rfl | h
    · exact ht.1
    · have := ih ht.2 h
      omega

/-- In a table whose keys rise, the key removed is gone. -/
theorem key_ne_of_mem_terase {α : Type} {t : Tbl α} {lo i : Nat} {e : Nat × α} (ht : tsortedFrom lo t = true)
    (h : e ∈ terase t i) : e.1 ≠ i := by
  induction t generalizing lo with
  | nil => exact absurd h List.not_mem_nil
  | cons d t ih =>
    simp only [tsortedFrom, Bool.and_eq_true, decide_eq_true_eq] at ht
    simp only [terase] at h
    split at h
    · have := le_key_of_mem ht.2 h
      omega
    · rcases List.mem_cons.mp h with rfl | h
      · assumption
      · exact ih ht.2 h

theorem mem_of_mem_foldl_terase {α : Type} {l : List Nat} {t : Tbl α} {e : Nat × α} (h : e ∈ l.foldl terase t) : e ∈ t := by
  induction l generalizing t with
  | nil => exact h
  | cons i l ih => exact mem_of_mem_terase (ih h)

theorem foldl_terase_sorted {α : Type} (l : List Nat) {t : Tbl α} (ht : tsorted t = true) :
    tsorted (l.foldl terase t) = true := by
  induction l generalizing t with
  | nil => exact ht
  | cons i l ih => exact ih (terase_sortedFrom t 0 i ht)

theorem key_notMem_of_mem_foldl_terase {α : Type} {l : List Nat} {t : Tbl α} {e : Nat × α} (ht : tsorted t = true)
    (h : e ∈ l.foldl terase t) : e.1 ∉ l := by
  induction l generalizing t with
  | nil => exact List.not_mem_nil
  | cons i l ih =>
    have hi : e.1 ≠ i := key_ne_of_mem_terase ht (mem_of_mem_foldl_terase h)
    have hl : e.1 ∉ l := ih (terase_sortedFrom t 0 i ht) h
    simp [hi, hl]

end Sys2Proof.Machine
end

section
/-! SUPPORT. What the performing of queued stores, and the release of references, leave alone. -/
namespace Sys2Proof.Machine

/-! ## Stores performed at their homes (09 R303, R314) -/

/-- The state but for memory, poison, channels, pairs and store queues: what performing a store never touches. -/
def State.sansTraffic (s : State) : State := { s with mem := [], poison := [], chans := [], pairs := [], queued := [] }

theorem State.tasks_of_sansTraffic {s t : State} (h : t.sansTraffic = s.sansTraffic) : t.tasks = s.tasks := by
  have : t.sansTraffic.tasks = s.sansTraffic.tasks := by rw [h]
  exact this

theorem State.putNib_sansTraffic (s : State) (key : Nat) (n : BitVec 2) (b : Byte) :
    (s.putNib key n b).sansTraffic = s.sansTraffic := by
  unfold State.putNib
  split <;> rfl

theorem State.putNibs_sansTraffic (s : State) (key : Nat) (l : List NibWrite) :
    (s.putNibs key l).sansTraffic = s.sansTraffic :=
  foldl_frame (g := State.sansTraffic) _ (fun t (b : NibWrite) => t.putNib_sansTraffic (key + b.off) b.nib b.byte) l s

theorem State.applyAll_sansTraffic (s : State) (c : Chan) : (s.applyAll c).1.sansTraffic = s.sansTraffic :=
  foldl_frame _ (fun t (m : Message) => t.putNibs_sansTraffic m.key m.bytes) _ s

theorem State.drainWhere_sansTraffic (s : State) (sel : Chan → Bool) : (s.drainWhere sel).sansTraffic = s.sansTraffic := by
  refine (foldl_frame (g := State.sansTraffic) _ (fun t c => ?_) s.chans { s with chans := [] }).trans rfl
  split
  · exact t.applyAll_sansTraffic c
  · rfl

theorem State.drainSent_sansTraffic (s : State) (slot : Nat) (keep : Option Channel) :
    (s.drainSent slot keep).sansTraffic = s.sansTraffic := by
  unfold State.drainSent
  split
  · exact s.drainWhere_sansTraffic _
  · rfl

theorem State.drainPair_sansTraffic (s : State) (p key n : Nat) : (s.drainPair p key n).sansTraffic = s.sansTraffic := by
  unfold State.drainPair
  split
  · exact s.drainWhere_sansTraffic _
  · rfl

theorem State.numbered_sansTraffic (s : State) (src : Nat) (h : Home) (cls : Nat) :
    (s.numbered src h cls).sansTraffic = s.sansTraffic := by
  unfold State.numbered
  split
  · rfl
  · split
    · rfl
    · exact s.drainWhere_sansTraffic _

theorem State.writeBack_sansTraffic (s : State) (p line : Nat) : (s.writeBack p line).sansTraffic = s.sansTraffic := by
  unfold State.writeBack
  split
  · rfl
  · rename_i l _
    show (if l.dirty = 0 then s else _).sansTraffic = _
    split
    · rfl
    · rw [State.putNibs_sansTraffic, State.numbered_sansTraffic]

theorem State.cacheRoom_sansTraffic (s : State) (p : Nat) : (s.cacheRoom p).sansTraffic = s.sansTraffic := by
  simp only [State.cacheRoom]
  split
  · rfl
  · split
    · rfl
    · exact s.writeBack_sansTraffic p _

theorem State.allocate_sansTraffic (s : State) (p line : Nat) : (s.allocate p line).sansTraffic = s.sansTraffic := by
  unfold State.allocate
  split
  · rfl
  · exact (State.drainPair_sansTraffic _ p _ _).trans (s.cacheRoom_sansTraffic p)

theorem State.cachePut_sansTraffic (s : State) (p slot key : Nat) (l : List NibWrite) :
    (s.cachePut p slot key l).sansTraffic = s.sansTraffic :=
  s.allocate_sansTraffic p (key / 128)

theorem State.clearPoison_sansTraffic (s : State) (key n : Nat) : (s.clearPoison key n).sansTraffic = s.sansTraffic := by
  unfold State.clearPoison
  split <;> rfl

theorem State.performStore_sansTraffic (s : State) (q : QStore) : (s.performStore q).sansTraffic = s.sansTraffic := by
  simp only [State.performStore]
  split
  · rw [State.cachePut_sansTraffic, State.drainSent_sansTraffic]
  · rw [State.clearPoison_sansTraffic, State.putNibs_sansTraffic, State.writeBack_sansTraffic, State.drainSent_sansTraffic]

theorem State.performWhere_sansTraffic (s : State) (sel : QStore → Bool) : (s.performWhere sel).sansTraffic = s.sansTraffic := by
  unfold State.performWhere
  split
  · exact (foldl_frame _ State.performStore_sansTraffic _ _).trans rfl
  · rfl

theorem State.settleOwner_sansTraffic (s : State) (p : Nat) : (s.settleOwner p).sansTraffic = s.sansTraffic := by
  unfold State.settleOwner
  split
  · exact s.performWhere_sansTraffic _
  · rfl

/-! ## References on adapters and model versions (16 R419, R421, R427) -/

/-- The state but for adapters, models and weight objects: what the release of a reference never touches. -/
def State.sansRefs (s : State) : State := { s with adapters := [], models := [], wobjs := [] }

theorem State.tasks_of_sansRefs {s t : State} (h : t.sansRefs = s.sansRefs) : t.tasks = s.tasks := by
  have : t.sansRefs.tasks = s.sansRefs.tasks := by rw [h]
  exact this

theorem State.ctxs_of_sansRefs {s t : State} (h : t.sansRefs = s.sansRefs) : t.ctxs = s.ctxs := by
  have : t.sansRefs.ctxs = s.sansRefs.ctxs := by rw [h]
  exact this

theorem State.dropVersion_sansRefs (s : State) (k e : Nat) : (s.dropVersion k e).sansRefs = s.sansRefs :=
  foldl_frame (g := State.sansRefs) State.unmapObject (fun _ _ => rfl) _ s

theorem State.settleVersion_sansRefs (s : State) (k e : Nat) : (s.settleVersion k e).sansRefs = s.sansRefs := by
  simp only [State.settleVersion]
  split
  · exact s.dropVersion_sansRefs k e
  · rfl

theorem State.dropVer_sansRefs (s : State) (k vid : Nat) : (s.dropVer k vid).sansRefs = s.sansRefs := by
  unfold State.dropVer
  split
  · rfl
  · exact State.settleVersion_sansRefs _ k _

theorem State.settleSlot_sansRefs (s : State) (fuel k : Nat) : (s.settleSlot fuel k).sansRefs = s.sansRefs := by
  induction fuel generalizing s k with
  | zero => rfl
  | succ n ih =>
    simp only [State.settleSlot]
    split
    · split
      · rw [ih]
        exact State.dropVer_sansRefs (s.moveSlot k Adapter.init) _ _
      · exact State.dropVer_sansRefs (s.moveSlot k Adapter.init) _ _
    · rfl

theorem State.dropSlot_sansRefs (s : State) (k : Nat) : (s.dropSlot k).sansRefs = s.sansRefs := by
  unfold State.dropSlot
  split
  · rfl
  · exact State.settleSlot_sansRefs _ slotDepth k

theorem State.dropHold_sansRefs (s : State) (h : AdpHold) : (s.dropHold h).sansRefs = s.sansRefs :=
  (State.dropVer_sansRefs _ h.model h.ver).trans (s.dropSlot_sansRefs h.slot)

theorem State.dropRefs_sansRefs (s : State) (refs : Option (Nat × Nat × Nat)) : (s.dropRefs refs).sansRefs = s.sansRefs := by
  unfold State.dropRefs
  split
  · rfl
  · rename_i k m v
    exact (State.dropVer_sansRefs _ m v).trans (s.dropSlot_sansRefs k)

theorem State.dropHolds_sansRefs (s : State) (l : List AdpHold) :
    (l.foldl (fun s h => s.dropHold h) s).sansRefs = s.sansRefs :=
  foldl_frame _ State.dropHold_sansRefs l s

/-! ## Queues, code objects and contexts removed -/

theorem State.removeQueue_tasks (s : State) (q : Nat) : (s.removeQueue q).tasks = s.tasks :=
  (State.tasks_of_sansRefs (s.dropHolds_sansRefs (s.queue q).holds) :)

theorem State.removeQueue_ctxs (s : State) (q : Nat) : (s.removeQueue q).ctxs = s.ctxs :=
  (State.ctxs_of_sansRefs (s.dropHolds_sansRefs (s.queue q).holds) :)

/-- A context forgotten leaves every task bound: none of its own runs any more. -/
theorem State.forget_tasks (s : State) (c : Nat) : (s.forget c).tasks = s.tasks := by
  refine (foldl_frame (g := State.tasks) State.dropCode (fun _ _ => rfl) _ _).trans ?_
  refine (foldl_frame (g := State.tasks) State.removeQueue State.removeQueue_tasks _ _).trans ?_
  exact foldl_frame (g := State.tasks) _ (fun t (l : Launch) => State.tasks_of_sansRefs (t.dropRefs_sansRefs l.refs)) _ s

theorem State.unbindTask_tasks (s : State) (k : Nat) : (s.unbindTask k).tasks = terase s.tasks k := by
  refine (State.tasks_of_sansTraffic (State.settleOwner_sansTraffic _ (slotPair k))).trans ?_
  have hp : (s.performWhere fun q => q.owed.slot == k).tasks = s.tasks :=
    State.tasks_of_sansTraffic (s.performWhere_sansTraffic _)
  show terase (State.tasks (if _ then _ else _)) k = _
  rw [← hp]
  split <;> rfl

end Sys2Proof.Machine
end

section
/-! SUPPORT. The registers of a function under events, completions and interface errors (spec 20 R470, R472, R478). -/
namespace Sys2Proof.Machine

/-! ## Events (20 R472) -/

/-- An event for a function touches the events held and, when it is lost, the functions' counts. -/
theorem State.tellFn_eq (s : State) (f code : Nat) (data : List Nat) :
    s.tellFn f code data = { s with events := (s.tellFn f code data).events, fns := (s.tellFn f code data).fns } := by
  unfold State.tellFn
  split <;> rfl

@[simp] theorem State.tellFn_tasks (s : State) (f code : Nat) (data : List Nat) : (s.tellFn f code data).tasks = s.tasks := by
  rw [State.tellFn_eq]

@[simp] theorem State.tellFn_ctxs (s : State) (f code : Nat) (data : List Nat) : (s.tellFn f code data).ctxs = s.ctxs := by
  rw [State.tellFn_eq]

@[simp] theorem State.tellFn_xfers (s : State) (f code : Nat) (data : List Nat) : (s.tellFn f code data).xfers = s.xfers := by
  rw [State.tellFn_eq]

@[simp] theorem State.tellFn_requests (s : State) (f code : Nat) (data : List Nat) :
    (s.tellFn f code data).requests = s.requests := by
  rw [State.tellFn_eq]

@[simp] theorem State.tellFn_keys (s : State) (f code : Nat) (data : List Nat) : (s.tellFn f code data).keys = s.keys := by
  rw [State.tellFn_eq]

@[simp] theorem State.tellFn_flrNext (s : State) (f code : Nat) (data : List Nat) :
    (s.tellFn f code data).flrNext = s.flrNext := by
  rw [State.tellFn_eq]

@[simp] theorem State.tellFn_ctx (s : State) (f code : Nat) (data : List Nat) (c : Nat) :
    (s.tellFn f code data).ctx c = s.ctx c := by
  simp [State.ctx]

/-- The registers of a function but for the count of lost events. -/
def Fn.sansLost (x : Fn) : Fn := { x with lost := 0 }

theorem Fn.eq_of_sansLost {x y : Fn} (h : x.sansLost = y.sansLost) : x = { y with lost := x.lost } := by
  have : { x.sansLost with lost := x.lost } = { y.sansLost with lost := x.lost } := by rw [h]
  exact this

/-- Of a function's registers an event moves the count of lost events alone. -/
theorem State.tellFn_fn_sansLost (s : State) (g code : Nat) (data : List Nat) (f : Nat) :
    ((s.tellFn g code data).fn f).sansLost = (s.fn f).sansLost := by
  unfold State.tellFn
  split
  · rfl
  · by_cases h : f = g
    · rw [h, State.setFn_fn_same]
      rfl
    · rw [State.setFn_fn_other s _ h]

/-! ## Completions (20 R471, R472) -/

/-- What the writing of completions leaves alone: every `CRTAIL`, and the agenda. -/
def State.tailsAgenda (s : State) : (Nat → Nat) × List Activity := (fun f => (s.fn f).crtail, s.agenda)

theorem State.setFn_tailsAgenda (s : State) (f : Nat) {x : Fn} (h : x.crtail = (s.fn f).crtail) :
    (s.setFn f x).tailsAgenda = s.tailsAgenda := by
  have hg : ∀ g, ((s.setFn f x).fn g).crtail = (s.fn g).crtail := by
    intro g
    by_cases hg : g = f
    · rw [hg, State.setFn_fn_same, h]
    · rw [State.setFn_fn_other s x hg]
  simp [State.tailsAgenda, hg]

theorem State.putBytes_tailsAgenda (s : State) (key : Nat) (l : List Byte) :
    (s.putBytes key l).tailsAgenda = s.tailsAgenda := by
  induction l generalizing s key with
  | nil => rfl
  | cons b l ih => exact ih (s.putByte key b) (key + 1)

theorem State.putEntry_tailsAgenda (s : State) (f : Nat) (e : List Byte) : (s.putEntry f e).tailsAgenda = s.tailsAgenda := by
  have hb := s.putBytes_tailsAgenda (keyHost ((s.fn f).crbase.toNat + 32 * (s.fn f).crhead)) e
  refine (State.setFn_tailsAgenda _ f ?_).trans hb
  exact (congrFun (congrArg Prod.fst hb) f).symm

theorem State.pumpCompletions_tailsAgenda (s : State) (f : Nat) (l : List (List Byte)) :
    (s.pumpCompletions f l).tailsAgenda = s.tailsAgenda := by
  induction l generalizing s with
  | nil => rfl
  | cons e l ih =>
    simp only [State.pumpCompletions]
    split
    · refine (ih _).trans (Eq.trans ?_ (s.putEntry_tailsAgenda f e))
      exact State.setFn_tailsAgenda _ f rfl
    · rfl

theorem State.pumpEvents_tailsAgenda (s : State) (l : List Event) : (s.pumpEvents l).tailsAgenda = s.tailsAgenda := by
  induction l generalizing s with
  | nil => rfl
  | cons e l ih =>
    simp only [State.pumpEvents]
    split
    · rw [ih, State.putEntry_tailsAgenda]
    · exact ih _

theorem State.pump_tailsAgenda (s : State) : s.pump.tailsAgenda = s.tailsAgenda := by
  have hc : ∀ l : List Nat, (l.foldl (fun s f => s.pumpCompletions f (s.fn f).waiting) s).tailsAgenda = s.tailsAgenda :=
    fun l => foldl_frame _ (fun t f => t.pumpCompletions_tailsAgenda f (t.fn f).waiting) l s
  simp only [State.pump]
  split
  · exact hc _
  · exact (State.pumpEvents_tailsAgenda _ _).trans (hc _)

theorem State.pump_crtail (s : State) (f : Nat) : (s.pump.fn f).crtail = (s.fn f).crtail :=
  congrFun (congrArg Prod.fst s.pump_tailsAgenda) f

theorem State.pump_agenda (s : State) : s.pump.agenda = s.agenda := congrArg Prod.snd s.pump_tailsAgenda

/-! ## A broken interface (20 R478) -/

theorem State.haltProtected_fn_sansLost (s : State) (f g : Nat) :
    ((s.haltProtected f).fn g).sansLost = (s.fn g).sansLost := by
  refine foldl_frame (g := fun t => (t.fn g).sansLost) _ (fun t c => ?_) _ s
  simp only
  split
  · exact State.tellFn_fn_sansLost _ _ _ _ g
  · rfl

/-- One round of `haltProtected`: a protected context has halted, and every other context is as it was. -/
theorem State.haltProtected_round (t : State) (c d : Nat) :
    let x := t.ctx c
    let u := if x.prot && x.st != .halted then
        (t.setCtx c { x with st := .halted, halt := true, stage := .none }).tellCtx c evHalted [c]
      else t
    (u.ctx d).prot = (t.ctx d).prot ∧ ((t.ctx d).st = .halted → (u.ctx d).st = .halted)
      ∧ ((t.ctx c).prot = true → (u.ctx c).st = .halted) := by
  simp only [State.tellCtx]
  split
  · by_cases h : d = c
    · subst h
      simp
    · simp [State.setCtx_ctx_other, h]
  · rename_i h
    simpa using h

/-- Every protected context of the function has halted. -/
theorem State.haltProtected_halted (s : State) (f : Nat) :
    ∀ c ∈ s.fnCtxs f, (s.ctx c).prot = true → ((s.haltProtected f).ctx c).st = .halted := by
  refine foldl_establishes (I := fun t => ∀ c, (t.ctx c).prot = (s.ctx c).prot)
    (Q := fun c t => (s.ctx c).prot = true → (t.ctx c).st = .halted) _ ?_ ?_ ?_ _ s (fun _ => rfl)
  · exact fun t c h d => (t.haltProtected_round c d).1.trans (h d)
  · exact fun t c h hp => (t.haltProtected_round c c).2.2 ((h c).trans hp)
  · exact fun t c d h hp => (t.haltProtected_round d c).2.1 (h hp)

/-- A locked or running interface breaks: it moves to ERROR, and every protected context of the function halts. -/
theorem State.breakInterface_of_locked {s : State} {f : Nat} (h : (s.fn f).tdi = 1 ∨ (s.fn f).tdi = 2) :
    (s.breakInterface f).fn f = { s.fn f with tdi := 3, lost := ((s.breakInterface f).fn f).lost }
      ∧ ∀ c ∈ s.fnCtxs f, (s.ctx c).prot = true → ((s.breakInterface f).ctx c).st = .halted := by
  let t := s.setFn f { s.fn f with tdi := 3 }
  have ht : t.fn f = { s.fn f with tdi := 3 } := s.setFn_fn_same f _
  have hb : s.breakInterface f = t.haltProtected f := if_pos h
  rw [hb]
  exact ⟨Fn.eq_of_sansLost ((t.haltProtected_fn_sansLost f f).trans (by rw [ht])), t.haltProtected_halted f⟩

theorem State.breakInterface_of_unlocked {s : State} {f : Nat} (h : ¬((s.fn f).tdi = 1 ∨ (s.fn f).tdi = 2)) :
    s.breakInterface f = s := if_neg h

theorem State.breakInterface_tdi (s : State) (f : Nat) :
    ((s.breakInterface f).fn f).tdi = if (s.fn f).tdi = 1 ∨ (s.fn f).tdi = 2 then 3 else (s.fn f).tdi := by
  split
  · rename_i h
    rw [(State.breakInterface_of_locked h).1]
  · rename_i h
    rw [State.breakInterface_of_unlocked h]

theorem State.breakInterface_sess (s : State) (f : Nat) : ((s.breakInterface f).fn f).sess = (s.fn f).sess := by
  by_cases h : (s.fn f).tdi = 1 ∨ (s.fn f).tdi = 2
  · rw [(State.breakInterface_of_locked h).1]
  · rw [State.breakInterface_of_unlocked h]

/-! ## Writes of the ring registers (20 R470, R478) -/

theorem State.ringWrite_of_unlocked {s : State} {f : Nat} (h1 : (s.fn f).tdi ≠ 1) (h2 : (s.fn f).tdi ≠ 2) (g : Fn → Fn) :
    s.ringWrite f g = s.setFn f (g (s.fn f)) := if_neg (not_or.mpr ⟨h1, h2⟩)

theorem State.ringWrite_of_locked {s : State} {f : Nat} (h : (s.fn f).tdi = 1 ∨ (s.fn f).tdi = 2) (g : Fn → Fn) :
    s.ringWrite f g = s.breakInterface f := if_pos h

end Sys2Proof.Machine
end

section
/-! SUPPORT. The steps of a function-level reset (spec 20 R483), and what each does to the function's contexts. -/
namespace Sys2Proof.Machine

/-! ## The beginning of a reset: step 1 -/

/-- A reset that begins touches functions and contexts alone. -/
theorem State.startFlr_eq (s : State) (f : Nat) :
    s.startFlr f = { s with fns := (s.startFlr f).fns, ctxs := (s.startFlr f).ctxs } := by
  simp only [State.startFlr]
  split
  · rfl
  · refine foldl_keeps (P := fun t => t = { s with fns := t.fns, ctxs := t.ctxs }) _ (fun t c h => ?_) _ _ rfl
    simp only [State.setCtx]
    rw [h]

theorem State.startFlr_fn {s : State} {f : Nat} (h : (s.fn f).flr = 0) :
    (s.startFlr f).fn f = { s.fn f with flr := 1, rst := true } := by
  rw [State.startFlr, if_neg (fun hne => hne h)]
  exact (foldl_frame (g := fun t => t.fn f) _ (fun _ _ => by rfl) _ _).trans (s.setFn_fn_same f _)

/-- The halt line of every context of the function is up. -/
theorem State.startFlr_halted {s : State} {f : Nat} (h : (s.fn f).flr = 0) :
    ∀ c ∈ s.fnCtxs f, ((s.startFlr f).ctx c).st = .halted ∧ ((s.startFlr f).ctx c).halt = true := by
  rw [State.startFlr, if_neg (fun hne => hne h)]
  refine foldl_establishes (I := fun _ => True) (Q := fun c t => (t.ctx c).st = .halted ∧ (t.ctx c).halt = true) _
    (fun _ _ _ => trivial) (fun t c _ => ?_) (fun t c d hc => ?_) _ _ trivial
  · simp
  · by_cases hd : c = d
    · simp [hd]
    · rwa [State.setCtx_ctx_other t _ hd]

/-! ## Step 3: what is on its way is gone -/

theorem State.sweepBoards_moved (s : State) (c : Nat) : (s.sweepBoards.ctx c).moved = (s.ctx c).moved :=
  tget_map_frame Ctx.moved Ctx.init _ (fun _ => by rfl) (fun _ => by rfl) s.ctxs c

theorem State.abortTraffic_moved (s : State) (c : Nat) : ((s.abortTraffic c).ctx c).moved = [] := by
  simp [State.abortTraffic, State.sweepBoards_moved]

theorem State.abortTraffic_moved_other (s : State) {c d : Nat} (h : d ≠ c) :
    ((s.abortTraffic c).ctx d).moved = (s.ctx d).moved := by
  simp only [State.abortTraffic, State.sweepBoards_moved, State.setCtx_ctx_other _ _ h]
  rfl

/-- Nothing is on its way for a context. -/
structure State.NoTraffic (s : State) (c : Nat) : Prop where
  xfers : ∀ q ∈ s.xfers, q.ctx ≠ c
  requests : ∀ q ∈ s.requests, q.ctx ≠ c
  moved : (s.ctx c).moved = []

theorem State.abortTraffic_noTraffic (s : State) (c : Nat) : (s.abortTraffic c).NoTraffic c where
  xfers := fun _ hq => bne_iff_ne.mp (List.mem_filter.mp hq).2
  requests := fun _ hq => bne_iff_ne.mp (List.mem_filter.mp hq).2
  moved := s.abortTraffic_moved c

theorem State.NoTraffic.abortTraffic {s : State} {c : Nat} (h : s.NoTraffic c) (d : Nat) : (s.abortTraffic d).NoTraffic c where
  xfers := fun q hq => h.xfers q (List.mem_filter.mp hq).1
  requests := fun q hq => h.requests q (List.mem_filter.mp hq).1
  moved := by
    by_cases hc : c = d
    · rw [hc, s.abortTraffic_moved d]
    · rw [s.abortTraffic_moved_other hc, h.moved]

/-! ## Step 5: tables and queues are invalid -/

theorem State.invalidateCtx_noObjects (s : State) (c : Nat) :
    ((s.invalidateCtx c).ctx c).objs = [] ∧ ((s.invalidateCtx c).ctx c).nobj = 0 := by
  simp [State.invalidateCtx]

theorem State.invalidateCtx_ctx_other (s : State) {c d : Nat} (h : d ≠ c) : (s.invalidateCtx c).ctx d = s.ctx d := by
  simp only [State.invalidateCtx, State.setCtx_ctx_other _ _ h]
  refine congrArg (fun t => tget Ctx.init t d) ?_
  exact foldl_frame (g := State.ctxs) State.removeQueue State.removeQueue_ctxs _ _

/-! ## Step 6: nothing of a context is left -/

theorem State.ctxSlots_eq_nil_iff (s : State) (c : Nat) : s.ctxSlots c = [] ↔ ∀ e ∈ s.tasks, e.2.ctx ≠ c := by
  simp [State.ctxSlots, List.filter_eq_nil_iff]

theorem State.ctxSlots_congr {s t : State} (h : t.tasks = s.tasks) (c : Nat) : t.ctxSlots c = s.ctxSlots c := by
  simp only [State.ctxSlots, h]

theorem State.mem_ctxSlots {s : State} {c : Nat} {e : Nat × Task} (he : e ∈ s.tasks) (hc : e.2.ctx = c) : e.1 ∈ s.ctxSlots c :=
  List.mem_map_of_mem (List.mem_filter.mpr ⟨he, beq_iff_eq.mpr hc⟩)

theorem State.foldl_unbindTask_tasks (l : List Nat) (s : State) :
    (l.foldl (fun s k => s.unbindTask k) s).tasks = l.foldl terase s.tasks := by
  induction l generalizing s with
  | nil => rfl
  | cons k l ih =>
    rw [List.foldl_cons, ih, State.unbindTask_tasks]
    rfl

/-- The erasure of a context unbinds its tasks, and no other. -/
theorem State.eraseCtx_tasks (s : State) (c : Nat) : (s.eraseCtx c).tasks = (s.ctxSlots c).foldl terase s.tasks := by
  simp only [State.eraseCtx, State.forget_tasks]
  refine (foldl_frame (g := State.tasks) _ (fun _ _ => by rfl) _ _).trans ?_
  rw [State.foldl_unbindTask_tasks]
  have cleared : ∀ (l : List Nat) (m : List Nat), (m.foldl (fun s k => s.dropBytes k (k + cellarUnit))
      (l.foldl (fun s p => (s.zeroStore p 0 (2 ^ 25)).setPair p
        { (s.zeroStore p 0 (2 ^ 25)).pair p with cache := [], up := [], down := [], sb := [] }) s)).tasks = s.tasks :=
    fun l m => (foldl_frame (g := State.tasks) _ (fun _ _ => by rfl) m _).trans
      (foldl_frame (g := State.tasks) _ (fun _ _ => by rfl) l s)
  refine congr (congrArg (List.foldl terase) ?_) (State.ctxSlots_congr (cleared _ _) c)
  refine (foldl_frame (g := State.tasks) _ (fun t k => ?_) _ _).trans (cleared _ _)
  split <;> rfl

theorem State.eraseCtx_sorted {s : State} (h : tsorted s.tasks = true) (c : Nat) : tsorted (s.eraseCtx c).tasks = true := by
  rw [State.eraseCtx_tasks]
  exact foldl_terase_sorted _ h

theorem State.eraseCtx_ctxSlots {s : State} (h : tsorted s.tasks = true) (c : Nat) : (s.eraseCtx c).ctxSlots c = [] := by
  rw [State.ctxSlots_eq_nil_iff, State.eraseCtx_tasks]
  intro e he hc
  exact key_notMem_of_mem_foldl_terase h he (State.mem_ctxSlots (mem_of_mem_foldl_terase he) hc)

theorem State.eraseCtx_ctxSlots_nil {s : State} {c : Nat} (h : s.ctxSlots c = []) (d : Nat) : (s.eraseCtx d).ctxSlots c = [] := by
  rw [State.ctxSlots_eq_nil_iff] at h ⊢
  rw [State.eraseCtx_tasks]
  exact fun e he => h e (mem_of_mem_foldl_terase he)

/-! ## The end of a step -/

/-- Each of the seven steps can end; the first only once every engine of the function's contexts is still. -/
theorem State.flrStep_some {s : State} {f : Nat} (h1 : 1 ≤ (s.fn f).flr) (h7 : (s.fn f).flr ≤ 7)
    (hq : (s.fn f).flr = 1 → ∀ c ∈ s.fnCtxs f, s.quiet c = true) : ∃ t, s.flrStep f = some t := by
  unfold State.flrStep
  generalize (s.fn f).flr = n at h1 h7 hq ⊢
  have hn : n = 1 ∨ n = 2 ∨ n = 3 ∨ n = 4 ∨ n = 5 ∨ n = 6 ∨ n = 7 := by omega
  obtain rfl | rfl | rfl | rfl | rfl | rfl | rfl := hn
  · exact ⟨s, if_pos (List.all_eq_true.mpr (hq rfl))⟩
  all_goals exact ⟨_, rfl⟩

/-- Outside the seven steps nothing ends. -/
theorem State.flrStep_none {s : State} {f : Nat} (h : (s.fn f).flr = 0 ∨ 7 < (s.fn f).flr) : s.flrStep f = none := by
  unfold State.flrStep
  split
  case h_8 => rfl
  all_goals omega

/-- Step 1 waits for a matrix engine that has not stopped. -/
theorem State.flrStep_none_of_busy {s : State} {f : Nat} (h : (s.fn f).flr = 1) (hb : ∃ c ∈ s.fnCtxs f, s.quiet c = false) :
    s.flrStep f = none := by
  obtain ⟨c, hc, hq⟩ := hb
  have : ¬(s.fnCtxs f).all s.quiet = true := by
    intro ha
    simp [List.all_eq_true.mp ha c hc] at hq
  simp only [State.flrStep, h]
  exact if_neg this

section
variable {s t : State} {f : Nat} (ht : s.flrStep f = some t)
include ht

theorem State.flrStep_noTraffic (h : (s.fn f).flr = 3) : ∀ c ∈ s.fnCtxs f, t.NoTraffic c := by
  simp only [State.flrStep, h, Option.some.injEq] at ht
  subst ht
  exact foldl_establishes (I := fun _ => True) (Q := fun c t => t.NoTraffic c) _ (fun _ _ _ => trivial)
    (fun t c _ => t.abortTraffic_noTraffic c) (fun t c d hc => hc.abortTraffic d) _ s trivial

theorem State.flrStep_noKeys (h : (s.fn f).flr = 4) : ∀ c ∈ s.fnCtxs f, ∀ e ∈ t.keys, e.2.ctx ≠ some c := by
  simp only [State.flrStep, h, Option.some.injEq] at ht
  subst ht
  exact foldl_establishes (I := fun _ => True) (Q := fun c t => ∀ e ∈ t.keys, e.2.ctx ≠ some c) _ (fun _ _ _ => trivial)
    (fun t c _ e he => bne_iff_ne.mp (List.mem_filter (p := fun (e : Nat × KeySlot) => e.2.ctx != some c).mp he).2)
    (fun t c d hc e he => hc e (List.mem_filter.mp he).1) _ s trivial

theorem State.flrStep_noObjects (h : (s.fn f).flr = 5) : ∀ c ∈ s.fnCtxs f, (t.ctx c).objs = [] ∧ (t.ctx c).nobj = 0 := by
  simp only [State.flrStep, h, Option.some.injEq] at ht
  subst ht
  refine foldl_establishes (I := fun _ => True) (Q := fun c t => (t.ctx c).objs = [] ∧ (t.ctx c).nobj = 0) _
    (fun _ _ _ => trivial) (fun t c _ => t.invalidateCtx_noObjects c) (fun t c d hc => ?_) _ s trivial
  by_cases hd : c = d
  · rw [hd]
    exact t.invalidateCtx_noObjects d
  · rwa [t.invalidateCtx_ctx_other hd]

theorem State.flrStep_noTasks (h : (s.fn f).flr = 6) (hs : tsorted s.tasks = true) : ∀ c ∈ s.fnCtxs f, t.ctxSlots c = [] := by
  simp only [State.flrStep, h, Option.some.injEq] at ht
  subst ht
  exact foldl_establishes (I := fun t => tsorted t.tasks = true) (Q := fun c t => t.ctxSlots c = []) _
    (fun _ c h => State.eraseCtx_sorted h c) (fun _ c h => State.eraseCtx_ctxSlots h c)
    (fun _ _ d hc => State.eraseCtx_ctxSlots_nil hc d) _ s hs

theorem State.flrStep_released (h : (s.fn f).flr = 7) :
    t = s.setFn f { s.fn f with tdi := 0, sess := false, rst := false, flr := 7 } := by
  simp only [State.flrStep, h, Option.some.injEq] at ht
  exact ht.symm

end

/-- A step has ended: the function's next step, or none after the seventh, and the event. -/
def State.endFlrStep (t : State) (f n : Nat) : State :=
  (t.setFn f { t.fn f with flr := if n = 7 then 0 else n + 1 }).tellFn f evFlr [f, n]

theorem State.endFlrStep_fn (t : State) (f n : Nat) :
    (t.endFlrStep f n).fn f
      = { t.fn f with flr := if n = 7 then 0 else n + 1, lost := ((t.endFlrStep f n).fn f).lost } := by
  let y : Fn := { t.fn f with flr := if n = 7 then 0 else n + 1 }
  have hy : ((t.endFlrStep f n).fn f).sansLost = y.sansLost :=
    (State.tellFn_fn_sansLost _ f evFlr [f, n] f).trans (congrArg Fn.sansLost (t.setFn_fn_same f y))
  exact Fn.eq_of_sansLost hy

theorem State.endFlrStep_ctx (t : State) (f n c : Nat) : (t.endFlrStep f n).ctx c = t.ctx c := by
  simp [State.endFlrStep]

/-- No function waits for this one's reset. -/
theorem State.nextFlr_of_last {s : State} {f : Nat} (h : ∀ g l, s.flrNext ≠ f :: g :: l) :
    ∃ l, s.nextFlr f = { s with flrNext := l } := by
  unfold State.nextFlr
  split
  · exact ⟨s.flrNext, rfl⟩
  · rename_i g l hn
    split
    · exact ⟨s.flrNext, rfl⟩
    · rename_i hg
      have hg : g = f := Decidable.not_not.mp hg
      subst hg
      cases l with
      | nil => exact ⟨[], rfl⟩
      | cons g' l => exact absurd hn (h g' l)

theorem execFlrStepEnd_none {s : State} {f : Nat} (h : s.flrStep f = none) : execFlrStepEnd f s = .next s := by
  simp only [execFlrStepEnd, h]

/-- The end of a step, but for which function's reset comes next. -/
theorem execFlrStepEnd_some {s t : State} {f : Nat} (h : s.flrStep f = some t)
    (hl : (s.fn f).flr = 7 → ∀ g l, s.flrNext ≠ f :: g :: l) :
    ∃ l, execFlrStepEnd f s = .next { t.endFlrStep f (s.fn f).flr with flrNext := l } := by
  have he : execFlrStepEnd f s = .next (if (s.fn f).flr = 7 then (t.endFlrStep f (s.fn f).flr).nextFlr f
      else t.endFlrStep f (s.fn f).flr) := by
    rw [execFlrStepEnd, h]
    rfl
  rw [he]
  by_cases h7 : (s.fn f).flr = 7
  · have hn : (t.endFlrStep f 7).flrNext = s.flrNext := by
      simp [State.flrStep_released h h7, State.endFlrStep]
    rw [if_pos h7, h7]
    obtain ⟨l, hl⟩ := State.nextFlr_of_last (s := t.endFlrStep f 7) (f := f) (by rw [hn]; exact hl h7)
    exact ⟨l, congrArg _ hl⟩
  · rw [if_neg h7]
    exact ⟨(t.endFlrStep f (s.fn f).flr).flrNext, rfl⟩

end Sys2Proof.Machine
end

section
/-! SUPPORT. O58: register writes, broken interfaces and function-level resets, clause by clause, and the statement. -/
namespace Sys2Proof.Machine

/-! ## Registers of a function and of a die -/

/-- 00 R9, 20 R470: `MRHEAD` reads as zero, and `FSTAT` as its fields with zero between them. -/
theorem State.hostRead_fstat (s : State) (f : Nat) :
    (s.fn f).page.getD 2 0 = 0 ∧ s.hostRead (.fstat f) = BitVec.ofNat 64 ((s.fn f).lost * 2 ^ 32
      + (if (s.fn f).rst then 8 else 0) + (if (s.fn f).sess then 4 else 0) + (s.fn f).tdi) := by
  refine ⟨rfl, congrArg (BitVec.ofNat 64) ?_⟩
  simp only [Fn.fstat, at_, boolNat]
  cases (s.fn f).rst <;> cases (s.fn f).sess <;> rfl

theorem exec_registerWrite_ring_unlocked {s : State} {f : Nat} (h1 : (s.fn f).tdi ≠ 1) (h2 : (s.fn f).tdi ≠ 2) (v : Word) :
    exec (.registerWrite (.mrbase f) v) s = .next (s.setFn f { s.fn f with mrbase := v &&& ~~~63 })
      ∧ exec (.registerWrite (.mrsize f) v) s = .next (s.setFn f { s.fn f with mrsize := v.toNat % 2 ^ 13 })
      ∧ exec (.registerWrite (.crbase f) v) s = .next (s.setFn f { s.fn f with crbase := v &&& ~~~31 })
      ∧ exec (.registerWrite (.crsize f) v) s = .next (s.setFn f { s.fn f with crsize := v.toNat % 2 ^ 13 }) := by
  have write := fun g => congrArg (Host.Outcome.next : State → Out) (State.ringWrite_of_unlocked h1 h2 g)
  exact ⟨write _, write _, write _, write _⟩

/-- A write of a frozen register breaks the interface instead. -/
theorem exec_registerWrite_ring_locked {s : State} {f : Nat} (h : (s.fn f).tdi = 1 ∨ (s.fn f).tdi = 2) (v : Word) {r : HostReg}
    (hr : r ∈ [HostReg.mrbase f, .mrsize f, .crbase f, .crsize f]) :
    exec (.registerWrite r v) s = .next (s.breakInterface f) := by
  have write := fun g => congrArg (Host.Outcome.next : State → Out) (State.ringWrite_of_locked h g)
  simp only [List.mem_cons, List.not_mem_nil, or_false] at hr
  obtain rfl | rfl | rfl | rfl := hr
  all_goals exact write _

theorem exec_registerWrite_readOnly (s : State) (f : Nat) (v : Word) {r : HostReg}
    (hr : r ∈ [HostReg.mrtail f, .crhead f, .fstat f, .wtbank f]) : exec (.registerWrite r v) s = .next s := by
  simp only [List.mem_cons, List.not_mem_nil, or_false] at hr
  obtain rfl | rfl | rfl | rfl := hr
  all_goals rfl

/-- The write of `CRTAIL` frees entries: what waits is written, and the ring is read next. -/
theorem exec_registerWrite_crtail (s : State) (f : Nat) (v : Word) :
    ∃ u : State, exec (.registerWrite (.crtail f) v) s = .next u ∧ (u.fn f).crtail = v.toNat % 2 ^ 12
      ∧ u.agenda = s.agenda ++ [.run (.host f)] := by
  let t := s.setFn f { s.fn f with crtail := v.toNat % 2 ^ 12 }
  have htail : (t.pump.fn f).crtail = v.toNat % 2 ^ 12 := by
    rw [t.pump_crtail, s.setFn_fn_same]
  have hagenda : t.pump.agenda = s.agenda := t.pump_agenda
  exact ⟨t.pump.ringNext f, rfl, htail, by rw [← hagenda]; rfl⟩

theorem exec_registerWrite_wpcfg (s : State) (d : Nat) (v : Word) :
    exec (.registerWrite (.wpcfg d) v) s = .next (s.setDie d { s.die d with
      wlim := max 1 (v.toNat / 2 ^ 20 % 2 ^ 24), itmax := max 1 (v.toNat % 16) }) := by
  have hw : bits v.toNat 43 20 = v.toNat / 2 ^ 20 % 2 ^ 24 := by simp [bits, Nat.shiftRight_eq_div_pow]
  have hi : bits v.toNat 3 0 = v.toNat % 16 := by simp [bits]
  show Host.Outcome.next (s.setDie d _) = _
  rw [hw, hi]

/-! ## A broken interface -/

/-- 20 R478: a locked or running interface goes to ERROR, and every other one keeps its state; a session lost is gone. -/
theorem exec_interfaceError (s : State) (f : Nat) (why : IfaceError) :
    ∃ u : State, exec (.interfaceError f why) s = .next u
      ∧ (u.fn f).tdi = (if (s.fn f).tdi = 1 ∨ (s.fn f).tdi = 2 then 3 else (s.fn f).tdi)
      ∧ (u.fn f).sess = (if why = .sessionLoss then false else (s.fn f).sess)
      ∧ ((s.fn f).tdi = 1 ∨ (s.fn f).tdi = 2 → ∀ c ∈ s.fnCtxs f, (s.ctx c).prot = true → (u.ctx c).st = .halted) := by
  show ∃ u, Host.Outcome.next (if why = .sessionLoss then s.loseSession f else s.breakInterface f) = .next u ∧ _
  by_cases hw : why = .sessionLoss
  · let t := s.setFn f { s.fn f with sess := false }
    have ht : t.fn f = { s.fn f with sess := false } := s.setFn_fn_same f _
    rw [if_pos hw, if_pos hw]
    refine ⟨t.breakInterface f, rfl, ?_, ?_, fun h => ?_⟩
    · rw [t.breakInterface_tdi, ht]
    · rw [t.breakInterface_sess, ht]
    · exact (State.breakInterface_of_locked (s := t) (by rwa [ht])).2
  · rw [if_neg hw, if_neg hw]
    exact ⟨_, rfl, s.breakInterface_tdi f, s.breakInterface_sess f, fun h => (State.breakInterface_of_locked h).2⟩

/-! ## Function-level resets -/

theorem exec_functionLevelReset_virtual {s : State} {f : Nat} (hf : f ≠ 0) :
    exec (.functionLevelReset f) s = .next (s.startFlr f) := congrArg Host.Outcome.next (if_pos hf)

/-- Function 0 comes after every virtual function, and function 1 begins. -/
theorem exec_functionLevelReset_physical {s : State} (hn : s.flrNext = []) (h : (s.fn 1).flr = 0) :
    ∃ u : State, exec (.functionLevelReset 0) s = .next u
      ∧ u.flrNext = (List.range 63).map (· + 1) ++ [0] ∧ (u.fn 1).flr = 1 := by
  let t : State := { s with flrNext := rangeFrom 1 63 ++ [0] }
  have he : exec (.functionLevelReset 0) s = .next (t.startFlr 1) := by
    show Host.Outcome.next (if 0 ≠ 0 then _ else if !s.flrNext.isEmpty then s else t.startFlr 1) = _
    rw [hn]
    rfl
  have hlist : t.flrNext = (List.range 63).map (· + 1) ++ [0] := by
    simp only [t, rangeFrom, Nat.add_comm 1]
  refine ⟨_, he, ?_, ?_⟩
  · rw [t.startFlr_eq 1]
    exact hlist
  · rw [State.startFlr_fn (s := t) h]

/-- What the end of each step of a reset brings about (20 R483). -/
theorem exec_flrStepEnd {s : State} {f : Nat} (h1 : 1 ≤ (s.fn f).flr) (h7 : (s.fn f).flr ≤ 7)
    (hq : (s.fn f).flr = 1 → ∀ c ∈ s.fnCtxs f, s.quiet c = true)
    (hl : (s.fn f).flr = 7 → ∀ g l, s.flrNext ≠ f :: g :: l) :
    let n := (s.fn f).flr
    ∃ u : State, exec (.flrStepEnd f) s = .next u ∧ (u.fn f).flr = (if n = 7 then 0 else n + 1)
      ∧ (n = 3 → (∀ q ∈ u.xfers, q.ctx ∉ s.fnCtxs f) ∧ (∀ q ∈ u.requests, q.ctx ∉ s.fnCtxs f)
        ∧ ∀ c ∈ s.fnCtxs f, (u.ctx c).moved = [])
      ∧ (n = 4 → ∀ e ∈ u.keys, ∀ c ∈ s.fnCtxs f, e.2.ctx ≠ some c)
      ∧ (n = 5 → ∀ c ∈ s.fnCtxs f, (u.ctx c).objs = [] ∧ (u.ctx c).nobj = 0)
      ∧ (n = 6 → tsorted s.tasks = true → ∀ c ∈ s.fnCtxs f, u.ctxSlots c = [])
      ∧ (n = 7 → (u.fn f).tdi = 0 ∧ (u.fn f).sess = false ∧ (u.fn f).rst = false) := by
  intro n
  obtain ⟨t, ht⟩ := State.flrStep_some h1 h7 hq
  obtain ⟨l, hu⟩ := execFlrStepEnd_some ht hl
  let v := t.endFlrStep f n
  have hctx : ∀ c, v.ctx c = t.ctx c := t.endFlrStep_ctx f n
  have hfn : v.fn f = { t.fn f with flr := if n = 7 then 0 else n + 1, lost := (v.fn f).lost } := t.endFlrStep_fn f n
  have hxfers : v.xfers = t.xfers := State.tellFn_xfers ..
  have hrequests : v.requests = t.requests := State.tellFn_requests ..
  have hkeys : v.keys = t.keys := State.tellFn_keys ..
  have htasks : v.tasks = t.tasks := State.tellFn_tasks ..
  refine ⟨{ v with flrNext := l }, hu, congrArg Fn.flr hfn, fun h => ?_, fun h => ?_, fun h => ?_, fun h hs => ?_, fun h => ?_⟩
  · have gone := State.flrStep_noTraffic ht h
    refine ⟨fun q hq hc => ?_, fun q hq hc => ?_, fun c hc => ?_⟩
    · exact (gone q.ctx hc).xfers q (hxfers ▸ hq) rfl
    · exact (gone q.ctx hc).requests q (hrequests ▸ hq) rfl
    · exact (congrArg Ctx.moved (hctx c)).trans (gone c hc).moved
  · exact fun e he c hc => State.flrStep_noKeys ht h c hc e (hkeys ▸ he)
  · intro c hc
    have gone := State.flrStep_noObjects ht h c hc
    rwa [← hctx c] at gone
  · exact fun c hc => (State.ctxSlots_congr htasks c).trans (State.flrStep_noTasks ht h hs c hc)
  · have hreleased : t.fn f = { s.fn f with tdi := 0, sess := false, rst := false, flr := 7 } := by
      rw [State.flrStep_released ht h, State.setFn_fn_same]
    rw [hreleased] at hfn
    exact ⟨congrArg Fn.tdi hfn, congrArg Fn.sess hfn, congrArg Fn.rst hfn⟩

/-- Settles O58: each clause is what one instruction does to the function's registers and contexts; the steps of a reset are
folds over the function's contexts, of which each round keeps what the rounds before it have brought about. -/
theorem functionEvents : Obligations.FunctionEvents := by
  unfold Obligations.FunctionEvents
  intro s f x n
  refine ⟨fun i => rfl, fun h1 h2 => exec_registerWrite_ring_unlocked h1 h2, fun h v r hr => ?_, s.hostRead_fstat f,
    fun v r hr => exec_registerWrite_readOnly s f v hr, exec_registerWrite_crtail s f, exec_registerWrite_wpcfg s f,
    exec_interfaceError s f, fun hf h => ?_, exec_functionLevelReset_physical, fun h => ?_, fun h hb => ?_, exec_flrStepEnd⟩
  · exact ⟨_, exec_registerWrite_ring_locked h v hr, State.breakInterface_of_locked h⟩
  · exact ⟨_, exec_functionLevelReset_virtual hf, State.startFlr_fn h, State.startFlr_halted h, s.startFlr_eq f⟩
  · exact execFlrStepEnd_none (State.flrStep_none h)
  · exact execFlrStepEnd_none (State.flrStep_none_of_busy h hb)

end Sys2Proof.Machine
end

section
/-! SUPPORT. O2: the decoders of the scalar word and of the T form read back what the encoder writes. -/
namespace Sys2Proof

/-! ## A field read back as a bit vector -/

@[simp] theorem reg_toNat (x : BitVec 5) : reg x.toNat = x := by simp [reg]
@[simp] theorem pr_toNat (x : BitVec 4) : pr x.toNat = x := by simp [pr]
@[simp] theorem i12_toNat (x : BitVec 12) : i12 x.toNat = x := by simp [i12]
@[simp] theorem i6_toNat (x : BitVec 6) : i6 x.toNat = x := by simp [i6]

/-- A number of `k` bits leaves the bits of its field from `k` on zero (03 R92). -/
theorem toNat_div_two_pow {k : Nat} (x : BitVec k) : x.toNat / 2 ^ k = 0 := Nat.div_eq_of_lt x.isLt
@[simp] theorem role_div_2 (x : BitVec 1) : x.toNat / 2 = 0 := toNat_div_two_pow x
@[simp] theorem bank_div_4 (x : BitVec 2) : x.toNat / 4 = 0 := toNat_div_two_pow x
@[simp] theorem pred_div_16 (x : BitVec 4) : x.toNat / 16 = 0 := toNat_div_two_pow x
@[simp] theorem amount_div_64 (x : BitVec 6) : x.toNat / 64 = 0 := toNat_div_two_pow x

/-- A low field of `k` bits is read back whatever stands above it. -/
theorem ofNat_low {k : Nat} (hi : Nat) (x : BitVec k) : BitVec.ofNat k (hi * 2 ^ k + x.toNat) = x := by
  apply BitVec.eq_of_toNat_eq
  rw [BitVec.toNat_ofNat, Nat.mul_add_mod_self_right, Nat.mod_eq_of_lt x.isLt]

/-- A field above one of `k` bits is read back whatever stands below it. -/
theorem high_of_low {k : Nat} (hi : Nat) (x : BitVec k) : (hi * 2 ^ k + x.toNat) / 2 ^ k = hi := by
  rw [Nat.mul_comm, Nat.mul_add_div (Nat.two_pow_pos k), toNat_div_two_pow, Nat.add_zero]

@[simp] theorem i6_low (p : Nat) (n : BitVec 6) : i6 (p * 64 + n.toNat) = n := ofNat_low p n
@[simp] theorem i6_high (p n : BitVec 6) : i6 ((p.toNat * 64 + n.toNat) / 64) = p :=
  (congrArg i6 (high_of_low p.toNat n)).trans (i6_toNat p)
@[simp] theorem cmpi_imm (c : Nat) (n : BitVec 9) : BitVec.ofNat 9 (c * 512 + n.toNat) = n := ofNat_low c n
@[simp] theorem cmpi_cond (c : BitVec 3) (n : BitVec 9) : BitVec.ofNat 3 ((c.toNat * 512 + n.toNat) / 512) = c :=
  (congrArg (BitVec.ofNat 3) (high_of_low c.toNat n)).trans (by simp)

/-- A code of ten bits stands in two register fields (04 R133). -/
@[simp] theorem code_of_halves (c : BitVec 10) : BitVec.ofNat 10 (c.toNat / 32 * 32 + c.toNat % 32) = c := by
  rw [Nat.div_add_mod', BitVec.ofNat_toNat, BitVec.setWidth_eq]

theorem limm_fields (k : BitVec 22) :
    0x1B * 2 ^ 22 + k.toNat < 2 ^ 28 ∧ wOp (0x1B * 2 ^ 22 + k.toNat) = 0x1B := by
  have := k.isLt
  simp only [wOp, bits, Nat.shiftRight_eq_div_pow]
  omega

/-- The displacement of a branch is what it is modulo the width of its field. -/
theorem disp_of_mod {w : Nat} {d : BitVec 17} (h : w % 2 ^ 17 = d.toNat) : BitVec.ofNat 17 w = d :=
  BitVec.eq_of_toNat_eq ((BitVec.toNat_ofNat ..).trans h)

/-! ## Words -/

/-- The word of a well-formed one-word instruction decodes to it: in each form of 03 R82 every operand stands in a field wide
enough for it, and the group of the opcode reads the operands from those fields. -/
theorem decodeWord_encode {i : Instr} {w : Nat} (hw : checkInstr i = none) (h : encode i = .scalar w) :
    w < 2 ^ 28 ∧ decodeWord w = .ok i := by
  cases i with
  -- R form: arithmetic, compares and predicates
  | add | sub | and | or | xor | shl | shr | sra | mul | mulh | mulhu | min | max | minu | maxu | sel | div | divu | rem | remu
  | clz | popc | cmpEq | cmpNe | cmpLt | cmpLtu | cmpGe | cmpGeu | pand | por | pxor | pnot | pmov =>
    cases h
    exact decodeWord_encR (by omega) (by omega) (by omega) (by omega) (by omega) (by omega) rfl
      (by simp +contextual [decodeFields, decodeAlu, decodeMul, decodeDiv, decodeCmp, decodePred, whenZero]) hw
  -- R form: control, addresses, tasks, banks and the system group
  | jr | gaddr | sptest | spcast | objsz | objver | launch | waitdep | trig | exit | yield | vlend | vrecl | phase | trap | brk
  | eret | halt | xend | vfcfgEnable | vfcfgDisable | vfcfgGate | vfcfgReopen =>
    cases h
    exact decodeWord_encR (by omega) (by omega) (by omega) (by omega) (by omega) (by omega) rfl
      (by simp +contextual [decodeFields, decodeJr, decodeAddr, decodeTask, decodeLend, decodeSys, decodeVfcfg, whenZero]) hw
  -- R form: atomics, synchronisation and transfer barriers
  | amoSwapW | amoAddW | amoAndW | amoOrW | amoXorW | amoMinW | amoMaxW | amoSwapD | amoAddD | amoAndD | amoOrD | amoXorD
  | amoMinD | amoMaxD | amoMinuW | amoMaxuW | amoMinuD | amoMaxuD | casW | casD | ldacqW | ldacqD | strelW | strelD | fence
  | fenceRel | fenceAcq | qmark | bar | txarr | txwait =>
    cases h
    exact decodeWord_encR (by omega) (by omega) (by omega) (by omega) (by omega) (by omega) rfl
      (by simp +contextual [decodeFields, decodeAmoW, decodeAmoD, decodeAmox, decodeSync, decodeFence, decodeTxb, whenZero]) hw
  -- I form
  | addi | andi | ori | xori | shli | shri | srai | cmpi | ext | ins | csrr | csrw | twait | tclr | loop | ldB | ldBu | ldH
  | ldHu | ldW | ldWu | ldD | stB | stH | stW | stD =>
    cases h
    exact decodeWord_encI (by omega) (by omega) (by omega) (by omega) rfl
      (by simp +contextual [decodeFields, whenZero]) hw
  -- B form
  | br g disp | call g disp =>
    cases h
    exact decodeWord_encB (by decide) g.isLt disp.isLt
      (fun w ho hg hl hd => by simp [decodeFields, ho, hg, hl, disp_of_mod hd]) hw
  | limm k =>
    cases h
    obtain ⟨hlt, ho⟩ := limm_fields k
    exact ⟨hlt, decodeWord_of_fields (by rw [ho]; rfl) (by simp only [decodeFields, ho, ofNat_low]) hw⟩
  -- no other instruction is one scalar word
  | _ => cases h

/-- A pair whose fields decode to a well-formed instruction. -/
theorem decodeT_of_fields {w0 w1 : Nat} {i : Instr} (h : decodeTFields w0 w1 = .ok i) (hw : checkInstr i = none) :
    decodeT w0 w1 = .ok i := by
  simp [decodeT, h, wellFormedOr, hw]

/-- The two words of a well-formed T-form instruction decode to it. -/
theorem decodeT_encode {i : Instr} {w0 w1 : Nat} (hw : checkInstr i = none) (h : encode i = .pair w0 w1) :
    isTOp (wOp w0) = true ∧ decodeT w0 w1 = .ok i := by
  cases i with
  | vexec w | mexec w | xexec w | mnest w | copy w | copyt w | copyr w | gath w | scat w | redc w | ratom w | bpref w
  | wprog w =>
    obtain ⟨ho, hf⟩ := encT_fields _ w w0 w1 (by decide) h
    exact ⟨by rw [ho]; rfl, decodeT_of_fields (by simp only [decodeTFields, ho, hf]) hw⟩
  | _ => cases h

/-- Settles O2: by the form of the instruction's word; E and S stand above every field. -/
theorem scalarAndPairWordsRoundTrip : Obligations.ScalarAndPairWordsRoundTrip := by
  unfold Obligations.ScalarAndPairWordsRoundTrip
  refine ⟨fun i w hwf h => ?_, fun i w0 w1 hwf h => decodeT_encode (Option.isNone_iff_eq_none.mp hwf) h⟩
  obtain ⟨hlt, hdec⟩ := decodeWord_encode (Option.isNone_iff_eq_none.mp hwf) h
  exact ⟨hlt, hdec, fun e st hs => withES_fields e st w hs hlt⟩

end Sys2Proof
end

section
/-! SUPPORT. O15: a word with a guard has its meaning under that guard. -/
namespace Sys2Proof.Machine

theorem State.guard_always (s : State) : s.guard 15 = true := rfl

/-- A word with a guard does what it does under that guard; every other word reads as guarded by 0xF. -/
theorem exec_eq_guarded (i : Instr) (s : State) : guardOf i = 15 ∨ ∃ r, exec i s = guarded (guardOf i) s r := by
  cases i with
  | add | sub | and | or | xor | shl | shr | sra | mul | mulh | mulhu | min | max | minu | maxu | div | divu | rem | remu
  | clz | popc | cmpEq | cmpNe | cmpLt | cmpLtu | cmpGe | cmpGeu | pand | por | pxor | pnot | pmov | br | call | jr | brk
  | gaddr | sptest | spcast | objsz | objver | vlend | vrecl | phase | launch | waitdep | trig | exit | yield | eret | halt
  | vfcfgEnable | vfcfgDisable | vfcfgGate | vfcfgReopen | trap | txarr | txwait => exact .inr ⟨_, rfl⟩
  | _ => exact .inl rfl

/-- Settles O15: a guard that is false is not 0xF, so the word is one that has its meaning under its guard. -/
theorem falseGuardHasNoEffect : Obligations.FalseGuardHasNoEffect := by
  unfold Obligations.FalseGuardHasNoEffect
  intro i s h
  rcases exec_eq_guarded i s with h15 | ⟨r, hr⟩
  · rw [h15, s.guard_always] at h
    exact absurd h (by decide)
  · rw [hr, guarded_false h]

end Sys2Proof.Machine
end

section
/-! SUPPORT. How a scalar word ends, in the words of the claims; and the word shapes of the scalar stream: what each gives under a
guard that is true, and what a false guard leaves. -/
namespace Sys2Proof.Machine

open Sys2Proof.Claims

/-! ## How a word ends -/

theorem finish_trapped (s : State) (c : Nat) (v : Word) : finish s (.trap c v) = .next (trapped s c v) := rfl

theorem finish_waiting (s : State) (h : Hold) : finish s (.hold h) = .next (waiting s h) := rfl

theorem finish_illegalBundle (s : State) : finish s (illegalBundle s) = .next (trapped s 0x01 s.turn.pc) := rfl

theorem guarded_trap {g : BitVec 4} {s : State} (h : s.guard g = true) (c : Nat) (v : Word) :
    guarded g s (.trap c v) = .next (trapped s c v) := guarded_true h _

theorem guarded_hold {g : BitVec 4} {s : State} (h : s.guard g = true) (w : Hold) :
    guarded g s (.hold w) = .next (waiting s w) := guarded_true h _

theorem guarded_ok {g : BitVec 4} {s : State} (h : s.guard g = true) (u : Unit) (t : State) :
    guarded g s (.ok u t) = .next t := guarded_true h _

/-! ## Word shapes -/

theorem binary_next {lat : Nat} {f : Word → Word → Word} {rd a b : BitVec 5} {g : BitVec 4} {s : State} {v : Word}
    (h : s.guard g = true) (hv : f (s.reg a) (s.reg b) = v) : binary lat f rd a b g s = .next (s.setReg rd lat v) := by
  rw [binary, hv, guarded_ok h]

theorem unary_next {lat : Nat} {f : Word → Word} {rd a : BitVec 5} {g : BitVec 4} {s : State} {v : Word}
    (h : s.guard g = true) (hv : f (s.reg a) = v) : unary lat f rd a g s = .next (s.setReg rd lat v) := by
  rw [unary, hv, guarded_ok h]

theorem immediate_next {f : Word → Word → Word} {rd a : BitVec 5} {i : BitVec 12} {s : State} {v : Word}
    (hv : f (s.reg a) (s.imm i) = v) : immediate f rd a i s = .next (s.setReg rd 1 v) := by
  rw [immediate, hv, finish_ok]

theorem shiftBy_next {f : Word → Nat → Word} {rd a : BitVec 5} {n : BitVec 6} {s : State} {v : Word}
    (hv : f (s.reg a) n.toNat = v) : shiftBy f rd a n s = .next (s.setReg rd 1 v) := by
  rw [shiftBy, hv, finish_ok]

theorem divide_next {f : Word → Word → Word × Flags} {rd a b : BitVec 5} {g : BitVec 4} {s : State} {v : Word} {k : Flags}
    (h : s.guard g = true) (hv : f (s.reg a) (s.reg b) = (v, k)) :
    divide f rd a b g s = .next ((s.setReg rd 1 v).raiseFlags k) := by
  rw [divide, hv, guarded_ok h]

theorem compare_next {c : Nat} {pd : BitVec 4} {a b : BitVec 5} {g : BitVec 4} {s : State} {p : Bool}
    (h : s.guard g = true) (hp : condHolds c (s.reg a) (s.reg b) = p) :
    compare c pd a b g s = .next (s.setPred pd (fillPred p)) := by
  rw [compare, hp, guarded_ok h]

theorem predBinary_next {f : PredReg → PredReg → PredReg} {pd pa pb g : BitVec 4} {s : State} (h : s.guard g = true) :
    predBinary f pd pa pb g s = .next (s.setPred pd (f (s.pred pa) (s.pred pb))) := by
  rw [predBinary, guarded_ok h]

/-- Words under one guard have no effect when it is false (03 R83). -/
theorem exec_guardedOff {l : List Instr} {g : BitVec 4} {s : State} (hl : ∀ i ∈ l, guardOf i = g) (h : s.guard g = false) :
    ∀ i ∈ l, exec i s = .next s :=
  fun i hi => falseGuardHasNoEffect i s (hl i hi ▸ h)

end Sys2Proof.Machine
end

section
/-! SUPPORT. O11: the values of the arithmetic, bitwise and shift words. -/
namespace Sys2Proof.Machine

theorem add_eq_ofNat (x y : Word) : x + y = BitVec.ofNat 64 (x.toNat + y.toNat) :=
  BitVec.add_def x y

theorem add_eq_ofInt (x : Word) (m : Int) : x + BitVec.ofInt 64 m = BitVec.ofInt 64 (x.toInt + m) := by
  rw [BitVec.ofInt_add, BitVec.ofInt_toInt]

theorem sub_eq_ofInt (x y : Word) : x - y = BitVec.ofInt 64 ((x.toNat : Int) - y.toNat) := by
  apply BitVec.eq_of_toNat_eq
  rw [BitVec.toNat_sub, BitVec.toNat_ofInt]
  omega

theorem amount_eq (y : Word) : amount y = y.toNat % 64 := by
  simp [amount]

theorem shiftLeft_eq_ofNat (x : Word) (n : Nat) : x <<< n = BitVec.ofNat 64 (x.toNat * 2 ^ n) :=
  BitVec.eq_of_toNat_eq (by simp [Nat.shiftLeft_eq])

theorem ushiftRight_eq_ofNat (x : Word) (n : Nat) : x >>> n = BitVec.ofNat 64 (x.toNat / 2 ^ n) := by
  rw [← Nat.shiftRight_eq_div_pow, ← BitVec.toNat_ushiftRight, BitVec.ofNat_toNat, BitVec.setWidth_eq]

theorem sshiftRight_eq_ofInt (x : Word) (n : Nat) : x.sshiftRight n = BitVec.ofInt 64 (x.toInt / 2 ^ n) := by
  rw [BitVec.sshiftRight, Int.shiftRight_eq_div_pow]; norm_cast

/-- The immediate as an integer: 12 bits, or 34 after a LIMM (03 R87). -/
def State.immInt (s : State) (i : BitVec 12) : Int :=
  match s.turn.limm with
  | none => i.toInt
  | some k => (k ++ i).toInt

theorem State.imm_eq_ofInt (s : State) (i : BitVec 12) : s.imm i = BitVec.ofInt 64 (s.immInt i) := by
  cases h : s.turn.limm <;> simp only [State.imm, State.immInt, h] <;> rfl

/-- Settles O11: each word is a shape over its function of the operands, and the function is the one on integers. -/
theorem aluResults : Obligations.AluResults := by
  unfold Obligations.AluResults
  refine ⟨fun rd a b g s h => ?_, fun rd a i s => ?_, fun k s => rfl, fun rd a n s => ?_, fun rd a b g s h => ?_⟩
  · refine ⟨binary_next h (add_eq_ofNat _ _), binary_next h (sub_eq_ofInt _ _),
      ⟨_, binary_next h rfl, fun k _ => BitVec.getLsbD_and⟩, ⟨_, binary_next h rfl, fun k _ => BitVec.getLsbD_or⟩,
      ⟨_, binary_next h rfl, fun k _ => BitVec.getLsbD_xor⟩, ?_, ?_, ?_⟩
    all_goals rw [← amount_eq]
    · exact binary_next (f := fun x y => x <<< amount y) h (shiftLeft_eq_ofNat _ _)
    · exact binary_next (f := fun x y => x >>> amount y) h (ushiftRight_eq_ofNat _ _)
    · exact binary_next (f := fun x y => x.sshiftRight (amount y)) h (sshiftRight_eq_ofInt _ _)
  · have hi := s.imm_eq_ofInt i
    exact ⟨immediate_next ((congrArg (s.reg a + ·) hi).trans (add_eq_ofInt _ _)),
      ⟨_, immediate_next (congrArg (s.reg a &&& ·) hi), fun k _ => BitVec.getLsbD_and⟩,
      ⟨_, immediate_next (congrArg (s.reg a ||| ·) hi), fun k _ => BitVec.getLsbD_or⟩,
      ⟨_, immediate_next (congrArg (s.reg a ^^^ ·) hi), fun k _ => BitVec.getLsbD_xor⟩⟩
  · exact ⟨shiftBy_next (shiftLeft_eq_ofNat _ _), shiftBy_next (ushiftRight_eq_ofNat _ _),
      shiftBy_next (sshiftRight_eq_ofInt _ _)⟩
  · exact exec_guardedOff (by simp [guardOf]) h

end Sys2Proof.Machine
end

section
/-! SUPPORT. O12: the values of the products, selections, quotients and remainders, and the flag of a divisor of zero. -/
namespace Sys2Proof.Machine

/-! ## Products and selections (04 R124) -/

theorem mul_eq_ofNat (x y : Word) : x * y = BitVec.ofNat 64 (x.toNat * y.toNat) :=
  BitVec.eq_of_toNat_eq (by rw [BitVec.toNat_mul, BitVec.toNat_ofNat])

/-- The upper half of an integer's low 128 bits. -/
theorem extractHigh_ofInt (z : Int) : (BitVec.ofInt 128 z).extractLsb' 64 64 = BitVec.ofInt 64 (z / 2 ^ 64) := by
  apply BitVec.eq_of_toNat_eq
  rw [BitVec.extractLsb'_toNat, BitVec.toNat_ofInt, BitVec.toNat_ofInt, Nat.shiftRight_eq_div_pow]
  omega

theorem mulh_eq_ofInt (x y : Word) :
    (x.signExtend 128 * y.signExtend 128).extractLsb' 64 64 = BitVec.ofInt 64 (x.toInt * y.toInt / 2 ^ 64) := by
  rw [← extractHigh_ofInt, BitVec.ofInt_mul]
  rfl

theorem mulhu_eq_ofNat (x y : Word) :
    (x.setWidth 128 * y.setWidth 128).extractLsb' 64 64 = BitVec.ofNat 64 (x.toNat * y.toNat / 2 ^ 64) := by
  have hprod := Nat.mul_lt_mul'' x.isLt y.isLt
  have hlt : x.toNat * y.toNat < 2 ^ 128 := by omega
  have hx : x.toNat % 2 ^ 128 = x.toNat := Nat.mod_eq_of_lt (by omega)
  have hy : y.toNat % 2 ^ 128 = y.toNat := Nat.mod_eq_of_lt (by omega)
  apply BitVec.eq_of_toNat_eq
  rw [BitVec.extractLsb'_toNat, BitVec.toNat_mul, BitVec.toNat_setWidth, BitVec.toNat_setWidth, hx, hy,
    Nat.mod_eq_of_lt hlt, Nat.shiftRight_eq_div_pow, BitVec.toNat_ofNat]

theorem min_eq_ofInt (x y : Word) : (if x.slt y then x else y) = BitVec.ofInt 64 (min x.toInt y.toInt) := by
  split <;> rename_i h <;> rw [BitVec.slt_iff_toInt_lt] at h
  · have hm : min x.toInt y.toInt = x.toInt := by omega
    rw [hm, BitVec.ofInt_toInt]
  · have hm : min x.toInt y.toInt = y.toInt := by omega
    rw [hm, BitVec.ofInt_toInt]

theorem max_eq_ofInt (x y : Word) : (if x.slt y then y else x) = BitVec.ofInt 64 (max x.toInt y.toInt) := by
  split <;> rename_i h <;> rw [BitVec.slt_iff_toInt_lt] at h
  · have hm : max x.toInt y.toInt = y.toInt := by omega
    rw [hm, BitVec.ofInt_toInt]
  · have hm : max x.toInt y.toInt = x.toInt := by omega
    rw [hm, BitVec.ofInt_toInt]

theorem minu_eq_ofNat (x y : Word) : (if x.ult y then x else y) = BitVec.ofNat 64 (min x.toNat y.toNat) := by
  split <;> rename_i h <;> rw [BitVec.ult_iff_toNat_lt] at h
  · have hm : min x.toNat y.toNat = x.toNat := by omega
    rw [hm, BitVec.ofNat_toNat, BitVec.setWidth_eq]
  · have hm : min x.toNat y.toNat = y.toNat := by omega
    rw [hm, BitVec.ofNat_toNat, BitVec.setWidth_eq]

theorem maxu_eq_ofNat (x y : Word) : (if x.ult y then y else x) = BitVec.ofNat 64 (max x.toNat y.toNat) := by
  split <;> rename_i h <;> rw [BitVec.ult_iff_toNat_lt] at h
  · have hm : max x.toNat y.toNat = y.toNat := by omega
    rw [hm, BitVec.ofNat_toNat, BitVec.setWidth_eq]
  · have hm : max x.toNat y.toNat = x.toNat := by omega
    rw [hm, BitVec.ofNat_toNat, BitVec.setWidth_eq]

/-! ## Quotients and remainders (04 R125, 02 R68) -/

theorem sdiv_eq_ofInt (x y : Word) : x.sdiv y = BitVec.ofInt 64 (x.toInt.tdiv y.toInt) := by
  apply BitVec.eq_of_toInt_eq
  rw [BitVec.toInt_sdiv, BitVec.toInt_ofInt]

theorem srem_eq_ofInt (x y : Word) : x.srem y = BitVec.ofInt 64 (x.toInt.tmod y.toInt) := by
  rw [← BitVec.toInt_srem, BitVec.ofInt_toInt]

theorem divS_ne_zero {x y : Word} (h : y ≠ 0) : divS x y = (BitVec.ofInt 64 (x.toInt.tdiv y.toInt), 0) := by
  rw [divS, if_neg h, sdiv_eq_ofInt]; rfl

theorem divU_ne_zero {x y : Word} (h : y ≠ 0) : divU x y = (BitVec.ofNat 64 (x.toNat / y.toNat), 0) := by
  rw [divU, if_neg h, BitVec.udiv_eq, BitVec.udiv_def]; rfl

theorem remS_ne_zero {x y : Word} (h : y ≠ 0) : remS x y = (BitVec.ofInt 64 (x.toInt.tmod y.toInt), 0) := by
  rw [remS, if_neg h, srem_eq_ofInt]; rfl

theorem remU_ne_zero {x y : Word} (h : y ≠ 0) : remU x y = (BitVec.ofNat 64 (x.toNat % y.toNat), 0) := by
  rw [remU, if_neg h, BitVec.umod_eq, BitVec.umod_def]; rfl

theorem divS_by_zero {x y : Word} (h : y = 0) : divS x y = (BitVec.ofInt 64 (-1), 1) := if_pos h
theorem divU_by_zero {x y : Word} (h : y = 0) : divU x y = (BitVec.allOnes 64, 1) := if_pos h
theorem remS_by_zero {x y : Word} (h : y = 0) : remS x y = (x, 1) := if_pos h
theorem remU_by_zero {x y : Word} (h : y = 0) : remU x y = (x, 1) := if_pos h

/-- −2^63 ÷ −1: the quotient wraps to the dividend and the remainder is 0, with no flag. -/
theorem divS_overflow {x y : Word} (hx : x.toInt = -2 ^ 63) (hy : y.toInt = -1) :
    divS x y = (x, 0) ∧ remS x y = (0, 0) := by
  have hy0 : y ≠ 0 := by rintro rfl; exact absurd hy (by decide)
  rw [divS_ne_zero hy0, remS_ne_zero hy0, hx, hy]
  refine ⟨?_, rfl⟩
  rw [← BitVec.ofInt_toInt (x := x), hx]
  rfl

/-- Settles O12: the words are shapes over functions of the operands, and R68's cases are the cases of the divisor. -/
theorem multiplyAndDivideResults : Obligations.MultiplyAndDivideResults := by
  unfold Obligations.MultiplyAndDivideResults
  refine ⟨fun rd a b g s h => ?_, fun rd a b g s h => ⟨fun h0 => ?_, fun h0 => ?_, fun hx hy => ?_⟩⟩
  · exact ⟨binary_next h (mul_eq_ofNat _ _),
      binary_next (f := fun x y => (x.signExtend 128 * y.signExtend 128).extractLsb' 64 64) h (mulh_eq_ofInt _ _),
      binary_next (f := fun x y => (x.setWidth 128 * y.setWidth 128).extractLsb' 64 64) h (mulhu_eq_ofNat _ _),
      binary_next (f := fun x y => if x.slt y then x else y) h (min_eq_ofInt _ _),
      binary_next (f := fun x y => if x.slt y then y else x) h (max_eq_ofInt _ _),
      binary_next (f := fun x y => if x.ult y then x else y) h (minu_eq_ofNat _ _),
      binary_next (f := fun x y => if x.ult y then y else x) h (maxu_eq_ofNat _ _)⟩
  · exact ⟨divide_next h (divS_by_zero h0), divide_next h (divU_by_zero h0), divide_next h (remS_by_zero h0),
      divide_next h (remU_by_zero h0)⟩
  · exact ⟨divide_next h (divS_ne_zero h0), divide_next h (divU_ne_zero h0), divide_next h (remS_ne_zero h0),
      divide_next h (remU_ne_zero h0)⟩
  · obtain ⟨hd, hr⟩ := divS_overflow hx hy
    exact ⟨divide_next h hd, divide_next h hr⟩

end Sys2Proof.Machine
end

section
/-! SUPPORT. O13: the bit counts, the field words bit by bit, and SEL. -/
namespace Sys2Proof.Machine

/-! ## Counts (04 R125) -/

theorem clzFrom_le (n : Nat) (x : Word) : clzFrom n x ≤ n := by
  induction n with
  | zero => exact Nat.le_refl 0
  | succ n ih => rw [clzFrom]; split <;> omega

/-- Above the highest one bit every bit is zero. -/
theorem getLsbD_above_clz (n : Nat) (x : Word) {k : Nat} (hk : n - clzFrom n x ≤ k) (hn : k < n) : x.getLsbD k = false := by
  induction n with
  | zero => omega
  | succ n ih =>
    rw [clzFrom] at hk
    split at hk <;> rename_i hb
    · omega
    · rcases Nat.lt_succ_iff_lt_or_eq.mp hn with hlt | rfl
      · exact ih (by omega) hlt
      · exact Bool.eq_false_iff.mpr hb

/-- Below the zeros counted stands a one bit. -/
theorem getLsbD_at_clz (n : Nat) (x : Word) (h : clzFrom n x < n) : x.getLsbD (n - 1 - clzFrom n x) = true := by
  induction n with
  | zero => omega
  | succ n ih =>
    rw [clzFrom] at h ⊢
    split at h <;> rename_i hb
    · rw [if_pos hb]; exact hb
    · rw [if_neg hb, show n + 1 - 1 - (1 + clzFrom n x) = n - 1 - clzFrom n x by omega]
      exact ih (by omega)

theorem popcFrom_eq (n : Nat) (x : Word) : popcFrom n x = ((List.range n).filter fun k => x.getLsbD k).length := by
  induction n with
  | zero => rfl
  | succ n ih =>
    rw [popcFrom, List.range_succ, List.filter_append, List.length_append, ih, Nat.add_comm]
    cases hb : x.getLsbD n <;> simp [hb]

/-! ## Fields (04 R126) -/

theorem getLsbD_fieldMask (p : Nat) {n k : Nat} (hn : n ≤ 64) (hk : k < 64) :
    (fieldMask p n).getLsbD k = decide (p ≤ k ∧ k < p + n) := by
  rw [fieldMask, BitVec.getLsbD_shiftLeft, BitVec.getLsbD_ushiftRight, BitVec.getLsbD_allOnes, Bool.eq_iff_iff]
  simp only [Bool.and_eq_true, Bool.not_eq_true', decide_eq_true_eq, decide_eq_false_iff_not]
  omega

theorem getLsbD_extract (x : Word) (p : Nat) {n k : Nat} (hn : n ≤ 64) (hk : k < 64) :
    ((x >>> p) &&& fieldMask 0 n).getLsbD k = (decide (k < n) && x.getLsbD (p + k)) := by
  rw [BitVec.getLsbD_and, BitVec.getLsbD_ushiftRight, getLsbD_fieldMask 0 hn hk, Bool.and_comm]
  simp

theorem getLsbD_insert (x y : Word) (p : Nat) {n k : Nat} (hn : n ≤ 64) (hk : k < 64) :
    ((y &&& ~~~fieldMask p n) ||| ((x <<< p) &&& fieldMask p n)).getLsbD k
      = if p ≤ k ∧ k < p + n then x.getLsbD (k - p) else y.getLsbD k := by
  rw [BitVec.getLsbD_or, BitVec.getLsbD_and, BitVec.getLsbD_and, BitVec.getLsbD_not, BitVec.getLsbD_shiftLeft,
    getLsbD_fieldMask p hn hk]
  split <;> rename_i h
  · simp [h, hk]
  · simp [h, hk]

theorem State.guard_eq_true_iff (s : State) (n : BitVec 4) :
    s.guard n = true ↔ n = 15 ∨ (s.pred n).getLsbD 0 = true := by
  rw [State.guard, Bool.or_eq_true, beq_iff_eq]

/-- Settles O13: SEL by its guard, the counts by the bits from the top, the fields by their mask. -/
theorem selectCountAndFieldResults : Obligations.SelectCountAndFieldResults := by
  unfold Obligations.SelectCountAndFieldResults
  refine ⟨fun rd a b n s => ?_, fun rd a g s h => ⟨⟨clzFrom 64 (s.reg a), ?_⟩, ?_⟩, fun rd a p l s h => ⟨?_, ?_⟩⟩
  · simp only [← s.guard_eq_true_iff]
    rfl
  · exact ⟨unary_next (f := fun x => BitVec.ofNat 64 (clzFrom 64 x)) h rfl, clzFrom_le 64 _,
      fun k => getLsbD_above_clz 64 _, getLsbD_at_clz 64 _⟩
  · exact unary_next (f := fun x => BitVec.ofNat 64 (popcFrom 64 x)) h (congrArg _ (popcFrom_eq 64 _))
  · exact ⟨_, rfl, fun k => getLsbD_extract _ _ (by omega)⟩
  · exact ⟨_, rfl, fun k => getLsbD_insert _ _ _ (by omega)⟩

end Sys2Proof.Machine
end

section
/-! SUPPORT. O14: the conditions of the compares, and the predicate words bit by bit. -/
namespace Sys2Proof.Machine

/-- The condition codes on integers (04 R127). -/
theorem condHolds_eq (x y : Word) :
    condHolds 0 x y = decide (x = y) ∧ condHolds 1 x y = decide (x ≠ y)
    ∧ condHolds 2 x y = decide (x.toInt < y.toInt) ∧ condHolds 3 x y = decide (x.toNat < y.toNat)
    ∧ condHolds 4 x y = decide (y.toInt ≤ x.toInt) ∧ condHolds 5 x y = decide (y.toNat ≤ x.toNat) := by
  refine ⟨rfl, ?_, rfl, rfl, rfl, rfl⟩
  rw [decide_not]
  rfl

/-- CMPI's immediate keeps its value when it is extended. -/
theorem toInt_immediate (i : BitVec 9) : (i.signExtend 64).toInt = i.toInt :=
  BitVec.toInt_signExtend_of_le (by decide)

/-- Settles O14: a compare fills its predicate with its condition; the PRED words act on each bit. -/
theorem compareAndPredicateResults : Obligations.CompareAndPredicateResults := by
  unfold Obligations.CompareAndPredicateResults
  refine ⟨⟨fun pd a b g s h => ?_, fun pd a c i s hc => ?_⟩, fun pd pa pb g s h => ?_, fun pd a b g s h => ?_⟩
  · obtain ⟨heq, hne, hlt, hltu, hge, hgeu⟩ := condHolds_eq (s.reg a) (s.reg b)
    exact ⟨compare_next h heq, compare_next h hne, compare_next h hlt, compare_next h hltu, compare_next h hge,
      compare_next h hgeu⟩
  · obtain ⟨heq, hne, hlt, hltu, hge, hgeu⟩ := condHolds_eq (s.reg a) (i.signExtend 64)
    rw [toInt_immediate] at hlt hge
    have hfill : exec (.cmpi pd a c i) s
        = .next (s.setPred pd (fillPred (condHolds c.toNat (s.reg a) (i.signExtend 64)))) := rfl
    rw [hfill]
    have hcases : c.toNat = 0 ∨ c.toNat = 1 ∨ c.toNat = 2 ∨ c.toNat = 3 ∨ c.toNat = 4 ∨ c.toNat = 5 := by omega
    rcases hcases with hn | hn | hn | hn | hn | hn <;> rw [hn]
    · rw [heq]; rfl
    · rw [hne]; rfl
    · rw [hlt]; rfl
    · rw [hltu]; rfl
    · rw [hge]; rfl
    · rw [hgeu]; rfl
  · exact ⟨⟨_, predBinary_next h, fun k _ => BitVec.getLsbD_and⟩, ⟨_, predBinary_next h, fun k _ => BitVec.getLsbD_or⟩,
      ⟨_, predBinary_next h, fun k _ => BitVec.getLsbD_xor⟩,
      ⟨_, guarded_true h _, fun k hk => by rw [BitVec.getLsbD_not, decide_eq_true hk, Bool.true_and]⟩, guarded_true h _⟩
  · exact exec_guardedOff (by simp [guardOf]) h

end Sys2Proof.Machine
end

section
/-! SUPPORT. O19: what a write of one predicate leaves alone. -/
namespace Sys2Proof.Machine

open Sys2Proof.Claims

/-! ## The scalar-stream state of the word in issue -/

theorem State.hart_of_firmware {s : State} {c : Nat} (h : s.turn.agent = .firmware c) : s.hart = (s.fw c).hart := by
  simp only [State.hart, h]

theorem State.hart_of_task {s : State} (h : s.inFirmware = false) : s.hart = (s.task s.me).hart := by
  cases ha : s.turn.agent with
  | firmware c => simp [State.inFirmware, ha] at h
  | _ => simp only [State.hart, State.me, ha]

theorem State.pred_eq (s : State) (n : BitVec 4) :
    s.pred n = if s.inFirmware then tget 0 s.hart.p n.toNat
      else overlay n.toNat (tget 0 s.hart.p n.toNat) (s.task s.me).pendVP := by
  cases ha : s.turn.agent <;> simp [State.pred, State.inFirmware, State.hart, State.me, ha]

theorem State.rf_eq (s : State) : s.rf = if s.inTransferStream then (s.task s.me).xrf else s.hart.rf := by
  cases ha : s.turn.agent <;> simp [State.rf, State.inTransferStream, State.me, agentSlot, ha]

/-- A new hart stands at the issuing slot, in a task's stream. -/
theorem State.setHart_task (s : State) (h : Hart) (k : Nat) :
    (s.setHart h).task k = if k = s.me ∧ s.inFirmware = false then { s.task k with hart := h } else s.task k := by
  cases ha : s.turn.agent <;> simp only [State.setHart, State.inFirmware, State.me, ha, and_true, and_false, if_false,
    reduceCtorEq, State.setFw_task]
  all_goals
    split
    · subst_vars; exact State.setTask_task_same _ _ _
    · exact State.setTask_task_other _ _ ‹_›

/-- In a firmware context it stands at that context. -/
theorem State.setHart_fw (s : State) (h : Hart) (c : Nat) :
    (s.setHart h).fw c = if s.turn.agent = .firmware c then { s.fw c with hart := h } else s.fw c := by
  cases ha : s.turn.agent <;> simp only [State.setHart, ha, reduceCtorEq, if_false, State.setTask_fw, Agent.firmware.injEq]
  split
  · subst_vars; exact State.setFw_fw_same _ _ _
  · exact State.setFw_fw_other _ _ (Ne.symm ‹_›)

/-- No more than the tasks and the firmware contexts. -/
theorem State.setHart_rest (s : State) (h : Hart) :
    s.setHart h = { s with tasks := (s.setHart h).tasks, fws := (s.setHart h).fws } := by
  cases ha : s.turn.agent <;> simp only [State.setHart, ha] <;> rfl

@[simp] theorem State.setHart_me (s : State) (h : Hart) : (s.setHart h).me = s.me := by
  rw [State.me, State.setHart_turn]; rfl

@[simp] theorem State.setHart_inFirmware (s : State) (h : Hart) : (s.setHart h).inFirmware = s.inFirmware := by
  rw [State.inFirmware, State.setHart_turn]; rfl

@[simp] theorem State.setHart_inTransferStream (s : State) (h : Hart) :
    (s.setHart h).inTransferStream = s.inTransferStream := by
  rw [State.inTransferStream, State.setHart_turn]; rfl

/-! ## One predicate written -/

theorem mem_unpoison_or_eq {s : State} {owner file n : Nat} {e : Nat × Nat × Nat} (h : e ∈ s.regPoison) :
    e ∈ (s.unpoison owner file n).regPoison ∨ e = (owner, file, n) := by
  by_cases he : e = (owner, file, n)
  · exact .inr he
  · exact .inl (List.mem_filter.mpr ⟨h, by simpa using he⟩)

theorem onlyPredicate_refl (s : State) (pd : BitVec 4) : OnlyPredicate s s pd where
  preds _ := rfl
  flight := rfl
  regs _ := rfl
  hart := rfl
  tasks _ := rfl
  otherTasks _ _ := rfl
  fws _ := rfl
  poison _ h := .inl h
  rest := rfl

theorem onlyPredicate_unpoison {s t : State} {pd : BitVec 4} (h : OnlyPredicate s t pd) (hp : t.regPoison = s.regPoison) :
    OnlyPredicate s (t.unpoison s.regOwner 1 pd.toNat) pd where
  preds := h.preds
  flight := h.flight
  regs := h.regs
  hart := h.hart
  tasks := h.tasks
  otherTasks := h.otherTasks
  fws := h.fws
  poison _ he := mem_unpoison_or_eq (hp ▸ he)
  rest := by
    have hr := h.rest
    rw [hr]
    rfl

/-- A change of the predicate writes in flight, in the stream in issue, that is about `pd` alone. -/
theorem onlyPredicate_setHart {s : State} {pd : BitVec 4} {l : List (Pend 1024)}
    (hl : l.filter (fun e => e.reg != pd.toNat) = s.hart.pendP.filter fun e => e.reg != pd.toNat) :
    OnlyPredicate s (s.setHart { s.hart with pendP := l }) pd := by
  refine
    { preds := fun n => ?_, flight := ?_, regs := fun n => ?_, hart := ?_, tasks := fun k => ?_, otherTasks := fun k hk => ?_,
      fws := fun c => ?_, poison := fun _ he => .inl ?_, rest := ?_ }
  · simp only [State.pred_eq, State.setHart_inFirmware, State.setHart_hart, State.setHart_me, State.setHart_task]
    split
    · rfl
    · split <;> rfl
  · rw [State.setHart_hart]; exact hl
  · simp only [State.reg, State.rf_eq, State.setHart_inTransferStream, State.setHart_hart, State.setHart_me, State.setHart_task]
    split
    · split <;> rfl
    · rfl
  · rw [State.setHart_hart]
  · rw [State.setHart_task]
    split
    · rename_i hk
      obtain ⟨rfl, hf⟩ := hk
      rw [State.hart_of_task hf]
    · rfl
  · rw [State.setHart_task, if_neg]
    rintro ⟨rfl, hf⟩
    simp [hf] at hk
  · rw [State.setHart_fw]
    split
    · rename_i hc
      rw [State.hart_of_firmware hc]
    · rfl
  · rw [State.setHart_rest]; exact he
  · rw [State.setHart_rest]

theorem State.setPred_only (s : State) (pd : BitVec 4) (v : PredReg) : OnlyPredicate s (s.setPred pd v) pd := by
  have h := onlyPredicate_unpoison (onlyPredicate_setHart (s := s) (pd := pd)
    (l := s.hart.pendP ++ [⟨pd.toNat, BitVec.allOnes 1024, v, s.hart.rf.pos, s.hart.rf.pos + 1⟩]) (by simp))
    (by rw [State.setHart_rest])
  have ho : ∀ x, (s.setHart x).regOwner = s.regOwner := fun x => by
    simp only [State.regOwner, State.setHart_turn, State.setHart_me]
  rw [← ho] at h
  exact h

theorem guarded_setPred_only {g pd : BitVec 4} {v : PredReg} {s t : State}
    (h : guarded g s (.ok () (s.setPred pd v)) = .next t) : OnlyPredicate s t pd := by
  unfold guarded at h
  split at h <;> cases h
  · exact s.setPred_only pd v
  · exact onlyPredicate_refl s pd

/-- Settles O19: every such word writes its predicate or, under a false guard, does nothing. -/
theorem predicateWordsFrame : Obligations.PredicateWordsFrame := by
  unfold Obligations.PredicateWordsFrame
  intro pd pa pb g a b w c i9 s t
  simp only [List.forall_mem_cons]
  refine ⟨guarded_setPred_only, guarded_setPred_only, guarded_setPred_only, guarded_setPred_only, guarded_setPred_only,
    guarded_setPred_only, fun h => ?_, guarded_setPred_only, guarded_setPred_only, guarded_setPred_only, guarded_setPred_only,
    guarded_setPred_only, guarded_setPred_only, by simp⟩
  cases h
  exact s.setPred_only pd _

end Sys2Proof.Machine
end

section
/-! SUPPORT. O20 and O21: where branches, jumps and loops go, and the traps that a word raises by itself. -/
namespace Sys2Proof.Machine

open Sys2Proof.Claims

@[simp] theorem State.setReg_turn (s : State) (n : BitVec 5) (lat : Nat) (v : Word) : (s.setReg n lat v).turn = s.turn := by
  simp only [State.setReg, State.unpoison]
  split <;> simp only [State.dropReturn, State.setRf_turn]

/-- A jump after a register's write changes the turn's next address alone. -/
theorem State.setReg_jump (s : State) (n : BitVec 5) (lat : Nat) (v a : Word) :
    (s.setReg n lat v).jump a = (s.setReg n lat v).setTurn { s.turn with next := a } := by
  rw [State.jump, State.setReg_turn]

/-- The word's own address plus four times a signed displacement (03 R88). -/
theorem State.target_eq_ofInt {n : Nat} (s : State) (d : BitVec n) :
    s.target d = BitVec.ofInt 64 (s.turn.wordPc.toNat + 4 * d.toInt) := by
  rw [BitVec.ofInt_add, Int.mul_comm, BitVec.ofInt_mul, BitVec.ofInt_natCast, BitVec.ofNat_toNat, BitVec.setWidth_eq]
  rfl

/-- Settles O21: both words trap with their code, extended with zeros. -/
theorem softwareTraps : Obligations.SoftwareTraps := by
  unfold Obligations.SoftwareTraps
  intro c g s h
  rw [BitVec.ofNat_toNat]
  exact ⟨guarded_trap h _ _, guarded_trap h _ _⟩

/-! ## LOOP and JR (04 R131, R132) -/

theorem execLoop_zero {rd : BitVec 5} {s : State} (m : BitVec 12) (h : s.reg rd = 0) : execLoop rd m s = .next s := by
  rw [execLoop, if_pos h, finish_ok]

theorem execLoop_one {rd : BitVec 5} {s : State} (m : BitVec 12) (h : s.reg rd = 1) :
    execLoop rd m s = .next (s.setReg rd 1 0) := by
  simp [execLoop, h]

theorem execLoop_again {rd : BitVec 5} {s : State} (m : BitVec 12) (h : 1 < (s.reg rd).toNat) :
    execLoop rd m s = .next ((s.setReg rd 1 (s.reg rd - 1)).jump (s.target m)) := by
  have h0 : s.reg rd ≠ 0 := by intro h'; simp [h'] at h
  have h1 : s.reg rd - 1 ≠ 0 := by bv_omega
  simp only [execLoop, if_neg h0, if_neg h1, finish_ok]

theorem sub_one_eq_ofNat {c : Word} (h : 1 < c.toNat) : c - 1 = BitVec.ofNat 64 (c.toNat - 1) := by
  bv_omega

/-- Settles O20: the targets by `target_eq_ofInt`, LOOP by its count and JR by its target. -/
theorem branchesAndJumps : Obligations.BranchesAndJumps := by
  unfold Obligations.BranchesAndJumps
  refine ⟨⟨fun g d s h => ?_, fun rd m s _ => ⟨execLoop_zero m, execLoop_one m, fun hc => ?_⟩⟩, fun rd a g s h => ⟨?_, ?_, ?_⟩⟩
  · dsimp only
    rw [← s.target_eq_ofInt, ← State.setReg_jump]
    exact ⟨guarded_ok h _ _, guarded_ok h _ _⟩
  · rw [← s.target_eq_ofInt, ← State.setReg_jump, ← sub_one_eq_ofNat hc]
    exact execLoop_again m hc
  · intro hal hin
    show execJr rd a g s = _
    rw [← State.setReg_jump, execJr, if_neg (fun h => h hal), if_neg (Nat.not_le.mpr hin), guarded_ok h]
  · intro hal
    show execJr rd a g s = _
    rw [execJr, if_pos hal, guarded_trap h]; rfl
  · intro hal hout
    show execJr rd a g s = _
    rw [execJr, if_neg (fun h => h hal), if_pos hout, guarded_trap h]; rfl

end Sys2Proof.Machine
end

section
/-! SUPPORT. O24: GADDR, SPTEST and SPCAST on the fields of addresses. -/
namespace Sys2Proof.Machine

open Sys2Proof.Claims

/-! ## Fields of numbers -/

theorem bits_eq (x hi lo : Nat) : bits x hi lo = x / 2 ^ lo % 2 ^ (hi + 1 - lo) := by
  rw [bits, Nat.shiftRight_eq_div_pow]

/-- `CORENUM` holds the pair below bit 15 and the loft bit there (01 R45). -/
theorem State.csrCorenum_fields (s : State) :
    bits s.csrCorenum 6 0 = s.myPair % 128 ∧ bits s.csrCorenum 1 0 = s.myPair % 4
      ∧ bits s.csrCorenum 6 2 = s.myPair % 128 / 4 := by
  have hb : boolNat (coreLoft s.myCore) = 0 ∨ boolNat (coreLoft s.myCore) = 1 := by cases coreLoft s.myCore <;> simp [boolNat]
  simp only [bits_eq, State.csrCorenum, at_]
  omega

/-- The base of a local-store window has no bit below 25. -/
theorem ofNat_or_eq {m : Nat} {x : Word} (hm : 2 ^ 25 ∣ m) (hlt : m < 2 ^ 64) (hx : x.toNat < 2 ^ 25) :
    BitVec.ofNat 64 m ||| x = BitVec.ofNat 64 (m + x.toNat) := by
  obtain ⟨k, rfl⟩ := hm
  apply BitVec.eq_of_toNat_eq
  rw [BitVec.toNat_or, BitVec.toNat_ofNat, BitVec.toNat_ofNat, Nat.mod_eq_of_lt hlt, ← Nat.two_pow_add_eq_or_of_lt hx,
    Nat.mod_eq_of_lt (by omega)]

/-! ## GADDR (04 R134) -/

/-- A word whose address has to lie below the limit of a window. -/
theorem guarded_window {g : BitVec 4} {s t : State} {x limit : Nat} (h : s.guard g = true) (v : Word) :
    (x < limit → guarded g s (.need (decide (x < limit)) cBadWindow v (.ok () t)) = .next t)
    ∧ (limit ≤ x → guarded g s (.need (decide (x < limit)) cBadWindow v (.ok () t)) = .next (trapped s 0x03 v)) := by
  refine ⟨fun hx => ?_, fun hx => ?_⟩
  · rw [Res.need, if_pos (decide_eq_true hx), guarded_ok h]
  · rw [Res.need, decide_eq_false (Nat.not_lt.mpr hx), if_neg Bool.false_ne_true, guarded_trap h]
    rfl

/-! ## SPTEST (04 R135) -/

/-- A single class bit meets the classes of the word when the word names that class. -/
theorem two_pow_and_ne_zero : ∀ k < 5, ∀ c : BitVec 5, (2 ^ k &&& c.toNat != 0) = c.getLsbD k := by decide

theorem classBit_and (code : Nat) (c : BitVec 5) :
    (classBit code &&& c.toNat != 0) = ((c.getLsbD 0 && code == 0) || (c.getLsbD 1 && code == 1) || (c.getLsbD 2 && code == 2)
      || (c.getLsbD 3 && code == 4) || (c.getLsbD 4 && code == 8)) := by
  unfold classBit
  split
  · simpa using two_pow_and_ne_zero 0 (by decide) c
  · simpa using two_pow_and_ne_zero 1 (by decide) c
  · simpa using two_pow_and_ne_zero 2 (by decide) c
  · simpa using two_pow_and_ne_zero 3 (by decide) c
  · simpa using two_pow_and_ne_zero 4 (by decide) c
  · simp_all

/-! ## SPCAST (04 R136) -/

/-- The address is of the scratchpad window: its code, and no bit outside the fields. -/
def padForm (n : Nat) : Prop := bits n 63 60 = 1 ∧ bits n 59 47 = 0 ∧ bits n 39 25 = 0

/-- The address is of the quad-shared window. -/
def quadForm (n : Nat) : Prop := bits n 63 60 = 2 ∧ bits n 59 42 = 0 ∧ bits n 39 25 = 0

theorem padForm_fields {n tag off : Nat} (h : n = 2 ^ 60 + tag * 2 ^ 40 + off) (ht : tag < 128) (ho : off < 2 ^ 25) :
    padForm n ∧ bits n 46 42 = tag / 4 ∧ bits n 41 40 = tag % 4 ∧ bits n 24 0 = off := by
  simp only [padForm, bits_eq]
  omega

theorem padForm_address {n : Nat} (hn : n < 2 ^ 64) (h : padForm n) :
    ∃ tag off, tag < 128 ∧ off < 2 ^ 25 ∧ n = 2 ^ 60 + tag * 2 ^ 40 + off := by
  simp only [padForm, bits_eq] at h
  exact ⟨n / 2 ^ 40 % 128, n % 2 ^ 25, by omega, by omega, by omega⟩

theorem quadForm_fields {n tag off : Nat} (h : n = 2 * 2 ^ 60 + tag * 2 ^ 40 + off) (ht : tag < 4) (ho : off < 2 ^ 25) :
    quadForm n ∧ bits n 41 40 = tag ∧ bits n 24 0 = off := by
  simp only [quadForm, bits_eq]
  omega

theorem quadForm_address {n : Nat} (hn : n < 2 ^ 64) (h : quadForm n) :
    ∃ tag off, tag < 4 ∧ off < 2 ^ 25 ∧ n = 2 * 2 ^ 60 + tag * 2 ^ 40 + off := by
  simp only [quadForm, bits_eq] at h
  exact ⟨n / 2 ^ 40 % 4, n % 2 ^ 25, by omega, by omega, by omega⟩

theorem execSpcast_toQuad {rd a : BitVec 5} {g : BitVec 4} {s : State} (h : s.guard g = true)
    (hf : padForm (s.reg a).toNat) (hq : bits (s.reg a).toNat 46 42 = s.myPair % 128 / 4) :
    execSpcast rd a 0 g s = .next (s.setReg rd 2
      (BitVec.ofNat 64 (2 * 2 ^ 60 + bits (s.reg a).toNat 41 40 * 2 ^ 40 + bits (s.reg a).toNat 24 0))) := by
  obtain ⟨-, -, hc⟩ := s.csrCorenum_fields
  obtain ⟨h1, h2, h3⟩ := hf
  simp only [execSpcast, h1, h2, h3, hq, hc, ne_eq, not_true, or_self, if_true, if_false, guarded_ok h]

theorem execSpcast_foreign {rd a : BitVec 5} {g : BitVec 4} {s : State} (h : s.guard g = true)
    (hf : padForm (s.reg a).toNat) (hq : bits (s.reg a).toNat 46 42 ≠ s.myPair % 128 / 4) :
    execSpcast rd a 0 g s = .next (trapped s 0x04 (s.reg a)) := by
  obtain ⟨-, -, hc⟩ := s.csrCorenum_fields
  obtain ⟨h1, h2, h3⟩ := hf
  simp only [execSpcast, h1, h2, h3, hc, ne_eq, hq, not_true, not_false_eq_true, or_self, if_true, if_false, guarded_trap h]
  rfl

theorem execSpcast_toPad {rd a : BitVec 5} {g : BitVec 4} {s : State} (h : s.guard g = true)
    (hf : quadForm (s.reg a).toNat) :
    execSpcast rd a 1 g s = .next (s.setReg rd 2 (BitVec.ofNat 64
      (2 ^ 60 + (s.myPair % 128 / 4 * 4 + bits (s.reg a).toNat 41 40) * 2 ^ 40 + bits (s.reg a).toNat 24 0))) := by
  obtain ⟨-, -, hc⟩ := s.csrCorenum_fields
  obtain ⟨h1, h2, h3⟩ := hf
  have hd : ¬((1 : BitVec 5) = 0) := by decide
  simp only [execSpcast, h1, h2, h3, hc, hd, ne_eq, not_true, or_self, if_false, guarded_ok h]

/-- Any other address, with the window that the direction asks for. -/
theorem execSpcast_badWindow {rd a d : BitVec 5} {g : BitVec 4} {s : State} (h : s.guard g = true)
    (hd : d = 0 ∧ ¬padForm (s.reg a).toNat ∨ d = 1 ∧ ¬quadForm (s.reg a).toNat) :
    execSpcast rd a d g s = .next (trapped s 0x03 (s.reg a)) := by
  rcases hd with ⟨rfl, hf⟩ | ⟨rfl, hf⟩
  · simp only [padForm, Classical.not_and_iff_not_or_not] at hf
    simp only [execSpcast, if_true, if_pos hf, ne_eq, guarded_trap h]
    rfl
  · simp only [quadForm, Classical.not_and_iff_not_or_not] at hf
    have hd : ¬((1 : BitVec 5) = 0) := by decide
    simp only [execSpcast, hd, if_false, if_pos hf, ne_eq, guarded_trap h]
    rfl

/-- Settles O24: an address is taken apart into its fields, and put together again from them. -/
theorem addressFormation : Obligations.AddressFormation := by
  unfold Obligations.AddressFormation
  refine ⟨fun rd a w g s h hw => ?_, fun pd a c g s h => ?_, fun rd a d g s tag off h ht ho => ⟨?_, ?_, ?_⟩,
    fun rd a d g s h => ⟨?_, ?_⟩⟩
  · obtain ⟨h128, h4, -⟩ := s.csrCorenum_fields
    have hcases : w = 0 ∨ w = 1 ∨ w = 2 := by bv_omega
    rcases hcases with rfl | rfl | rfl
    · refine ⟨fun hx => ?_, (guarded_window h _).2⟩
      have hv : BitVec.ofNat 64 (0 + (s.reg a).toNat) = s.reg a := by rw [Nat.zero_add, BitVec.ofNat_toNat, BitVec.setWidth_eq]
      exact ((guarded_window h _).1 hx).trans (congrArg _ (congrArg _ hv.symm))
    · refine ⟨fun hx => ((guarded_window h _).1 hx).trans ?_, (guarded_window h _).2⟩
      rw [h128, ofNat_or_eq (by omega) (by omega) hx]
      rfl
    · refine ⟨fun hx => ((guarded_window h _).1 hx).trans ?_, (guarded_window h _).2⟩
      rw [h4, ofNat_or_eq (by omega) (by omega) hx]
      rfl
  · have hcode : bits (s.reg a).toNat 63 60 = (s.reg a).toNat / 2 ^ 60 := by rw [bits_eq]; omega
    dsimp only
    rw [← classBit_and, ← hcode]
    exact guarded_ok h _ _
  · rintro rfl hx hq
    obtain ⟨hf, htag, hmem, hoff⟩ := padForm_fields hx ht ho
    rw [← hmem, ← hoff]
    exact execSpcast_toQuad h hf (htag.trans hq)
  · rintro rfl hx hq
    obtain ⟨hf, htag, -, -⟩ := padForm_fields hx ht ho
    exact execSpcast_foreign h hf (htag ▸ hq)
  · rintro rfl htag hx
    obtain ⟨hf, hmem, hoff⟩ := quadForm_fields hx htag ho
    rw [← hmem, ← hoff]
    exact execSpcast_toPad h hf
  · rintro rfl hno
    refine execSpcast_badWindow h (.inl ⟨rfl, fun hf => ?_⟩)
    obtain ⟨tag, off, ht, ho, hx⟩ := padForm_address (s.reg a).isLt hf
    exact hno tag off ht ho hx
  · rintro rfl hno
    refine execSpcast_badWindow h (.inr ⟨rfl, fun hf => ?_⟩)
    obtain ⟨tag, off, ht, ho, hx⟩ := quadForm_address (s.reg a).isLt hf
    exact hno tag off ht ho hx

end Sys2Proof.Machine
end

section
/-! SUPPORT. O25: OBJSZ and OBJVER by the window of their address and the entry of the object. -/
namespace Sys2Proof.Machine

open Sys2Proof.Claims

theorem State.view_firmware (s : State) : s.view.firmware = s.inFirmware := by
  cases ha : s.turn.agent <;> simp only [State.view, State.inFirmware, ha] <;> rfl

/-! ## OBJSZ (04 R137) -/

theorem execObjsz_loaded {rd a : BitVec 5} {g : BitVec 4} {s : State} {hd off : Nat} {o : ObjDesc} (h : s.guard g = true)
    (hw : windowOf (s.reg a) = some (.glob hd off)) (ho : tfind s.view.objs hd = some o) :
    execObjsz rd a g s = .next (s.setReg rd 2 (BitVec.ofNat 64 o.size)) := by
  simp only [execObjsz, hw, ho, guarded_ok h]

theorem execObjsz_unloaded {rd a : BitVec 5} {g : BitVec 4} {s : State} {hd off : Nat} (h : s.guard g = true)
    (hw : windowOf (s.reg a) = some (.glob hd off)) (ho : tfind s.view.objs hd = none) :
    execObjsz rd a g s = .next (trapped s 0x05 (s.reg a)) := by
  simp only [execObjsz, hw, ho, guarded_trap h]
  rfl

/-- A weight object is mapped for a task whose context may read it. -/
theorem weightMapped_iff (s : State) (id : Nat) :
    (!s.view.firmware && s.weightMapped id s.view.ctx) = true
      ↔ s.inFirmware = false ∧ (s.wobj id).st = 1 ∧ (s.wobj id).rd.getLsbD s.view.ctx = true := by
  simp only [s.view_firmware, State.weightMapped, Bool.and_eq_true, Bool.not_eq_true', beq_iff_eq]

theorem execObjsz_weight {rd a : BitVec 5} {g : BitVec 4} {s : State} {id off : Nat} (h : s.guard g = true)
    (hw : windowOf (s.reg a) = some (.weight id off)) :
    execObjsz rd a g s = .next (if !s.view.firmware && s.weightMapped id s.view.ctx
      then s.setReg rd 2 (BitVec.ofNat 64 (s.wobj id).size) else trapped s 0x05 (s.reg a)) := by
  simp only [execObjsz, hw]
  split
  · exact guarded_ok h _ _
  · exact guarded_trap h _ _

theorem execObjsz_badWindow {rd a : BitVec 5} {g : BitVec 4} {s : State} (h : s.guard g = true)
    (hg : ∀ hd off, windowOf (s.reg a) ≠ some (.glob hd off)) (hw : ∀ id off, windowOf (s.reg a) ≠ some (.weight id off)) :
    execObjsz rd a g s = .next (trapped s 0x03 (s.reg a)) := by
  unfold execObjsz
  dsimp only
  split
  · exact absurd ‹_› (hg _ _)
  · exact absurd ‹_› (hw _ _)
  · exact guarded_trap h _ _

/-! ## OBJVER (04 R138) -/

theorem execObjver_busy {rd a : BitVec 5} {g : BitVec 4} {s : State} {hd off : Nat} {o : ObjDesc} (h : s.guard g = true)
    (hw : windowOf (s.reg a) = some (.glob hd off)) (ho : tfind s.view.objs hd = some o)
    (hb : s.objectBusy s.me s.view.objs s.view.ctx o.idx = true) :
    execObjver rd a g s = .next (waiting s Hold.init) := by
  simp only [execObjver, hw, ho, hb, if_true, guarded_hold h]

section
variable {rd a : BitVec 5} {g : BitVec 4} {s : State} {hd off : Nat} {o : ObjDesc} (h : s.guard g = true)
  (hw : windowOf (s.reg a) = some (.glob hd off)) (ho : tfind s.view.objs hd = some o)
  (hb : s.objectBusy s.me s.view.objs s.view.ctx o.idx = false)
include h hw ho hb

theorem execObjver_plain (hp : o.prot = false) : execObjver rd a g s = .next (s.setReg rd 1 0) := by
  simp [execObjver, hw, ho, hb, hp, guarded_ok h]

theorem execObjver_lastVersion {r : ObjRow} (hp : o.prot = true) (hr : tfind (s.ctx s.view.ctx).objs o.idx = some r)
    (hv : r.ver = 0xFFFFFFFF) : execObjver rd a g s = .next (trapped s 0x11 (s.reg a)) := by
  show execObjver rd a g s = .next (trapped s cProt (s.reg a))
  simp [execObjver, State.objRow, hw, ho, hb, hp, hr, hv, guarded_trap h]

theorem execObjver_advance {r : ObjRow} (hp : o.prot = true) (hr : tfind (s.ctx s.view.ctx).objs o.idx = some r)
    (hv : r.ver ≠ 0xFFFFFFFF) :
    execObjver rd a g s
      = .next ((s.setCtx s.view.ctx { s.ctx s.view.ctx with
          objs := tput (s.ctx s.view.ctx).objs o.idx
            { r with ver := r.ver + 1, wmap := if o.mode = 2 then 0 else r.wmap, hwm := if o.mode = 1 then 0 else r.hwm } }).setReg
          rd 1 (BitVec.ofNat 64 (r.ver + 1))) := by
  simp [execObjver, State.objRow, hw, ho, hb, hp, hr, hv, guarded_ok h]

end

/-- Settles O25: by the address's window, then by what stands in the object's entry. -/
theorem objectSizesAndVersions : Obligations.ObjectSizesAndVersions := by
  unfold Obligations.ObjectSizesAndVersions
  refine ⟨fun rd a g s h => ⟨fun hd off hw => ⟨fun o => execObjsz_loaded h hw, execObjsz_unloaded h hw⟩, fun id off hw => ?_,
    execObjsz_badWindow h⟩, fun rd a g s hd off o h hw ho => ⟨execObjver_busy h hw ho, fun hb => ⟨execObjver_plain h hw ho hb,
    fun r hp hr => ⟨execObjver_lastVersion h hw ho hb hp hr, execObjver_advance h hw ho hb hp hr⟩⟩⟩⟩
  rw [← weightMapped_iff]
  exact ⟨fun hm => (execObjsz_weight h hw).trans (by rw [if_pos hm]),
    fun hm => (execObjsz_weight h hw).trans (by rw [if_neg hm])⟩

end Sys2Proof.Machine
end

section
/-! SUPPORT. O26: TWAIT by the generation that it captures, and TCLR by what is outstanding. -/
namespace Sys2Proof.Machine

open Sys2Proof.Claims

theorem captureFrom_ne (toks : Tbl Tok) {n : BitVec 6} (h : n ≠ 63) :
    captureFrom toks n = some ⟨n.toNat, (tget Tok.init toks n.toNat).g⟩ := if_neg h

/-- A captured generation of a token other than 63 is complete when the token's counter has reached it (01 R27). -/
theorem Task.genDone_of_ne (t : Task) {n : BitVec 6} (h : n ≠ 63) (g : BitVec 16) :
    t.genDone ⟨n.toNat, g⟩ = tokReached (t.tok n.toNat).c g := by
  have hn : (n.toNat == 63) = false := by
    rw [beq_eq_false_iff_ne]
    exact fun h' => h (BitVec.eq_of_toNat_eq h')
  rw [Task.genDone, hn, Bool.false_or]

/-! ## TWAIT (04 R148) -/

theorem execTwait_never {s : State} (h : s.inFirmware = false) : execTwait 63 s = .next s := by
  simp [execTwait, h, captureFrom]

theorem execTwait_reached {tk : BitVec 6} {s : State} (h : s.inFirmware = false) (hn : tk ≠ 63)
    (hr : tokReached ((s.task s.me).tok tk.toNat).c (tget Tok.init s.turn.toks tk.toNat).g = true) :
    execTwait tk s = .next s := by
  simp [execTwait, h, captureFrom_ne _ hn, Task.genDone_of_ne _ hn, hr]

theorem execTwait_holds {tk : BitVec 6} {s : State} (h : s.inFirmware = false) (hn : tk ≠ 63)
    (hr : tokReached ((s.task s.me).tok tk.toNat).c (tget Tok.init s.turn.toks tk.toNat).g = false) :
    execTwait tk s = .next (s.holdAfter ⟨.twait, tk.toNat, (tget Tok.init s.turn.toks tk.toNat).g.setWidth 64⟩) := by
  simp [execTwait, h, captureFrom_ne _ hn, Task.genDone_of_ne _ hn, hr]

/-! ## TCLR (04 R149) -/

theorem execTclr_idle {tk : BitVec 6} {s : State} (h : s.inFirmware = false) (hn : tk ≠ 63)
    (hi : (s.task s.me).tokenIdle tk.toNat = true) :
    execTclr tk s = .next (s.setTask s.me { s.task s.me with toks := terase (s.task s.me).toks tk.toNat }) := by
  simp only [execTclr, h, hn, hi, Bool.false_eq_true, if_false, if_true, finish_ok]

theorem execTclr_busy {tk : BitVec 6} {s : State} (h : s.inFirmware = false) (hn : tk ≠ 63)
    (hi : (s.task s.me).tokenIdle tk.toNat = false) :
    execTclr tk s = .next (waiting s ⟨.tclr, tk.toNat, 0⟩) := by
  simp only [execTclr, h, hn, hi, Bool.false_eq_true, if_false, finish_waiting]

/-- A token that its table no longer lists stands at zero. -/
theorem Task.tok_erased (t : Task) (i n : Nat) (h : tsorted t.toks = true) :
    Task.tok { t with toks := terase t.toks i } n = if n = i then ⟨0, 0⟩ else t.tok n := by
  simp only [Task.tok, tget, tfind_terase t.toks i n h, eq_comm (a := n)]
  split <;> rfl

/-- Settles O26: the word's token is captured, and its counter or what is outstanding decides. -/
theorem tokenWaitsAndClears : Obligations.TokenWaitsAndClears := by
  unfold Obligations.TokenWaitsAndClears
  refine ⟨fun tk s => ⟨fun hf => ?_, fun hf => ⟨?_, execTwait_reached hf, fun hn hr => ?_⟩⟩,
    fun tk s hf => ⟨?_, execTclr_busy hf, fun hn hi hs => ⟨_, execTclr_idle hf hn hi, ?_, fun n => ?_⟩⟩⟩
  · show execTwait tk s = _
    rw [execTwait, if_pos hf, finish_illegalBundle]
  · rintro rfl
    exact execTwait_never hf
  · rw [BitVec.ofNat_toNat]
    exact execTwait_holds hf hn hr
  · rintro rfl
    show execTclr 63 s = _
    rw [execTclr, if_neg (by simp [hf]), if_pos rfl, finish_ok]
  · rw [State.setTask_task_same]
  · rw [State.setTask_task_same]
    exact Task.tok_erased _ _ _ hs

end Sys2Proof.Machine
end

section
/-! SUPPORT. O27: the checks of an engine start, one after the other, and the block that it appends. -/
namespace Sys2Proof.Machine

open Sys2Proof.Claims

/-! ## The checks (04 R140, R144, 06 R207) -/

theorem blockRange_ok {s : State} {stream size n : Nat} {a : Word} (hal : a.toNat % size = 0)
    (hin : a.toNat < s.sectionSize (s.task s.me).code stream)
    (hend : a.toNat + n * size ≤ s.sectionSize (s.task s.me).code stream) (k : Res Unit) :
    s.blockRange stream size n a k = k := by
  have hr : ¬(s.sectionSize (s.task s.me).code stream ≤ a.toNat
      ∨ s.sectionSize (s.task s.me).code stream < a.toNat + n * size) := by omega
  rw [State.blockRange, if_neg (fun h => h hal), if_neg hr]

theorem blockRange_misaligned {s : State} {stream size n : Nat} {a : Word} (hal : a.toNat % size ≠ 0) (k : Res Unit) :
    s.blockRange stream size n a k = .trap cAlign a := by
  rw [State.blockRange, if_pos hal]

theorem matrixGate_held {s : State} (h : matrixHeld s) (k : Res Unit) : s.matrixGate k = k := by
  obtain ⟨hf, hl, hb⟩ := h
  simp [State.matrixGate, hf, hl, hb]

theorem matrixGate_firmware {s : State} (h : s.inFirmware = true) (k : Res Unit) : s.matrixGate k = illegalBundle s := by
  rw [State.matrixGate, h, Bool.true_or, if_pos rfl]

theorem matrixGate_unbound {s : State} (hf : s.inFirmware = false) (hl : coreLoft s.myCore = false)
    (hb : (s.mat s.myPair).bound ≠ some s.me) (hw : (s.task s.me).wantsMat = false) (k : Res Unit) :
    s.matrixGate k = .trap cMatrixNotBound s.turn.pc := by
  simp [State.matrixGate, hf, hl, hb, hw]

/-- A record of this pair's scratchpad, under either of its windows. -/
theorem nestAddr_ok {s : State} {a : Word} {tag off : Nat} (hal : a.toNat % 256 = 0)
    (hw : (windowOf a = some (.pad tag off) ∧ tag = s.myPair) ∨ (windowOf a = some (.quad tag off) ∧ tag = s.myPair % 4))
    (k : Res Unit) : s.nestAddr a k = k := by
  rcases hw with ⟨hw, ht⟩ | ⟨hw, ht⟩ <;> simp [State.nestAddr, hw, ht, hal]

/-! ## The last step of a start (04 R141, R142) -/

theorem startBlock_room {s : State} {eng : Nat} {w : TWord} {t : Task} {g : Option Gen}
    (hroom : ((s.task s.me).eng eng).queue.length < 4)
    (hp : (s.task s.me).produce w.tok.prod (some (s.task s.me).serial) = some (t, g)) (b : Block) :
    s.startBlock eng w.tok b = .ok () (started s eng w t g b) := by
  simp only [State.startBlock, queueDepth, if_neg (Nat.not_le.mpr hroom), hp]
  rfl

theorem startBlock_full {s : State} {eng : Nat} (hfull : 4 ≤ ((s.task s.me).eng eng).queue.length) (f : TokenFields)
    (b : Block) : s.startBlock eng f b = .hold ⟨.queue, 0, 0⟩ :=
  if_pos hfull

/-- A start whose other checks have passed begins its block or waits for a free entry. -/
theorem finish_startBlock {s : State} {eng : Nat} {w : TWord} {t : Task} {g : Option Gen} (b : Block) :
    (((s.task s.me).eng eng).queue.length < 4 →
      (s.task s.me).produce w.tok.prod (some (s.task s.me).serial) = some (t, g) →
      finish s (s.startBlock eng w.tok b) = .next (started s eng w t g b))
    ∧ (4 ≤ ((s.task s.me).eng eng).queue.length →
      finish s (s.startBlock eng w.tok b) = .next (waiting s ⟨.queue, 0, 0⟩)) := by
  refine ⟨fun hroom hp => ?_, fun hfull => ?_⟩
  · rw [startBlock_room hroom hp, finish_ok]
  · rw [startBlock_full hfull, finish_waiting]

/-! ## The words -/

theorem execVexec_checked {w : TWord} {s : State} (hf : s.inFirmware = false) (hal : (s.reg w.a).toNat % 12 = 0)
    (hin : (s.reg w.a).toNat < s.sectionSize (s.task s.me).code 1)
    (hend : (s.reg w.a).toNat + w.par.toNat * 12 ≤ s.sectionSize (s.task s.me).code 1)
    (hruns : (if w.b = 0 then 1 else (s.reg w.b).toNat) < 2 ^ 32) :
    execVexec w s = finish s (s.startBlock 1 w.tok { Block.blank with
      start := s.reg w.a, n := w.par.toNat, runs := if w.b = 0 then 1 else (s.reg w.b).toNat }) := by
  simp only [execVexec, hf, Bool.false_eq_true, if_false, blockRange_ok hal hin hend, if_neg (Nat.not_le.mpr hruns)]

theorem execMexec_checked {w : TWord} {s : State} (hm : matrixHeld s) (hal : (s.reg w.a).toNat % 24 = 0)
    (hin : (s.reg w.a).toNat < s.sectionSize (s.task s.me).code 2)
    (hend : (s.reg w.a).toNat + w.par.toNat * 24 ≤ s.sectionSize (s.task s.me).code 2) :
    execMexec w s = finish s (s.startBlock 2 w.tok { Block.blank with start := s.reg w.a, n := w.par.toNat }) := by
  simp only [execMexec, matrixGate_held hm, blockRange_ok hal hin hend]

theorem execXexec_checked {w : TWord} {s : State} (hf : s.inFirmware = false) (hal : (s.reg w.a).toNat % 4 = 0)
    (hin : (s.reg w.a).toNat < s.sectionSize (s.task s.me).code 3) :
    execXexec w s = finish s (s.startBlock 3 w.tok { Block.blank with
      start := s.reg w.a, x1 := s.reg w.b, x2 := BitVec.ofNat 64 w.par.toNat }) := by
  simp only [execXexec, hf, Bool.false_eq_true, if_false, blockRange_ok hal hin (n := 0) (by omega), BitVec.ofNat_toNat]

theorem execMnest_checked {w : TWord} {s : State} {tag off : Nat} (hm : matrixHeld s) (hal : (s.reg w.a).toNat % 256 = 0)
    (hw : (windowOf (s.reg w.a) = some (.pad tag off) ∧ tag = s.myPair)
      ∨ (windowOf (s.reg w.a) = some (.quad tag off) ∧ tag = s.myPair % 4)) :
    execMnest w s = finish s (s.startBlock 2 w.tok { Block.blank with nest := true, start := s.reg w.a }) := by
  simp only [execMnest, matrixGate_held hm, nestAddr_ok hal hw]

/-- Settles O27: the checks pass one after the other, and the last step appends the block or waits; the first that fails
gives the trap. -/
theorem engineStarts : Obligations.EngineStarts := by
  unfold Obligations.EngineStarts
  refine ⟨fun w s t g => ?_, fun w s t g => ?_, fun w s t g => ?_, fun w s t g tag off => ?_,
    fun w s => ⟨fun hf => ⟨?_, ?_, ?_⟩, fun hf hal => ?_, fun hf hal => ?_, fun hm hal => ?_, fun hf hl hb hw => ?_⟩⟩
  · intro a n runs size hf hal hin hend hruns
    show (_ → _ → execVexec w s = _) ∧ (_ → execVexec w s = _)
    rw [execVexec_checked hf hal hin hend hruns]
    exact finish_startBlock (eng := 1) _
  · intro a n size hm hal hin hend
    show (_ → _ → execMexec w s = _) ∧ (_ → execMexec w s = _)
    rw [execMexec_checked hm hal hin hend]
    exact finish_startBlock (eng := 2) _
  · intro a size hf hal hin
    show (_ → _ → execXexec w s = _) ∧ (_ → execXexec w s = _)
    rw [execXexec_checked hf hal hin]
    exact finish_startBlock (eng := 3) _
  · intro a hm hal hw
    show (_ → _ → execMnest w s = _) ∧ (_ → execMnest w s = _)
    rw [execMnest_checked hm hal hw]
    exact finish_startBlock (eng := 2) _
  · show execVexec w s = _
    rw [execVexec, if_pos hf, finish_illegalBundle]
  · show execXexec w s = _
    rw [execXexec, if_pos hf, finish_illegalBundle]
  · show execMexec w s = _
    rw [execMexec, matrixGate_firmware hf, finish_illegalBundle]
  · show execVexec w s = _
    simp only [execVexec, hf, Bool.false_eq_true, if_false, blockRange_misaligned hal]
    rfl
  · show execXexec w s = _
    simp only [execXexec, hf, Bool.false_eq_true, if_false, blockRange_misaligned hal]
    rfl
  · show execMexec w s = _
    simp only [execMexec, matrixGate_held hm, blockRange_misaligned hal]
    rfl
  · show execMexec w s = _
    rw [execMexec, matrixGate_unbound hf hl hb hw]
    rfl

end Sys2Proof.Machine
end

section
/-! SUPPORT. O28, O29 and O30: bank lending, PHASE and the task words, case by case. -/
namespace Sys2Proof.Machine

open Sys2Proof.Claims

/-! ## Bank lending (04 R150) -/

section
variable {b : BitVec 2} {g : BitVec 4} {s : State}

theorem execVlend_held (role : BitVec 1) (hm : matrixHeld s) :
    execVlend b role g s = guarded g s
      (if (s.task s.me).bankInFlight b.toNat || (s.task s.me).lentSrc == some b.toNat || (s.task s.me).lentTgt == some b.toNat
          || (if role = 0 then (s.task s.me).lentSrc.isSome else (s.task s.me).lentTgt.isSome) then
        .trap cResource (b.setWidth 64)
      else .ok () (s.setTask s.me (if role = 0 then { s.task s.me with lentSrc := some b.toNat }
        else { s.task s.me with lentTgt := some b.toNat }))) := by
  simp only [execVlend, matrixGate_held hm]

variable (h : s.guard g = true)
include h

theorem execVrecl_notLent (hf : s.inFirmware = false) (hl : coreLoft s.myCore = false)
    (hs : (s.task s.me).lentSrc ≠ some b.toNat) (ht : (s.task s.me).lentTgt ≠ some b.toNat) :
    execVrecl b g s = .next (trapped s 0x13 (b.setWidth 64)) := by
  show execVrecl b g s = .next (trapped s cResource (b.setWidth 64))
  simp [execVrecl, hf, hl, hs, ht, guarded_trap h]

theorem execVrecl_inUse (hf : s.inFirmware = false) (hl : coreLoft s.myCore = false)
    (hlent : (s.task s.me).lentSrc = some b.toNat ∨ (s.task s.me).lentTgt = some b.toNat)
    (hu : (s.task s.me).bankInUse b.toNat = true) : execVrecl b g s = .next (waiting s ⟨.vrecl, b.toNat, 0⟩) := by
  rcases hlent with hlent | hlent <;> simp [execVrecl, hf, hl, hlent, hu, guarded_hold h]

theorem execVrecl_back (hf : s.inFirmware = false) (hl : coreLoft s.myCore = false)
    (hlent : (s.task s.me).lentSrc = some b.toNat ∨ (s.task s.me).lentTgt = some b.toNat)
    (hu : (s.task s.me).bankInUse b.toNat = false) :
    execVrecl b g s = .next (s.setTask s.me { s.task s.me with
      lentSrc := if (s.task s.me).lentSrc = some b.toNat then none else (s.task s.me).lentSrc,
      lentTgt := if (s.task s.me).lentTgt = some b.toNat then none else (s.task s.me).lentTgt }) := by
  rcases hlent with hlent | hlent <;> simp [execVrecl, hf, hl, hlent, hu, guarded_ok h]

end

/-- Settles O28: by what holds of the bank, as the task has it. -/
theorem bankLending : Obligations.BankLending := by
  unfold Obligations.BankLending
  refine ⟨fun b role g s h hm => ?_, fun b g s h hf hl => ?_⟩
  · dsimp only
    rw [BitVec.ofNat_toNat]
    show (_ → execVlend b role g s = _) ∧ (_ → execVlend b role g s = _)
    rw [execVlend_held role hm]
    exact ⟨fun hb => (congrArg _ (if_pos hb)).trans (guarded_trap h _ _),
      fun hb => (congrArg _ (if_neg (Bool.eq_false_iff.mp hb))).trans (guarded_ok h _ _)⟩
  · dsimp only
    rw [BitVec.ofNat_toNat]
    exact ⟨execVrecl_notLent h hf hl, fun hlent => ⟨execVrecl_inUse h hf hl hlent, execVrecl_back h hf hl hlent⟩⟩

/-! ## PHASE (04 R152) -/

section
variable {a : BitVec 5} {g : BitVec 4} {s : State} (h : s.guard g = true)
include h

theorem execPhase_resource
    (hr : s.lsBytes s.myPair / 0x100000 < (s.reg a).toNat ∨ s.otherContextOn s.myPair s.view.ctx = true) :
    execPhase a g s = .next (trapped s 0x13 (s.reg a)) := by
  show execPhase a g s = .next (trapped s cResource (s.reg a))
  by_cases hl : s.lsBytes s.myPair / 0x100000 < (s.reg a).toNat
  · simp only [execPhase, if_pos hl, guarded_trap h]
  · simp only [execPhase, if_neg hl, hr.resolve_left hl, if_true, guarded_trap h]

variable (hl : (s.reg a).toNat ≤ s.lsBytes s.myPair / 0x100000) (ho : s.otherContextOn s.myPair s.view.ctx = false)
include hl ho

theorem execPhase_moving (hm : (s.pair s.myPair).mov = true) : execPhase a g s = .next (waiting s ⟨.phase, 0, 0⟩) := by
  simp only [execPhase, if_neg (Nat.not_lt.mpr hl), ho, hm, Bool.false_eq_true, if_false, if_true, guarded_hold h]

theorem execPhase_same (hm : (s.pair s.myPair).mov = false) (hx : (s.reg a).toNat = (s.pair s.myPair).cmib) :
    execPhase a g s = .next s := by
  rw [hx] at hl
  simp only [execPhase, hx, if_neg (Nat.not_lt.mpr hl), ho, hm, Nat.lt_irrefl, false_and, Bool.false_eq_true, if_false, if_true,
    guarded_ok h]

/-- With no scoreboard entry over the region the move starts, once every store that waits is performed. -/
theorem execPhase_starts (hm : (s.pair s.myPair).mov = false) (hx : (s.reg a).toNat ≠ (s.pair s.myPair).cmib)
    (hsb : (s.pair s.myPair).sb = []) :
    execPhase a g s = .next ((s.performWhere fun _ => true).setPair s.myPair
      { (s.performWhere fun _ => true).pair s.myPair with
        tgt := (s.reg a).toNat, mov := true, movStart := (s.die s.myDie).cycle }) := by
  simp only [execPhase, if_neg (Nat.not_lt.mpr hl), ho, hm, hsb, if_neg hx, List.any_nil, and_false, Bool.false_eq_true, if_false,
    guarded_ok h]

end

/-- Settles O29: the traps, the wait, and the move come one after the other. -/
theorem phaseMoves : Obligations.PhaseMoves := by
  unfold Obligations.PhaseMoves
  exact fun a g s h => ⟨execPhase_resource h, fun hl ho => ⟨execPhase_moving h hl ho, execPhase_same h hl ho,
    execPhase_starts h hl ho⟩⟩

/-! ## Task words (04 R154, R156, R157) -/

theorem taskWord_firmware {s : State} (h : s.inFirmware = true) (r : Res Unit) : taskWord s r = .trap cIllegal s.turn.wordPc :=
  if_pos h

theorem taskWord_task {s : State} (h : s.inFirmware = false) (r : Res Unit) : taskWord s r = r := by
  rw [taskWord, h, if_neg Bool.false_ne_true]

/-- A word of the TASK group in firmware (04, TASK group). -/
theorem guarded_taskWord_firmware {g : BitVec 4} {s : State} (h : s.guard g = true) (hf : s.inFirmware = true)
    (r : Res Unit) : guarded g s (taskWord s r) = .next (trapped s 0x01 s.turn.wordPc) := by
  rw [taskWord_firmware hf, guarded_trap h]
  rfl

/-- A word of the TASK group that has its effect. -/
theorem guarded_taskWord {g : BitVec 4} {s : State} (h : s.guard g = true) (hf : s.inFirmware = false) (r : Res Unit) :
    guarded g s (taskWord s r) = finish s r := by
  rw [taskWord_task hf, guarded_true h]

/-- Settles O30: in firmware the group traps; in a task each word has its effect by the state of the task. -/
theorem taskWords : Obligations.TaskWords := by
  unfold Obligations.TaskWords
  refine fun g s h => ⟨fun hf => ?_, fun hf => ⟨fun hp => ?_, fun hp => ?_, fun ht hq => ?_, fun ht => ?_, ?_, ?_⟩⟩
  · simp only [List.forall_mem_cons]
    exact ⟨guarded_taskWord_firmware h hf _, guarded_taskWord_firmware h hf _, guarded_taskWord_firmware h hf _,
      guarded_taskWord_firmware h hf _, by simp⟩
  · exact (guarded_taskWord h hf _).trans (by rw [if_pos hp, finish_ok])
  · exact (guarded_taskWord h hf _).trans (by rw [hp, if_neg Bool.false_ne_true, finish_waiting])
  · exact (guarded_taskWord h hf _).trans (by rw [ht, hq, Bool.or_self, if_neg Bool.false_ne_true, finish_ok])
  · exact (guarded_taskWord h hf _).trans (by rw [if_pos (by simpa using ht), finish_ok])
  · exact guarded_taskWord h hf _
  · exact guarded_taskWord h hf _

end Sys2Proof.Machine
end

section
/-! SUPPORT. O31: LAUNCH in a task, after its release, is what the dispatcher makes of the record. -/
namespace Sys2Proof.Machine

/-! ## A release keeps the word in issue (07 R242) -/

theorem State.me_of_sansTraffic {s t : State} (h : t.sansTraffic = s.sansTraffic) : t.me = s.me := by
  have hturn : t.sansTraffic.turn = s.sansTraffic.turn := by rw [h]
  exact congrArg (fun x : Turn => (agentSlot x.agent).getD 0) hturn

theorem State.releaseLines_sansTraffic (s : State) (slot pair scope : Nat) :
    (s.releaseLines slot pair scope).sansTraffic = s.sansTraffic := by
  unfold State.releaseLines
  split
  · rfl
  · refine foldl_frame (g := State.sansTraffic) _ (fun t e => ?_) _ s
    split
    · exact t.writeBack_sansTraffic pair e.1
    · rfl

theorem State.release_sansTraffic {s t : State} {scope : Nat} {u : Unit} (h : s.release scope = .ok u t) :
    t.sansTraffic = s.sansTraffic := by
  unfold State.release at h
  dsimp only at h
  split at h
  · cases h
  · cases h
    rw [State.releaseLines_sansTraffic, State.performWhere_sansTraffic]

/-! ## The record at the dispatcher (15 R399) -/

theorem kernelLaunch_refuses {s v' w : State} {k : Nat} {a : Word} {b : List Byte} {code detail : Nat}
    (hr : s.readRecord (frontView (s.task k).ctx (s.task k).objs) a = .ok b v')
    (hc : v'.checkRecord (frontView (s.task k).ctx (s.task k).objs) b 1 (fun _ => true) = .ok (.error (code, detail)) w) :
    s.kernelLaunch k a = .ok () (w.putStatus (s.task k).ctx (s.task k).objs a code detail) := by
  simp only [State.kernelLaunch, hr, hc, Res.bind_ok]

theorem kernelLaunch_launches {s v' w : State} {k : Nat} {a : Word} {b : List Byte} {r : LaunchRec} {hs : List Nat}
    (hr : s.readRecord (frontView (s.task k).ctx (s.task k).objs) a = .ok b v')
    (hc : v'.checkRecord (frontView (s.task k).ctx (s.task k).objs) b 1 (fun _ => true) = .ok (.ok (r, hs)) w) :
    ∃ l : Launch, s.kernelLaunch k a = .ok () { w with waiting := w.waiting ++ [l] }
      ∧ l.ctx = (s.task k).ctx ∧ l.record = r ∧ l.handles = hs ∧ l.addr = a ∧ l.objs = (s.task k).objs ∧ l.exited = 0
      ∧ l.trigged = 0 ∧ l.producers = (if r.depn = 1 then [(s.task k).lnum] else []) ∧ l.model = (s.task k).model
      ∧ l.adpt = (s.task k).adpt := by
  simp only [State.kernelLaunch, hr, hc, Res.bind_ok]
  exact ⟨_, rfl, rfl, rfl, rfl, rfl, rfl, rfl, rfl, rfl, rfl, rfl⟩

/-- LAUNCH whose record is there, once the task's work is performed, is the dispatcher's after the release (04 R155). -/
theorem execLaunch_released {a : BitVec 5} {g : BitVec 4} {s u v : State} {p : Place} (h : s.guard g = true)
    (hf : s.inFirmware = false) (hp : s.launchPlace s.view (s.reg a) = .ok p u) (hthere : p.there = true)
    (hdone : u.allDone u.me = true) (hrel : u.release 5 = .ok () v) :
    execLaunch a g s = finish s (v.kernelLaunch v.me (s.reg a)) := by
  rw [execLaunch, guarded_taskWord h hf, hp, Res.bind_ok, hthere, hdone, hrel]
  rfl

/-- Settles O31: the release keeps the word in issue, so the record is handed over for its own slot. -/
theorem launchFromATask : Obligations.LaunchFromATask := by
  unfold Obligations.LaunchFromATask
  rintro a g s u v w p b c h hf x v0 hp hthere hdone hrel hme ⟨v', hr, hc⟩ t
  have hv : v.me = s.me := (State.me_of_sansTraffic (State.release_sansTraffic hrel)).trans hme
  have hexec : exec (.launch a g) s = finish s (v.kernelLaunch s.me x) :=
    (execLaunch_released h hf hp hthere hdone hrel).trans (by rw [hv])
  rw [hexec]
  refine ⟨fun r hs hok => ?_, fun code detail herr => ?_⟩
  · obtain ⟨l, hl, hfields⟩ := kernelLaunch_launches hr (hok ▸ hc)
    exact ⟨l, by rw [hl, finish_ok], hfields⟩
  · rw [kernelLaunch_refuses hr (herr ▸ hc), finish_ok]

end Sys2Proof.Machine
end
